-- ==== Sys2Proof/Word.lean ====
section
/-! DEFINITION. Bytes, words and the plainest arithmetic of the model: little-endian fields (R7), bit fields (R8) and saturating counters (R13). -/

namespace Sys2Proof

/-- One byte. -/
abbrev Byte := BitVec 8
/-- A 32-bit management register (R662). -/
abbrev Word := BitVec 32

/-- The value of a little-endian byte list (R7). -/
def leVal : List Byte → Nat
  | [] => 0
  | b :: bs => b.toNat + 256 * leVal bs

/-- `n` as `k` little-endian bytes (R7). -/
def leBytes : Nat → Nat → List Byte
  | 0, _ => []
  | k + 1, n => BitVec.ofNat 8 n :: leBytes k (n / 256)

/-- Bits `hi` down to `lo` of `n` (R8). -/
def bits (n hi lo : Nat) : Nat := (n / 2 ^ lo) % 2 ^ (hi + 1 - lo)

/-- Bit `i` of `n` (R8). -/
def bit (n i : Nat) : Bool := n.testBit i

/-- A Boolean as a bit. -/
def b2n (b : Bool) : Nat := if b then 1 else 0

/-- The quotient rounded up. -/
def ceilDiv (a b : Nat) : Nat := (a + b - 1) / b

/-- A saturating counter of maximum `m` takes `k` more (R13). -/
def satAdd (m a k : Nat) : Nat := min m (a + k)

/-- The field of `k` bytes at offset `o` of a byte string (R7). -/
def field (bs : List Byte) (o k : Nat) : Nat := leVal ((bs.drop o).take k)

/-- SEQ `s` is after SEQ `r` (R66). -/
def seqAfter (s r : Nat) : Bool := let d := (s + 65536 - r) % 65536; 1 ≤ d && d ≤ 32767

/-- `n` bytes of one value. -/
def zeros (n : Nat) : List Byte := List.replicate n 0

/-- The slice of an address (R41). -/
def sliceOf (a : Nat) : Fin 16 := ⟨(bits a 11 8 ^^^ bits a 19 16) % 16, Nat.mod_lt _ (by decide)⟩

end Sys2Proof
end

