-- ==== Sys2Proof/Syntax.lean ====
section
/-! DEFINITION. The commands of the block: one constructor of `Instr` for each row of spec/opcode_table.json, with its operands. The rows give no bits, so the operands are the fields that the rules name. -/

namespace Sys2Proof

/-- A physical channel (R28). -/
abbrev Phys := Fin 136
/-- A logical channel, and its link port (R28). -/
abbrev Log := Fin 128
/-- A queue Q0 to Q3 of a logical channel. -/
abbrev Qn := Fin 4
/-- A host-port slice (R335). -/
abbrev SliceN := Fin 16
/-- A terrace (R28). -/
abbrev Ter := Fin 8
/-- An owner domain (R534). -/
abbrev Dom := Fin 16

/-- The requester of a management access: mg_dom and mg_sec (R541). -/
structure Rqr where
  dom : Dom
  sec : Bool
deriving DecidableEq, Repr

/-- The response to a key-port request (R562, R693). -/
inductive KpRsp where
  | key (beats : List (BitVec 64))
  | counter (v : BitVec 64)
  | err
  | gapped
deriving DecidableEq, Repr

/-- The framing faults of a CMD with a good header (R105, R705). -/
inductive CmdFault where
  | none
  | parity
  | format
  | sop
deriving DecidableEq, Repr

/-- A CMD with a good header that a second sop or the link watchdog cuts, and whether one of the body flits that came has a parity mismatch (R105, R106, R705). -/
structure CutCmd where
  queue : Qn
  seq : BitVec 16
  par : Bool
deriving DecidableEq, Repr

/-- A FLUSH: whether an inbound DELIVER is open, and whether the marker that it writes takes a parity error in the store (R322, R323). -/
structure FlushAt where
  deliverOpen : Bool
  bad : Bool
deriving DecidableEq, Repr

/-- An inbound CMD packet with an error-free header (R58). `psn` tells, for each 64-byte payload word, whether one of its flits carries psn; `upset` are the payload words whose store word, or the marker that takes their place, has a parity error (R322, R326). -/
structure CmdPkt where
  queue : Qn
  seq : BitVec 16
  desc : List Byte
  descPsn : Bool
  payload : List Byte
  psn : List Bool
  fault : CmdFault
  upset : List Nat
deriving DecidableEq, Repr

/-- The inbound errors of R105 that LINK_ERROR carries, by their LAST_KIND of R676. -/
inductive LErr where
  | header
  | psnHeader
  | format
  | sopInside
  | noPacket
  | badType
  | asleep
deriving DecidableEq, Repr

/-- RMODE of an inbound RESUME (R58). -/
inductive RMode where
  | retry
  | skip
deriving DecidableEq, Repr

/-- The interval of R708 that closes. -/
inductive Ivl where
  | link (n : Log)
  | region (d : Dom)
  | access (d : Dom)
deriving DecidableEq, Repr

/-- What a channel posts (R368). `rd` and `wr` are the next read and write of the started descriptor with that serial. -/
inductive PostReq where
  | pidx (q : Qn)
  | ring (q : Qn)
  | chain (q : Qn)
  | rd (q : Qn) (id : Nat)
  | wr (q : Qn) (id : Nat)
  | record (q : Qn)
deriving DecidableEq, Repr

/-- What the journal's SECDED codes report for an entry read at a restore (R518). -/
inductive JErr where
  | clean
  | corrected (n : Nat)
  | uncorrectable
deriving DecidableEq, Repr

/-- What a restore meets (R322, R518): the codes of the entry, and the queues whose gap marker it writes with a parity error. -/
structure JRead where
  err : JErr
  bad : List Qn
deriving DecidableEq, Repr

/-- A data beat group of a read response: the 64-byte words with their poison (R343, R349). -/
structure RWord where
  bytes : List Byte
  psn : Bool
deriving DecidableEq, Repr

/-- An external event on a line of ev_in (R429, R449). -/
structure Ext where
  line : Fin 2
  gen : Fin 8
deriving DecidableEq, Repr

/-- The operands of VERDICT beside its queue and SEQ: the code and the digest that follows it (R58). -/
structure VerdictBody where
  code : Byte
  dig : List Byte
deriving DecidableEq, Repr

/-- The operands of LAST: its channel, and whether an inbound DELIVER is open on it (R102). -/
structure LastIn where
  chan : Log
  deliverOpen : Bool
deriving DecidableEq, Repr

/-- The store words that a descriptor's start reads with a parity error (R326): its descriptor area, or elements of its CMD payload. -/
structure StartUpset where
  area : Bool
  bad : List (Fin 16)
deriving DecidableEq, Repr

/-- When a transaction is presented, how many hclk hp_q_ready keeps its request waiting, how long hp_w_ready stretches its beats, and which beats' words had a parity error: in the host-out FIFO, combining slot or staging buffer (`upset`), or in the window buffer of a SCATTER (`window`) (R326, R335, R339). -/
structure PresentAt where
  h : Nat
  wait : Nat
  stretch : Nat
  upset : List (Fin 4)
  window : List (Fin 4)
deriving DecidableEq, Repr

/-- How the beats of a read response come: the hclk with hp_r_valid 0 before each beat behind the first (R344), and the words, or for a vector group the elements, that have a parity error in the store (R326). -/
structure RspAt where
  gaps : List Nat
  upset : List Nat
deriving DecidableEq, Repr

/-- The queue of which a word of a held response moves, and the hclk (R347). -/
structure MoveAt where
  q : Qn
  h : Nat
deriving DecidableEq, Repr

/-- An error that a channel or its terrace's monitor reports: uncorrectable in a channel's control state or in its bed cursor table (R326, R512), or in the journal entry of a logical channel, outside a restore (R518). -/
inductive ParityOf where
  | control (p : Phys)
  | cursor (p : Phys)
  | journal (n : Log) (j : JErr)
deriving DecidableEq, Repr

/-- A queue whose head retires, or whose drain completes, and the words of the store that a scrub then verifies with a parity error (R326, R332, R333). -/
structure RetireOf where
  q : Qn
  upset : List (BitVec 11)
deriving DecidableEq, Repr

/-- A channel whose scrub ends, and the words whose verification read had a parity error (R326, R332). -/
structure ScrubOf where
  p : Phys
  upset : List (BitVec 11)
deriving DecidableEq, Repr

/-- The commands (spec/opcode_table.json). -/
inductive Instr where
  | porAssert
  | porDeassert (quad addr4 dual : Bool)
  | hrstAssert
  | hrstDeassert
  | vddCoreRemoval
  | readyWaitEnd
  | keyPortResponse (r : KpRsp)
  | keyPortTimeout
  | ledgerValidation (heads : List (List Byte)) (log : List Byte)
  | headersRead (ha hb : List Byte)
  | candidatePass (img : List Byte)
  | candidateReject (img : List Byte)
  | ledgerWriteComplete
  | recordIntervalClose (iv : Ivl)
  | rcRead (off : BitVec 20) (r : Rqr)
  | snapshotRead (off : BitVec 20) (r : Rqr)
  | registerWrite (off : BitVec 20) (v : Word) (r : Rqr)
  | rwlWriteFailed (off : BitVec 20) (v : Word) (r : Rqr)
  | qctlEnable (p : Phys) (q : Qn) (r : Rqr)
  | qctlDrain (p : Phys) (q : Qn) (r : Rqr)
  | arbClassWrite (ix : Fin 64) (v : Word) (r : Rqr)
  | terBcastPulse (t : Ter) (r : Rqr)
  | ldgRdctlGo (r : Rqr)
  | ldgReadbackDone (data : List Byte)
  | out (t : Ter) (all : Bool) (target : Fin 32) (r : Rqr)
  | ret (t : Ter) (all : Bool) (target : Fin 32) (r : Rqr)
  | swap (t : Ter) (target : Fin 32) (r : Rqr)
  | reset (t : Ter) (target : Fin 32) (r : Rqr)
  | stest (t : Ter) (target : Fin 32) (r : Rqr)
  | stestComplete (t : Ter) (pass : Bool)
  | reclaim (t : Ter) (target : Fin 32) (r : Rqr)
  | serviceLoadGo (hdr : List Byte) (r : Rqr)
  | serviceLoadEnd (img : List Byte)
  | cmd (n : Log) (c : CmdPkt)
  | deliverIn (n : Log) (q : Qn) (payload : List Byte) (psn : List Bool) (par : Nat) (final : Bool) (upset : List Nat)
  | creditIn (n : Log) (q : Qn) (inc : BitVec 16)
  | resumeIn (n : Log) (q : Qn) (seq : BitVec 16) (mode : RMode)
  | wakeReady (n : Log)
  | statusAsleep (n : Log)
  | statusLinkErr (n : Log) (q : Qn) (seq : BitVec 16) (off : BitVec 32)
  | verdict (n : Log) (q : Qn) (seq : BitVec 16) (code : VerdictBody) (par : Nat)
  | linkError (n : Log) (k : LErr) (cut : Option CutCmd)
  | single (n : Log)
  | burst (n : Log)
  | last (n : LastIn)
  | flush (n : Log) (f : FlushAt)
  | lkWake (n : Log) (level : Bool)
  | linkWdPacketCut (n : Log) (cut : Option CutCmd)
  | linkWdWake (n : Log)
  | linkWdCredit (n : Log) (q : Qn)
  | verdictTimeout (n : Log) (q : Qn)
  | deliverOut (n : Log) (q : Qn)
  | statusParked (n : Log) (q : Qn)
  | pidxReturn (n : Log) (q : Qn)
  | ringEntryReturn (n : Log) (q : Qn)
  | chainMemberReturn (n : Log) (q : Qn)
  | refetchExpiry (n : Log) (q : Qn)
  | descriptorStart (n : Log) (q : Qn) (upset : StartUpset)
  | descriptorVisible (n : Log) (q : Qn) (id : Nat)
  | descriptorRetire (n : Log) (q : RetireOf)
  | queueDrainComplete (n : Log) (q : RetireOf)
  | channelDrainComplete (p : Phys)
  | eventOutput (n : Log) (e : Fin 4)
  | kickDoorbell (n : Log) (b : Fin 2) (ext : List Ext)
  | kickRelease (n : Log) (b : Fin 2) (ext : List Ext)
  | kickEnable (n : Log) (b : Fin 2) (ext : List Ext)
  | drain (n : Log) (ext : List Ext)
  | wake (n : Log) (ext : List Ext)
  | rateHeldApply (n : Log) (x : Fin 4) (ext : List Ext)
  | waitTimeout (n : Log) (q : Qn) (id : Nat)
  | deadlineMiss (n : Log) (q : Qn) (id : Nat)
  | poolReread (n : Log)
  | poolEmpty (n : Log)
  | transactionPost (p : Phys) (rq : PostReq) (tag : Fin 256) (h : Nat)
  | sliceGrant (sl : SliceN) (h : Nat) (stall : List (Option Nat))
  | transactionPresent (sl : SliceN) (h : PresentAt)
  | readResponse (sl : SliceN) (tag : BitVec 20) (data : List RWord) (resp : BitVec 2) (h : Nat) (at_ : RspAt)
  | returnBufferMove (p : Phys) (q : MoveAt)
  | writeResponse (sl : SliceN) (tag : BitVec 20) (resp : BitVec 2) (h : Nat)
  | lockLeaseExpiry (sl : SliceN) (h : Nat)
  | starve (p : Phys) (entry : Fin 8)
  | sliceWd (sl : SliceN) (h : Nat)
  | livenessPeriod (failed : List Phys) (h : Nat)
  | parityReport (p : ParityOf)
  | takeoverCommit (t : Ter) (j : JRead)
  | restoreComplete (p : Phys) (j : JRead)
  | idlePeriodElapse (p : Phys)
  | dormantEntry (p : Phys)
  | wakeComplete (p : Phys)
  | terraceClockStop (t : Ter)
  | scrubComplete (p : ScrubOf)
  | jtTrst
  | extest (w : BitVec 90992)
  | idcode
  | samplePreload (w : BitVec 90992)
  | clampIdle
  | scan
  | mbist
  | mbistComplete (pass : List Phys)
  | storeRd (phys : Byte) (word : BitVec 11)
  | bypass
  | vddCoreReturn
deriving DecidableEq, Repr

end Sys2Proof
end

