-- ==== Sys2Proof/Config.lean ====
section
/-! DEFINITION. What the spec leaves free: opaque constants with no body, so that no proof sees a value (assumption log 2). -/

namespace Sys2Proof

/-- A value that an output element takes when an input bit of it is poisoned (R258: its value is not defined). The first argument is the state's counter `free` at the start of the descriptor, the second the element's index. -/
opaque Config.poisonedElement : Nat → Nat → Nat

/-- DETAIL of a rejection for which R656 and R660 state none: of a command, and of a load refused with code 0xD, 0xE or 0xF. -/
opaque Config.rejectDetail : Nat → Nat

/-- The RWL bits of a register that is read while a candidate streams (R575): those of the fields decoded so far, or reset values; R573 does not say when each is decoded. The argument is the state's counter `free`. -/
opaque Config.loadingBits : Nat → BitVec 32

/-- What the wrapper samples from pins whose level the spec leaves open (R696, R687). -/
opaque Config.pinSample : Nat → BitVec 90992

/-- Whether a decision of a channel within 2 aclk of a class write uses the old class (R385). The arguments are the state's counter `free` and the number of packets that have left, so that each decision has its own. -/
opaque Config.oldClass : Nat → Nat → Bool

/-- Words released from a host-in FIFO that its writer does not see as free yet, at most those of the last 3 hclk (R311, R312). The arguments are the state's counter `free` and a number of the hclk and queue. -/
opaque Config.hinLag : Nat → Nat → Nat

/-- A word of the store that holds nothing in use: what the last write or scrub left there (R302, R303), which the model does not keep. The arguments are the physical channel and the word. -/
opaque Config.staleWord : Nat → Nat → BitVec 513

/-- The bytes of a gap marker of a count in its word of the store (R320), and those of a cursor from HEAD, TAIL, FILL, NEXT and ROWS (R265): the spec gives neither layout. -/
opaque Config.markerBytes : Nat → BitVec 512
opaque Config.cursorBytes : Nat → Nat → Nat → Nat → Nat → BitVec 128

end Sys2Proof
end

