-- ==== Sys2Proof/Machine/State.lean ====
section
/-! DEFINITION. The state of the block as plain data: every register, queue, buffer and mode that the spec names (INVENTORY.md, State), its reset value, and the reasons to stop. -/

namespace Sys2Proof.Machine

/-- Why the block stops with a fault. -/
inductive Fault where
  /-- Raised by VDD_CORE_REMOVAL while hrst_n is 1, and by HRST_DEASSERT while vdd_core is absent: R632 gives no outcome there. Safe: the run stops. -/
  | supplyOutside
deriving DecidableEq, Repr

/-- Why the block refuses a command. -/
inductive Refusal where
  /-- A command without a meaning in this model, by its mnemonic. Safe: the run stops. -/
  | notModelled (mnemonic : String)
deriving DecidableEq, Repr

/-- Queue states (R137). -/
inductive QS where
  | disabled | active | draining | halted
deriving DecidableEq, Repr, Inhabited

/-- Channel states (R141). -/
inductive CS where
  | off | dormant | waking | active | draining | quarantined | reserve
deriving DecidableEq, Repr, Inhabited

/-- Gatehouse states (R561). -/
inductive GS where
  | reset | ledger | headers | loading | lockWait | locked | failed
deriving DecidableEq, Repr, Inhabited

/-- Transaction kinds (R336). -/
inductive Kind where
  | read | write | lockRead | lockWrite
deriving DecidableEq, Repr, Inhabited

/-- A word of the link FIFO, or what stands between words: payload bytes, dropped words that gap marker `m` counts (R320) and whose parity may be bad (R322), the end of a packet with or without FINAL (R186), a LAST (R102). One marker may count words of several payloads; each of its pieces stands where its words were. -/
inductive LEnt where
  | word (bytes : List Byte) (psn : Bool)
  | gap (n : Nat) (bad : Bool) (m : Nat)
  | eop (final : Bool)
  | last
deriving DecidableEq, Repr

/-- One output byte: its position (host address, or output offset on a link), value, poison, the row, entry, element or byte index that produced it, and whether it is enabled. -/
structure Cell where
  pos : Nat  -- position: byte address, or offset in the link output (R174, R707)
  val : Byte  -- byte (R174)
  psn : Bool  -- poison tag (R122, R305)
  idx : Nat  -- index of the element that gave the byte (R179)
  en : Bool  -- byte enable: 0 for a dropped byte (R175, R189)
deriving DecidableEq, Repr

/-- Which request of its queue a transaction belongs to. -/
inductive Own where
  | pidx
  | ring (i : Nat)
  | chain
  | rd (id k : Nat)
  | wr (id k : Nat)
  | rcd (n : Nat)
deriving DecidableEq, Repr, Inhabited

/-- A host transaction: a pending entry (R368), then a granted, presented and outstanding one. -/
structure Txn where
  phys : Phys := 0  -- physical channel that posted it (R368)
  log : Log := 0  -- logical channel served at the post (R368)
  inc : Nat := 0  -- incarnation at the post (R337, R353)
  q : Qn := 0  -- queue (R368)
  kind : Kind := .read  -- read, write, LOCK_READ or LOCK_WRITE (R336, R368)
  addr : Nat := 0  -- address (R368)
  size : Nat := 64  -- bytes: 64, 128 or 256 (R368, R343)
  tag : Nat := 0  -- local tag (R337)
  own : Own := .pidx  -- what the transaction is for (R101, R115, R119, R123)
  cells : List Cell := []  -- write data with byte enables and poison (R338, R345)
  postH : Nat := 0  -- hclk of the post (R368, R375)
  postA : Nat := 0  -- aclk of the post (R389)
  prom : Bool := false  -- promised when it was posted (R401, R372)
  vec : Bool := false  -- of a vector group (R379)
  granted : Bool := false  -- granted, and in the staging path where it may still be preempted (R379)
  starved : Bool := false  -- its starvation has been reported (R389)
  noMark : Bool := false  -- its mark is cleared by a FLUSH (R323)
  broken : Bool := false  -- its lock broke before its grant (R340, R360)
  grantH : Nat := 0  -- hclk of its latest grant (R372)
  readyH : Nat := 0  -- hclk in which it became ready to present (R339, R372)
  hint : Nat := 0  -- HINT of the latest decision while it waited (R383)
  presA : Nat := 0  -- aclk of its presentation (R391)
deriving DecidableEq, Repr

/-- What a read of a descriptor fills: the consumer takes host-in words; the others are reserved destinations (R346). `flushed` awaits a response whose data a FLUSH has discarded (R323). -/
inductive RSt where
  | posted | flushed | held | landed | taken | err | region
deriving DecidableEq, Repr, Inhabited

/-- A read of a started descriptor, in issue order. `lo` is the lowest index it serves. -/
structure RTx where
  stream : Nat  -- which input of the operation the read serves (R201, R211)
  addr : Nat  -- address (R174)
  size : Nat  -- bytes (R174)
  lo : Nat  -- lowest element index that it serves (R201, R179)
  kind : Kind  -- read or LOCK_READ (R336)
  st : RSt  -- how far it has come (R346)
  data : List RWord  -- returned words with poison (R343)
  moved : Nat := 0  -- words of a held response that the return buffer has moved into the host-in FIFO (R347)
deriving DecidableEq, Repr

/-- How far a destination write has come; `gone` is a write withdrawn or abandoned (R317, R323). -/
inductive WSt where
  | posted | ok | err | region | gone
deriving DecidableEq, Repr, Inhabited

/-- A write of a started descriptor, in output order. -/
structure WTx where
  addr : Nat  -- address (R174)
  size : Nat  -- bytes (R174)
  lo : Nat  -- lowest element index in it (R179)
  cells : List Cell  -- the bytes written (R345)
  st : WSt  -- how far it has come (R317, R350)
deriving DecidableEq, Repr

/-- The fault of a descriptor at the lowest index found so far (R179, R223). -/
structure Flt where
  idx : Nat  -- index of the failing element (R179)
  cause : Nat  -- CAUSE (R169)
  detail : Nat  -- DETAIL (R169)
deriving DecidableEq, Repr

/-- The volatile part of a started descriptor's execution; a re-execution starts it afresh (R152). -/
structure Exec where
  reads : List RTx := []  -- reads issued, in order (R174, R201)
  ri : Nat := 0  -- planned reads issued so far (R201)
  writes : List WTx := []  -- writes issued, in order (R174)
  wi : Nat := 0  -- planned writes issued so far (R174)
  lin : List LEnt := []  -- link input taken so far (R186, R217, R319)
  linEnd : Bool := false  -- the link input has ended (R103, R186)
  excess : Nat := 0  -- payload bytes beyond LENGTH (R187, R189)
  flt : Option Flt := none  -- lowest-index fault found (R179, R223)
  linkErr : Option Nat := none  -- output offset of a link failure (R106, R108)
  chk : Nat := 0  -- progress of a group's or DIGEST's checks, or of the windows of a GATHER or SCATTER (R211, R236, R477)
  wlim : List Nat := []  -- entries of each index window served (R211)
  outSent : Nat := 0  -- output bytes that have left on the link (R85)
  finSent : Bool := false  -- the FINAL has left (R85)
  began : Bool := false  -- MSG_BEGIN has left (R87, R477)
  msgAbort : Bool := false  -- MSG_ABORT has left (R87, R478)
  psnSeen : Bool := false  -- poison was met (R122, R167)
  gapSeen : Bool := false  -- a gap marker was met (R189)
  dropped : Nat := 0  -- words that gap markers counted (R189)
  lost : List (Nat × Nat) := []  -- output ranges that a FLUSH took (R323)
  allow : Option (List Nat) := none  -- cumulative byte limits of the paced requests (R99, R101)
  endAt : Option Nat := none  -- output bytes at which a LAST ended it (R103)
  marked : Option Nat := none  -- rows that an EXPAND's bitmap marks (R202, R217)
  iflt : Option Flt := none  -- fault of the bitmap or list itself (R222)
  creditA : Option Nat := none  -- aclk since which it waits for flit credit (R65, R106)
  finA : Option Nat := none  -- aclk at which the FINAL left (R479)
  pool : Nat := 0  -- step of a chunk take: idle, header, stack, LOCK_READ, LOCK_WRITE, waiting (R269, R273)
  forRow : Bool := false  -- the take is for a row that waits (R269)
  poolA : Option Nat := none  -- aclk since which it waits for a chunk (R273, R274)
  poolR : Nat := 0  -- aclk of the latest header read (R273)
  poolUs : Nat := 0  -- aclk waited so far (R273)
  free : Nat := 0  -- index of the free values of its poisoned elements (R258)
  lockPost : Bool := false  -- the LOCK_WRITE may be posted (R462)
  step3 : Bool := false  -- a VGATHER reads its column (R236)
  badRows : Option Nat := none  -- first row placed in a combining slot's word that had a parity error (R326)
  badOut : Option Nat := none  -- first output element in a host-out word that had a parity error (R326, R486)
  badEls : List Nat := []  -- elements whose group staging position has a parity error (R238, R326)
deriving DecidableEq, Repr, Inhabited

/-- What the journal holds of a LOCKED descriptor (R466), with its old value. -/
inductive Lk where
  | none
  | intent
  | written (old : Nat)
  | noWrite (old : Nat)
  | lost (old : Nat)
  | errRead
  | errWrite (old : Nat)
  | poisoned
  | region
  | operand
deriving DecidableEq, Repr, Inhabited

/-- Where a descriptor came from (R493). -/
inductive Origin where
  | cmd
  | ring (i : Nat)
  | chain (a : Nat)
deriving DecidableEq, Repr, Inhabited

/-- Descriptor stages (R125). -/
inductive Stage where
  | accepted | started | visible
deriving DecidableEq, Repr, Inhabited

/-- An accepted, unretired descriptor of a queue (R125, R516): its submission, promise and progress. -/
structure Acc where
  id : Nat := 0  -- identity of the entry
  seq : Nat := 0  -- SEQ of its submission (R66, R113)
  member : Nat := 0  -- member number in its chain (R119)
  bytes : List Byte := []  -- the descriptor (R157)
  have_ : Bool := true  -- the bytes are there (not yet re-fetched or replayed) (R493, R520)
  payload : List LEnt := []  -- CMD payload as the FIFO kept it (R58, R189)
  origin : Origin := .cmd  -- CMD, ring index or chain address (R493)
  dg : Nat := 0  -- generation of what caused it (R433)
  pre : Option (Nat × Nat) := none  -- CAUSE and DETAIL of a failed check (R161)
  subst : Bool := false  -- a substitute for a fetch that failed (R122)
  tagF : Bool := false  -- its TAG is 0xFFFF (R122)
  notRun : Bool := false  -- it retires unrun (R84, R491)
  retry : Bool := false  -- it is the retry position (R491)
  rows0 : Nat := 0  -- rows placed before the halt (R497)
  reopen : Bool := false  -- it continues the open bed set (R497)
  stage : Stage := .accepted  -- accepted, started or visible (R125)
  own2 : Bool := false  -- it uses one of its queue's own slots (R128)
  anchored : Bool := false  -- its promise is anchored at its start (R411)
  term : Nat := 0  -- transfer term D (R408)
  anchor : Option Nat := none  -- booked anchor (R410)
  deadline : Option Nat := none  -- promised deadline (R410)
  safe : Bool := false  -- replay-safe mark (R524)
  drawn : List Nat := []  -- tokens drawn, by slice and direction (R418)
  missed : Bool := false  -- its miss has been counted (R421)
  replayed : Bool := false  -- REPLAYED (R152, R466)
  startA : Nat := 0  -- aclk of the start (R125)
  visA : Nat := 0  -- aclk at which it became visible (R125, R171)
  satA : Option Nat := none  -- aclk at which a WAIT was satisfied (R470)
  satGen : Nat := 0  -- generation that satisfied it (R470)
  timedOut : Bool := false  -- a WAIT timed out (R470)
  lk : Lk := .none  -- journaled intent and outcome of a LOCKED (R466)
  brokenLock : Bool := false  -- its lock broke (R360, R462)
  verdict : Option Nat := none  -- VCODE of a DIGEST (R479)
  fetched : Bool := false  -- it was fetched and passed its checks before a halt (R493)
  exempt : Bool := false  -- a chain member of a WAIT: its fetch is outside the regulator (R402)
  failAt : Option Nat := none  -- OFFSET that the operator reported of output not sent again yet (R108)
  unserved : Bool := false  -- the channel was unserved while it waited (R422)
  hostLate : Bool := false  -- a response came after HOST_LAT (R422)
  credit : Bool := false  -- it waited for flit credit (R422)
  input : Bool := false  -- it waited for link input (R422)
  consumer : Bool := false  -- its consumer was late (R422)
  lockHeld : Bool := false  -- it waited for another's lock (R422)
  dataIn : Bool := false  -- it took DELIVER data (R104, R499)
  x : Exec := {}  -- execution state (R125)
deriving DecidableEq, Repr

/-- A completion record that is issued and not yet visible, with what it still owes (R516, R520). -/
structure Rec where
  n : Nat := 0  -- record number (R123)
  bytes : List Byte := []  -- the record (R167)
  seq : Nat := 0  -- SEQ (R69)
  dg : Nat := 0  -- generation of its events (R433)
  posted : Bool := false  -- its write is posted (R123)
  seen : Bool := false  -- its write is visible (R123)
  done : Bool := false  -- it raises DONE (R136)
  fault : Bool := false  -- it raises FAULT (R136)
  group : Bool := false  -- it raises GROUP (R246)
  ack : Bool := false  -- it owes ACK RETIRED (R69)
  ord : Nat := 0  -- place of its descriptor in the channel's order of retirement (R430)
deriving DecidableEq, Repr

/-- A posted write whose words stand in the host-out FIFO until they are released in posting order (R309, R316). -/
structure HOut where
  id : Nat  -- its descriptor
  k : Nat  -- its place among the descriptor's writes
  words : Nat  -- 64-byte words that it holds (R308)
  done : Bool  -- its last beat has been accepted, or it was withdrawn or abandoned (R316, R317)
deriving DecidableEq, Repr

/-- The configuration of a queue (R110, R604). -/
structure QCfg where
  valid : Bool := false  -- VALID (R604)
  ring : Bool := false  -- SOURCE (R604)
  skip : Bool := false  -- FAULT_POLICY (R604)
  stream : Bool := false  -- FLOW (R604)
  initActive : Bool := false  -- INIT_STATE (R604)
  dom : Dom := 0  -- DOMAIN (R604)
  window : Nat := 0  -- CMD_WINDOW (R604)
  res : Nat := 0  -- RESERVATION (R604, R428)
  fifo : Nat := 0  -- FIFO_WORDS (R604)
  initWords : Nat := 0  -- INIT_WORDS (R604)
  chainMax : Nat := 0  -- CHAIN_MAX (R604)
  fetchAhead : Nat := 0  -- FETCH_AHEAD (R604)
  cringLog : Nat := 0  -- CRING_LOG2 (R604)
  ringLog : Nat := 0  -- RING_LOG2 (R604)
  cringBase : Nat := 0  -- CRING_BASE (R604)
  ringBase : Nat := 0  -- RING_BASE (R604)
  pidxAddr : Nat := 0  -- PIDX_ADDR (R604)
deriving DecidableEq, Repr, Inhabited

/-- A lazily kept allowance: its value in hundredths of a token at aclk `at_` (R402, R523). -/
structure Bal where
  v : Nat := 0  -- hundredths of a token (R402, R523)
  at_ : Nat := 0  -- aclk of the value (R402, R523)
deriving DecidableEq, Repr, Inhabited

/-- The halted descriptor and its retry position (R489, R491, R501). -/
structure Halt where
  seq : Nat := 0  -- SEQ of the faulted descriptor (R489)
  bytes : List Byte := []  -- the descriptor (R493)
  tagF : Bool := false  -- its TAG is 0xFFFF (R122)
  cause : Nat := 0  -- CAUSE (R489)
  indet : Bool := false  -- INDETERMINATE (R466, R507)
  dg : Nat := 0  -- generation (R433)
  origin : Origin := .cmd  -- CMD, ring index or chain address (R493)
  member : Nat := 0  -- member number (R493)
  noRetry : Bool := false  -- it took DELIVER data under CREDITED flow and is not run again (R499)
  dataIn : Bool := false  -- it took DELIVER data (R499)
  loop : Bool := false  -- it faulted as a chain loop (R119)
  rows : Nat := 0  -- rows placed (R497)
  opened : Bool := false  -- its bed set is open (R497)
  fetched : Bool := false  -- its chain member was fetched (R493)
  exempt : Bool := false  -- it is a chain member of a WAIT (R402)
  held : Option Acc := none  -- a CMD held for the retry position (R494)
  released : Bool := false  -- it is released and waits for its descriptor (R493)
deriving DecidableEq, Repr

/-- A PIDX read and the triggers that wait for it (R114). -/
structure PRd where
  want : Bool := false  -- a trigger waits for the read that is out (R114)
  out : Bool := false  -- a read is due or out (R114)
  posted : Bool := false  -- its read is posted (R114)
  dg : Nat := 0  -- generation of the read (R433)
  wantDg : Nat := 0  -- generation of the waiting trigger (R433)
  data : Option (Option Nat) := none  -- the index returned, or none for a failed read (R115, R116)
deriving DecidableEq, Repr, Inhabited

/-- A fetch of a ring entry or chain member (R115, R119). -/
structure Fetch where
  id : Nat := 0  -- identity
  idx : Nat := 0  -- ring index (R115)
  addr : Nat := 0  -- address (R115, R119)
  dg : Nat := 0  -- generation (R433)
  seq : Nat := 0  -- SEQ of a chain member (R119)
  member : Nat := 0  -- member number (R119)
  after : Nat := 0  -- entry that it follows (R119)
  exempt : Bool := false  -- outside the regulator (R402, R419)
  posted : Bool := false  -- its read is posted (R115)
  data : Option (Option RWord × Nat) := none  -- the word returned and the error cause (R115, R122)
deriving DecidableEq, Repr

/-- The state of one queue of a logical channel. -/
structure Que where
  cfg : QCfg := {}  -- configuration (R110, R604)
  cls : Nat := 0  -- class (ARB_CLASS) (R385, R399)
  clsWas : Option (Nat × Nat) := none  -- class before the last write of it, and its aclk (R385)
  st : QS := .disabled  -- queue state (R137)
  enp : Bool := false  -- ENABLE_PENDING (R137, R155)
  enDg : Nat := 0  -- generation of the enable (R433)
  wasOn : Bool := false  -- ACTIVE when the channel drain began (R145)
  drainA : Nat := 0  -- aclk at which the drain began (R138)
  ringErr : Bool := false  -- RING_ERR (R116, R155)
  kicks : Nat := 0  -- PENDING_KICKS (R131, R155)
  lastAcc : Nat := 0xFFFF  -- last accepted SEQ (R66, R67)
  lastRet : Nat := 0xFFFF  -- last retired SEQ (R67)
  members : Nat := 0  -- members done of the chain at the head (R120, R678)
  fidx : Nat := 0  -- FIDX (R113)
  rcnt : Nat := 0  -- RCNT (R123)
  found : List (Nat × Nat) := []  -- entries that a PIDX read covers, with its generation (R115, R433)
  prd : PRd := {}  -- PIDX read (R114)
  fetches : List Fetch := []  -- ring fetches in flight (R115)
  chain : Option Fetch := none  -- chain fetch in flight (R119)
  refills : List Fetch := []  -- re-fetches in flight (R493, R520)
  refetch : Option Nat := none  -- aclk at which a refused ring entry is fetched again (R117)
  rechain : Option Nat := none  -- aclk at which a refused chain member is fetched again (R119)
  discard : Option Nat := none  -- discard state: the SEQ that it waits for (R73)
  wordCr : Nat := 0  -- word credit granted and unused (R62)
  owed : Nat := 0  -- word credit to return (R63)
  flitCr : Nat := 0  -- flit credit of the consumer (R61)
  link : List LEnt := []  -- link FIFO: words, gap markers, packet ends, LASTs (R305, R319, R320)
  mark : Option Nat := none  -- newest entry of the link FIFO, when it is a gap marker (R320)
  dropPkt : Bool := false  -- the rest of the inbound DELIVER is dropped (R323)
  parked : Option (Nat × Nat) := none  -- descriptor of the latest STATUS PARKED and its aclk (R90)
  acc : List Acc := []  -- accepted, unretired descriptors in order (R125, R126)
  recs : List Rec := []  -- issued records that are not yet visible (R123, R516)
  halt : Option Halt := none  -- halted descriptor (R489)
  fltDet : Bool := false  -- a fault was met while draining (R489)
  qSeq : Nat := 0  -- SEQ of the latest fault (CHN_QFLT) (R507)
  qCause : Nat := 0  -- CAUSE of the latest fault (R507)
  qIndet : Bool := false  -- INDETERMINATE of the latest fault (R507)
  dataAcks : List (Nat × Nat) := []  -- DATA_RETIRED acknowledgements held back, with the declared input of each (R104, R499)
  hin : List (Nat × Nat) := []  -- host-in reads in order (R308, R346)
  hout : List HOut := []  -- posted host-out writes in posting order (R308, R316)
  hinR : Nat := 0  -- release count of the host-in FIFO in words (R309, R311)
  hinRec : List (Nat × Nat) := []  -- latest releases of host-in words: hclk and words (R311, R312)
  houtR : Nat := 0  -- release count of the host-out FIFO in words (R309, R311)
  moveH : Nat := 0  -- hclk from which the return buffer may move a word into the host-in FIFO (R347)
  linkR : Nat := 0  -- release count of the link FIFO in words (R309, R312)
  toDrop : List Nat := []  -- link input that is still to be discarded (R706)
  f : Nat := 0  -- horizon q.f (R414)
  lastB : Option Nat := none  -- last booked descriptor (R414, R416)
  bal : Vector Bal 32 := Vector.replicate 32 {}  -- token balances by slice and direction (R402)
  credit : Vector Nat 32 := Vector.replicate 32 0  -- replay credit by slice and direction (R418)
deriving DecidableEq, Repr, Inhabited

/-- One task input of a logical channel (R439 to R443, R454 to R457, R468). -/
structure TIn where
  mask : BitVec 48 := 0  -- MASK (R454)
  queue : Qn := 0  -- QUEUE (R455)
  mode : Nat := 0  -- KICK_MODE (R455)
  haltAct : Nat := 0  -- HALT_ACTION (R455)
  drainMask : Nat := 0  -- DRAIN_MASK (R455)
  owner : Dom := 0  -- OWNER (R455)
  sec : Bool := false  -- SEC (R455)
  allow : BitVec 16 := 0  -- ALLOW (R456)
  rate : Nat := 0  -- RATE (R456)
  ext0 : Nat := 0  -- EXT_DOM0 (R456)
  ext1 : Nat := 0  -- EXT_DOM1 (R456)
  merged : Nat := 0  -- MERGED (R457)
  overrun : Bool := false  -- OVERRUN (R457)
  loop : Bool := false  -- LOOP (R457)
  heldGen : Option Nat := none  -- generation of the held activation (R442)
  lastGen : Nat := 0  -- LAST_GEN (R457)
  loops : Nat := 0  -- LOOPS (R457)
  acts : Nat := 0  -- ACTIVATIONS (R457)
  lastAct : Option Nat := none  -- aclk of the latest activation (R442)
  doneA : Option Nat := none  -- aclk whose contributions have been taken (R439)
  latch : Option Nat := none  -- wait latch: generation (R468)
  spent : Option (Nat × Nat) := none  -- aclk and generation of the latch use that another WAIT of the same aclk shares (R468)
  contrib : List (Nat × Nat × Nat) := []  -- contributions that wait: aclk, line, generation (R438, R439)
deriving DecidableEq, Repr, Inhabited

/-- One bed's cursor (R265). -/
structure Cur where
  head : Option Nat := none  -- HEAD chunk (R265)
  tail : Option Nat := none  -- TAIL chunk (R265)
  fill : Nat := 0  -- FILL bytes of the tail (R265)
  next : Option Nat := none  -- chunk reserved as the next (R265)
  rows : Nat := 0  -- ROWS (R265)
deriving DecidableEq, Repr

/-- How a chunk take came out (R269, R288, R296). -/
inductive TkOut where
  | open_ | taken | notTaken | unknown
deriving DecidableEq, Repr, Inhabited

/-- A chunk take's journaled intent and outcome (R269). -/
structure Take where
  top : Nat  -- TOP read (R269)
  ver : Nat  -- VER read (R269)
  n : Nat  -- chunks taken (R269)
  ids : List Nat  -- the chunk numbers (R269)
  out : TkOut  -- outcome (R269, R288)
deriving DecidableEq, Repr

/-- The open bed set (R265), the pool values read at open, and the takes of the running descriptor (R296). -/
structure Bed where
  q : Qn := 0  -- queue of the opener (R264)
  dst : Nat := 0  -- pool header address (R266)
  key : Nat := 0  -- KEY width (R265)
  pay : Nat := 0  -- payload width (R265)
  pmode : Nat := 0  -- MODE byte (R265)
  bits : Nat := 0  -- BITS (R265)
  rshift : Nat := 0  -- SHIFT (R265)
  mult : Nat := 0  -- hash multiplier (R277)
  bid : Nat := 0  -- bed set number (R290)
  tuple : Bool := false  -- TUPLE_IN (R265)
  cur : List Cur := []  -- cursors of the beds (R265)
  reserve : List Nat := []  -- chunks in reserve (R269)
  rows : Nat := 0  -- rows placed (R265)
  chunks : Nat := 0  -- chunks in use (R265)
  base : Nat := 0  -- BASE of the pool (R266)
  pchunks : Nat := 0  -- CHUNKS of the pool (R266)
  stack : Nat := 0  -- STACK of the pool (R266)
  opened : Bool := false  -- the header values are recorded (R265, R266)
  opener : Option Nat := none  -- descriptor that opened it (R264)
  takes : List Take := []  -- takes with their intent and outcome (R296, R269)
deriving DecidableEq, Repr

/-- The port parameters (R109, R603, R605). -/
structure PCfg where
  reqQ : Option Qn := none  -- REQ_QUEUE (R603, R605)
  dmax : Nat := 8192  -- DELIVER_MAX (R603, R605)
  burst : Nat := 128  -- BURST_BYTES (R603, R605)
  cwake : Nat := 0  -- CONSUMER_WAKE (R603, R605)
  linkWd : Nat := 100  -- LINK_WD (R603, R605)
  idle : Nat := 0  -- IDLE_LIMIT (R603, R605)
deriving DecidableEq, Repr, Inhabited

/-- What a management command changed in a queue (R49, R684): its state, its flags and halt before, and the entries that it set to retire NOT_RUN. -/
structure PreQ where
  st : QS  -- queue state (R137)
  enp : Bool  -- ENABLE_PENDING (R137)
  enDg : Nat  -- generation of the enable (R433)
  fltDet : Bool  -- a fault was met while draining (R489)
  halt : Option Halt  -- halted descriptor (R489)
  run : List Nat  -- descriptors that were to run (R500)
deriving DecidableEq, Repr

/-- What an OUT or a write of CHN_QCTL found at a logical channel: it is put back when the same aclk declares the channel dead (R49, R654, R684). -/
structure PreOut where
  at_ : Nat  -- aclk of the command (R49)
  st : CS  -- state of the serving channel (R141)
  qs : List PreQ  -- its queues
deriving DecidableEq, Repr

/-- What a RETURN found at a logical channel that was served: it fails when the same aclk declares the channel dead (R49, R654). -/
structure PreRet where
  at_ : Nat  -- aclk of the RETURN (R49)
  done : Bool  -- TER_SVCSTAT.DONE before it (R658)
  chEnp : Bool  -- ENABLE_PENDING of the channel before it (R145)
deriving DecidableEq, Repr

/-- An event in the backlog of an output: its generation, the aclk in which its condition came to hold, and its descriptor's place in the order of retirement (R430, R431). -/
structure Evt where
  gen : Nat  -- generation (R433)
  at_ : Nat  -- aclk of the condition (R430)
  ord : Nat  -- place in the order of retirement (R430)
deriving DecidableEq, Repr

/-- A logical channel: its configuration (live and shadow alike, R20), its queues, and its journal entry. `drain`: a channel drain has begun; `chEnp`: its ENABLE_PENDING at a declaration of death; `outReq`: the aclk of the out-of-service request and whether it had ALL (R656). -/
structure LCh where
  port : PCfg := {}  -- port configuration (R603, R605)
  qs : Vector Que 4 := Vector.replicate 4 {}  -- queues Q0 to Q3 (R110)
  ins : Vector TIn 4 := Vector.replicate 4 {}  -- task inputs KICK0, KICK1, DRAIN, WAKE (R437, R439)
  outs : Vector (List Evt) 4 := Vector.replicate 4 []  -- backlogs of the event outputs DONE, FAULT, GROUP, IDLE (R430, R431)
  retN : Nat := 0  -- descriptors retired (R430)
  outA : Vector (Option Nat) 4 := Vector.replicate 4 none  -- aclk of each output's latest event (R430)
  bed : Option Bed := none  -- open bed set (R265)
  asleep : Bool := false  -- consumer asleep (R96)
  asleepPend : Bool := false  -- STATUS ASLEEP waits for the end of the message (R97)
  wakeReq : Option Nat := none  -- aclk of the WAKE REQUEST (R96, R106)
  msg : Option (Qn × Nat) := none  -- open link message: queue and descriptor (R87)
  rrOut : Nat := 0  -- round robin of the outbound interleave (R85)
  rrSlot : Nat := 0  -- round robin of the shared slots (R128)
  reqs : List Nat := []  -- pending requests in bytes; 0 is a LAST (R99, R103)
  resPend : List (Qn × Nat × RMode) := []  -- inbound RESUMEs that wait for the next aclk, because task inputs have applied in theirs (R135)
  lastPend : Bool := false  -- a LAST waits for the end of an open inbound DELIVER (R102)
  lkWake : Bool := false  -- level of lk_wake (R93)
  oos : Bool := false  -- out of service (TER_OOS) (R643, R659)
  reloaded : Bool := false  -- reloaded since OUT (R645, R650)
  drain : Bool := false  -- a channel drain is journaled (R145, R516)
  chEnp : Bool := false  -- ENABLE_PENDING of the channel through a takeover (R145)
  outReq : Option (Nat × Bool) := none  -- aclk and ALL of the OUT that drains it (R642)
  preOut : Option PreOut := none  -- what the latest OUT found (R49, R654)
  preQctl : Option PreOut := none  -- what the latest write of CHN_QCTL found (R684)
  retReq : Option PreRet := none  -- what the latest RETURN that named it while it was served found (R49, R654)
  fdrain : List (Nat × Nat) := []  -- incarnation changes whose FENCE_DRAIN record is owed: old incarnation and rejected count (R356)
  fleft : Nat := 0  -- outstanding transactions of old incarnations (FDRAIN when not 0) (R356, R365)
deriving DecidableEq, Repr, Inhabited

/-- Channel counters and flags of a CHN page (R330, R331, R508, R639, R676, R677). -/
structure CCnt where
  rewind : BitVec 4 := 0  -- REWIND_NOMARK (R330)
  gapDrop : BitVec 4 := 0  -- GAP_DROP (R330)
  flushed : BitVec 4 := 0  -- FLUSHED (R330)
  parErr : Nat := 0  -- PAR_ERRORS (R331)
  lastArea : Nat := 0  -- LAST_AREA (R331)
  gdrop : Vector Nat 4 := Vector.replicate 4 0  -- CHN_GDROP0 to 3 (R331)
  faults : Nat := 0  -- FAULTS (R508)
  cringFails : Nat := 0  -- CRING_FAILS (R508)
  entries : Nat := 0  -- ENTRIES (R639)
  abandons : Nat := 0  -- ABANDONS (R639)
  wakes : Nat := 0  -- CHN_WAKES (R639)
  lerrs : Nat := 0  -- ERRORS (R676)
  lkind : Nat := 0  -- LAST_KIND (R676)
  reqOvr : Bool := false  -- REQ_OVERRUN (R677)
  creditOvf : Bool := false  -- CREDIT_OVF (R677)
  wdCut : Bool := false  -- WD_CUT (R677)
deriving DecidableEq, Repr, Inhabited

/-- Why a channel is WAKING: from DORMANT (R625), from OFF (R142), or to restore after a channel reset (R143). -/
inductive WakeFor where
  | dormant | off | reset
deriving DecidableEq, Repr, Inhabited

/-- A read response whose beats a channel is taking: its slice, the hclk from which its next beat is presented, and the beats left (R343, R345). -/
structure RIn where
  sl : Nat  -- slice (R345)
  next : Nat  -- hclk from which its next beat is presented (R343)
  left : Nat  -- beats left (R343)
  gaps : List Nat := []  -- hclk without hp_r_valid before the beats that follow (R344)
deriving DecidableEq, Repr, Inhabited

/-- The read-data side of a physical channel in the host port (R345). -/
structure RdPort where
  rin : List RIn := []  -- responses whose beats are still being taken (R345)
  rr : Nat := 0  -- round-robin pointer among the slices (R345)
  h : Nat := 0  -- hclk up to which beats have been taken (R345)
  took : List (Nat × Nat) := []  -- slices, with the hclk of the latest beat taken from each (R345, R359)
deriving DecidableEq, Repr, Inhabited

/-- What a channel reset found: its aclk, and the channel's state (R49). -/
structure PreRst where
  at_ : Nat  -- aclk of the reset (R143)
  st : CS  -- state (R141)
deriving DecidableEq, Repr

/-- A physical channel. `dieA` is a report that the monitor declares in the next aclk: when it came, and its cause (R512). -/
structure PCh where
  st : CS := .off  -- CHN_STATE.STATE (R141, R153)
  chEnp : Bool := false  -- ENABLE_PENDING of the channel (R145, R153)
  c : CCnt := {}  -- counters and flags of the page (R330, R676)
  pend : List Txn := []  -- pending queue (R368)
  gate : Bool := true  -- isolation gate open (R514)
  missed : Nat := 0  -- consecutive periods without a pulse (R509, R510)
  monA : Nat := 0  -- aclk from which it is monitored (R510)
  preRst : Option PreRst := none  -- what the latest channel reset found (R49)
  revived : Bool := false  -- REVIVED is posted for this death (R527)
  parity : Bool := false  -- uncorrectable parity error in its control state (R511)
  dieA : Option (Nat × Nat) := none  -- aclk and cause of a declaration that is due (R512, R513)
  quiet : Nat := 0  -- consecutive quiet aclk (R621, R622)
  stirA : Option Nat := none  -- latest aclk in which a demand, packet, pulse or post made it not quiet (R622, R626)
  entry : Nat := 0  -- dormant entry: 1 + aclk at which it began, 0 when none (R623)
  wakeA : Option Nat := none  -- aclk at which the wake began (R625)
  wakeFor : WakeFor := .dormant  -- what WAKING leads from: DORMANT, OFF or a reset (R141, R143)
  latched : Bool := false  -- demand latched during the entry (R626)
  toDrain : Bool := false  -- a drain waits for the end of the wake or restore (R141, R642)
  locked : Option (Qn × Nat) := none  -- locked sequence in progress: queue and descriptor (R357, R463)
  scrub : Bool := false  -- SCRUBBING (R330, R333)
  scrubbed : Bool := false  -- the store holds zeros since the scrub (R701)
  kept : Option (Log × LCh) := none  -- what a dead channel's store holds until its scrub ends (R334)
  partEnd : Nat := 0  -- aclk at which the latest scrub of a part of the store ends (R330, R333)
  partComb : Bool := false  -- that scrub covers the combining slots and the cursor table (R292, R333)
  frozen : List (Nat × Nat) := []  -- page as it stood at the declaration (R679)
deriving DecidableEq, Repr, Inhabited

/-- A slice's lock (R358 to R361, R366). -/
structure SLock where
  held : Bool := false  -- HELD (R358, R366)
  broken : Bool := false  -- BROKEN (R360, R366)
  cause : Nat := 0  -- LAST_CAUSE (R366)
  owner : Nat := 0  -- OWNER (R366)
  inc : Nat := 0  -- OWNER_INC (R366)
  block : Nat := 0  -- 64-byte block (R358)
  tag : Nat := 0  -- tag of the owner's LOCK_READ (R358)
  phys : Nat := 0  -- physical channel of the owner (R358)
  answered : Bool := false  -- the response of its LOCK_READ has been presented (R359)
  leaseH : Option Nat := none  -- hclk at which the lease began, once known (R359)
  granted : Bool := false  -- its LOCK_WRITE is granted (R359)
  endH : Nat := 0  -- hclk of that grant, at which the lease count stops (R359, R366)
deriving DecidableEq, Repr, Inhabited

/-- The write on a slice's staging path (R372), with the hclk that its channel lets pass before each beat. -/
structure Hold where
  t : Txn  -- write in the staging path (R339, R372)
  grantH : Nat  -- hclk of its grant (R339)
  gaps : List (Option Nat)  -- hclk without a beat before beat 0, 1, 2, 3; none: no beat comes any more (R392)
deriving DecidableEq, Repr

/-- A queue whose replayed transaction waits for a slice's replay band (R523). -/
structure Ask where
  key : Nat  -- 4 times the logical channel, plus the queue
  id : Nat  -- descriptor
  wr : Bool  -- it waits for the band of writes
deriving DecidableEq, Repr

/-- A host-port slice. `lastP` is the hclk in which the latest request was accepted; `bufs` are the staging buffers of presented writes, with the hclk in which the last beat leaves, and whether promised. -/
structure Slice where
  lock : SLock := {}  -- lock (R358, R366)
  issue : List Txn := []  -- granted transactions that are not yet presented (R372)
  hold : Option Hold := none  -- holder of the staging path (R339, R372)
  out : List Txn := []  -- outstanding transactions (R352)
  rr : Vector Nat 8 := Vector.replicate 8 0  -- round-robin pointer of each class (R375)
  park : Option Nat := none  -- parked requester (R378)
  lastH : Option Nat := none  -- hclk of the latest decision (R375)
  lastP : Option (Nat × Bool) := none  -- hclk in which the latest request left the issue positions, and whether it was promised (R335, R372)
  cutP : Option (Nat × Bool) := none  -- hclk in which the watchdog freed the staging path, and whether its write was promised (R374, R393)
  bufs : List (Nat × Bool) := []  -- staging buffers whose beats still leave on hp_w (R339, R373)
  wFree : Nat := 0  -- hclk from which hp_w is free (R339)
  rdP : Option Phys := none  -- channel whose response was presented last on the read-data channel (R344)
  lastB : Option Nat := none  -- hclk of the latest write response (R335)
  wd : List (Nat × Nat) := []  -- watchdog counts of channels that left the path (R392)
  bandR : Bal := {}  -- replay band of reads (R523)
  bandW : Bal := {}  -- replay band of writes (R523)
  asks : List Ask := []  -- queues that wait for a replay band (R523)
  lastR : Nat := 511  -- queue that drew last from the band of reads (R523)
  lastW : Nat := 511  -- queue that drew last from the band of writes (R523)
deriving DecidableEq, Repr, Inhabited

/-- A region window (R536). -/
structure Win where
  base : Nat := 0  -- BASE (R536, R601)
  limit : Nat := 0  -- LIMIT (R536, R601)
  r : Bool := false  -- R (R536)
  w : Bool := false  -- W (R536)
  l : Bool := false  -- L (R536)
  share : Bool := false  -- SHARE (R536)
deriving DecidableEq, Repr, Inhabited

/-- An open interval of R708: the aclk it opened, its count, and the details of its first event. -/
structure Open where
  at_ : Nat  -- aclk at which the interval opened (R708)
  count : Nat  -- events in it (R708)
  a : Nat  -- details: offset or address (R708)
  b : Nat  -- details: kind (R708)
  c : Nat  -- details: queue (R708)
  d : Nat  -- details: logical channel (R708)
deriving DecidableEq, Repr

/-- A domain (R536, R555). -/
structure DomSt where
  sec : Bool := false  -- SEC (R534, R555)
  arb : Bool := false  -- MG_ARB (R555)
  bcast : Bool := false  -- MG_BCAST (R555)
  svc : Bool := false  -- MG_SVC (R555)
  wins : Vector Win 64 := Vector.replicate 64 {}  -- windows W0 to W63 (R536, R554)
  rfault : Nat := 0  -- DOM_RFAULT (R555)
  rIvl : Option Open := none  -- interval of REGION_FAULT records (R708)
  aIvl : Option Open := none  -- interval of ACCESS_DENIED records (R708)
deriving DecidableEq, Repr, Inhabited

/-- A takeover in progress (R519): the logical channel, the replacement, the old physical channel, the aclk of declaration; or a swap (R646). -/
structure Tko where
  log : Log  -- logical channel (R519)
  new : Phys  -- replacement (R519)
  old : Nat  -- channel that it replaces, 0xFF for none (R519)
  at_ : Nat  -- aclk of the declaration or command (R519)
  swap : Bool  -- a SWAP and not a takeover (R646)
  oos : Bool  -- the channel is out of service (R646)
deriving DecidableEq, Repr

/-- A running service command (R641). -/
structure SvcCmd where
  op : Nat  -- OP (R641, R658)
  all : Bool  -- ALL (R641)
  logs : List Nat  -- logical channels still to be done (R643)
  phys : Nat  -- physical channel of STEST or RECLAIM (R652, R653)
  at_ : Nat  -- aclk of the start (R658)
deriving DecidableEq, Repr

/-- A terrace's monitor and registers (R529 to R532, R637, R638, R657 to R659). -/
structure TerSt where
  reserve : Option Phys := none  -- RESERVE_PHYS (R530)
  busy : Bool := false  -- BUSY (R530)
  tko : Option Tko := none  -- takeover or swap in progress (R519, R646)
  noRes : Bool := false  -- NO_RESERVE_EVT (R530)
  jue : Bool := false  -- JOURNAL_UE (R530)
  lastPhys : Nat := 0  -- TER_LAST.PHYS (R531)
  lastLog : Nat := 0  -- TER_LAST.LOGICAL (R531)
  lastRes : Bool := false  -- RESERVE_DEAD (R531)
  lastOld : Nat := 0  -- OLD_INC (R531)
  lastNew : Nat := 0  -- NEW_INC (R531)
  lastCause : Nat := 0  -- CAUSE (R531)
  takeovers : Nat := 0  -- TER_TAKEOVERS (R532)
  revivals : Nat := 0  -- TER_REVIVALS (R532)
  jecc : Nat := 0  -- CORRECTED (R532)
  juec : Nat := 0  -- UNCORRECTED (R532)
  stopped : Bool := false  -- TER_CLK.STOPPED (R637)
  runA : Nat := 0  -- aclk of the latest restart of the tree (R510, R629)
  clkstops : Nat := 0  -- TER_CLKSTOPS (R638)
  stopUs : Nat := 0  -- TER_STOPUS (R638)
  asleepA : Nat := 0  -- consecutive aclk asleep, at most 8 (R627)
  op : Nat := 0  -- LAST_OP (R658)
  target : Nat := 0  -- LAST_TARGET (R658)
  cmd : Option SvcCmd := none  -- command that runs (R641, R658)
  sdone : Bool := false  -- DONE (R658)
  sfail : Bool := false  -- FAIL (R658)
  result : Nat := 0  -- RESULT (R658)
  stest : BitVec 17 := 0  -- TER_STEST (R659)
  stestUs : Nat := 0  -- duration of the latest STEST in µs, for the RECLAIM record (R653, R656)
  vacant : BitVec 17 := 0  -- TER_VACANT (R659)
deriving DecidableEq, Repr, Inhabited

/-- The boot and global registers and the Gatehouse (R561, R587, R670 to R672). -/
structure Gate where
  st : GS := .reset  -- GLB_BOOT.STATE (R561, R587)
  slot : Nat := 0  -- SLOT (R587)
  fallback : Bool := false  -- FALLBACK (R587)
  aReason : Nat := 0xF  -- A_REASON (R587)
  bReason : Nat := 0xF  -- B_REASON (R587)
  quad : Bool := false  -- nv_quad (R564, R587)
  addr4 : Bool := false  -- nv_addr4 (R564, R587)
  dual : Bool := false  -- nv_dual (R564, R587)
  bootDet : Nat := 0  -- GLB_BOOTDET (R587)
  version : Nat := 0  -- GLB_VERSION (R587)
  bootTime : Nat := 0  -- GLB_BOOTTIME (R587)
  kpCnt : Nat := 0  -- GLB_KPCNT (R587)
  cands : List (Nat × Nat) := []  -- candidates still to try: slot and IMAGE_LEN (R573)
  first : Nat := 0  -- first candidate's slot (R573, R587)
  kpReq : Option (Nat × Nat) := none  -- key-port request that is out: select and aclk (R562, R563)
  key : Option (List Byte) := none  -- image key of the running load (R546, R562)
  kpErr : Nat := 0  -- key-port error of the running load (R563, R574)
  locked : Bool := false  -- GLB_STATUS.LOCKED (R670)
  lockA : Nat := 0  -- aclk of lock (R576)
  lockedWrite : Bool := false  -- LOCKED_WRITE (R670)
  denied : Bool := false  -- ACCESS_DENIED (R670)
  unmapped : Bool := false  -- UNMAPPED (R670)
  wrlast : Nat := 0  -- GLB_WRLAST (R671)
  dead : BitVec 8 := 0  -- GLB_FAULT.DEAD (R672)
  mode : Bool := false  -- PLANE_MODE (R550, R551)
  svcPath : Bool := false  -- SVC_PATH (R550, R551)
  testOpen : Bool := false  -- TEST_OPEN (R550, R551)
deriving DecidableEq, Repr, Inhabited

/-- A service load (R649, R660): `named`, `len` and `inService` are what the header names, its IMAGE_LEN, and whether a named channel was in service when the load began. -/
structure Svc where
  addr : Nat := 0  -- GLB_SVCADDR (R660)
  busy : Bool := false  -- BUSY (R660)
  done : Bool := false  -- DONE (R660)
  fail : Bool := false  -- FAIL (R660)
  code : Nat := 0  -- CODE (R660)
  det : Nat := 0  -- GLB_SVCDET (R660)
  named : List Nat := []  -- logical channels named by the header (R649)
  len : Nat := 0  -- IMAGE_LEN of the header (R649)
  pos : Nat := 0  -- bytes of the image for which a read command has been issued (R584)
  inService : Bool := false  -- a named channel was in service at the start (R614)
deriving DecidableEq, Repr, Inhabited

/-- A ledger record without its LSEQ and MAC (R580). -/
structure LRec where
  kind : Nat := 0  -- KIND (R580)
  plane : Nat := 0  -- PLANE (R580)
  q : Nat := 0  -- QUEUE (R580)
  cont : Bool := false  -- CONT (R582)
  src : Nat := 0  -- SOURCE (R580)
  time : Nat := 0  -- TIME (R580)
  lseq : Nat := 0  -- LSEQ (R580)
  at_ : Option Nat := none  -- aclk in which it was posted (R23)
  arg : List Byte := []  -- ARG (R580)
deriving DecidableEq, Repr

/-- The ledger writer and registers (R583, R584, R588). -/
structure Ldg where
  valid : Bool := false  -- VALID (R588)
  noHead : Bool := false  -- NO_HEAD (R588)
  mismatch : Bool := false  -- MISMATCH (R588)
  lost : Bool := false  -- LOST (R588)
  keyErr : Bool := false  -- KEY_ERR (R588)
  irqEn : Bool := false  -- LDG_CFG.IRQ_EN (R588)
  next : Nat := 0  -- next LSEQ (LDG_NEXTLO, LDG_NEXTHI) (R585, R588)
  nextCap : Option Nat := none  -- capture of LDG_NEXTHI (R665)
  lostCnt : Nat := 0  -- LDG_LOSTCNT (R588)
  written : Nat := 0  -- LDG_WRITTEN (R588)
  rdpos : Nat := 0  -- LDG_RDPOS (R589)
  rdBusy : Bool := false  -- LDG_RDSTAT.BUSY (R589)
  rdDone : Bool := false  -- LDG_RDSTAT.DONE (R589)
  rdAt : Nat := 0  -- position of the readback in progress (R588, R589)
  rd : List Byte := List.replicate 32 0  -- LDG_RD0 to LDG_RD7 (R589)
  rdCap : Option (List Byte) := none  -- capture of LDG_RD1 to LDG_RD7 (R665)
  key : Option (List Byte) := none  -- ledger key (R546, R558)
  queue : List LRec := []  -- posting queue (R584)
  cur : Option LRec := none  -- record in the writer (R583)
  logged : Bool := false  -- it stands in its log position; its head copy is not written (R583)
  lossN : Nat := 0  -- records lost since the last LEDGER_LOST (R584)
  lossKind : Nat := 0  -- KIND of the first of them (R584)
  lossP : Option (Nat × Nat) := none  -- aclk and plane of the first of them (R23)
deriving DecidableEq, Repr, Inhabited

/-- The arbiter's registers (R395 to R398). -/
structure Arb where
  limit : Nat := 800  -- STARVE_LIMIT (R395)
  pmin : Nat := 4  -- PCLASS_MIN (R395)
  irqEn : Bool := false  -- STARVE_IRQ_EN (R395)
  classRej : Bool := false  -- CLASS_REJECT (R396)
  wdBite : Bool := false  -- WD_BITE (R396)
  starve : BitVec 512 := 0  -- ARB_STARVE0 to 15 (R397)
  starveCnt : Nat := 0  -- ARB_STARVE_CNT (R398)
  preempt : Nat := 0  -- ARB_PREEMPT (R398)
  bites : Nat := 0  -- ARB_WDBITE (R398)
  wdSlice : Nat := 0  -- ARB_WDLAST.SLICE (R398)
  wdPhys : Nat := 0  -- ARB_WDLAST.PHYS (R398)
  maxwait : Nat := 0  -- ARB_MAXWAIT (R398)
deriving DecidableEq, Repr, Inhabited

/-- The host-port registers (R363, R367). -/
structure Hpt where
  lease : Nat := 512  -- HPT_CFG.LEASE (R363)
  defer : Nat := 0  -- HPT_DEFER (R367)
  fenced : Nat := 0  -- HPT_FENCED (R367)
  lbreak : Nat := 0  -- HPT_LBREAK (R367)
  herr : Nat := 0  -- HPT_HERR (R367)
  stray : Nat := 0  -- HPT_STRAY (R367)
deriving DecidableEq, Repr, Inhabited

/-- The Sundial's registers (R424 to R427). -/
structure Sun where
  hclk : Nat := 2000  -- HCLK_MHZ (R424)
  hostLat : Nat := 300  -- HOST_LAT (R424)
  irqEn : Bool := false  -- MISS_IRQ_EN (R424)
  miss : Bool := false  -- MISS (R425)
  strideBound : Bool := false  -- STRIDE_BOUND (R425)
  tokens : Nat := 2000  -- TOKENS (R426)
  promised : Nat := 0  -- PROMISED (R426)
  gns : Nat := 0  -- G_NS (R426)
  pqueues : Nat := 0  -- PQUEUES (R426)
  misses : Nat := 0  -- SUN_MISS (R426)
  refuse : Nat := 0  -- SUN_REFUSE (R426)
  cclk : Vector Nat 8 := Vector.replicate 8 1500  -- SUN_CCLK0 to 7 (R427)
deriving DecidableEq, Repr, Inhabited

/-- The latest region check failure (R556) and its captures (R665). -/
structure RfSt where
  dom : Nat := 0  -- DOM_RFLAST.DOMAIN (R556)
  kind : Nat := 0  -- KIND (R556)
  q : Nat := 0  -- QUEUE (R556)
  log : Nat := 0  -- LOGICAL (R556)
  addr : Nat := 0  -- DOM_RFADDR (R556)
  capDom : Nat := 0  -- domain whose failure was captured (R665)
  capLo : Option Nat := none  -- capture of DOM_RFADDRLO (R665)
  capHi : Option Nat := none  -- capture of DOM_RFADDRHI (R665)
deriving DecidableEq, Repr, Inhabited

/-- TAP instructions (R696). -/
inductive TapI where
  | extest | idcode | sample | clampIdle | scan | mbist | storeRd | bypass
deriving DecidableEq, Repr, Inhabited

/-- The TAP (R696 to R701). `wrap` is what the wrapper drives, `cap` what it captured. -/
structure Tap where
  ir : TapI := .idcode  -- current instruction (R696)
  mfr : BitVec 11 := 0  -- jt_mfr strap (R686, R698)
  dr : BitVec 32 := 0  -- data register that IDCODE captures (R698)
  wrap : BitVec 90992 := 0  -- wrapper word shifted in (R697)
  cap : BitVec 90992 := 0  -- wrapper word captured (R697)
  mbist : BitVec 272 := 0  -- MBIST register (R700)
  running : List Phys := []  -- channels whose MBIST runs (R700)
  store : BitVec 541 := 0  -- STORE_RD register (R701)
deriving DecidableEq, Repr, Inhabited

/-- EXTEST or CLAMP_IDLE is current: the internal logic neither sees the wrapped inputs nor drives the wrapped outputs (R697). -/
def Tap.drives (t : Tap) : Bool := t.ir == .extest || t.ir == .clampIdle

/-- An outbound link packet (R58). -/
inductive Pkt where
  | ack (q : Qn) (seq stage : Nat)
  | nak (q : Qn) (seq reason after expect : Nat)
  | credit (q : Qn) (inc : Nat)
  | resume (q : Qn) (seq : Nat) (takeover replay : Bool) (inc lastRet window words : Nat)
  | wakeReq
  | msgBegin (q : Qn) (seq len explen : Nat) (param : List Byte) (body : List Byte)
  | msgAbort (q : Qn) (seq reason : Nat)
  | status (q : Qn) (kind seq value : Nat)
  | deliver (q : Qn) (seq tag : Nat) (final msg replay gap : Bool) (off gapWords : Nat) (payload : List Byte) (psn : List Bool)
deriving DecidableEq, Repr

/-- A beat on a slice's write-data channel (R335, R338, R341). -/
structure WBeat where
  data : List Byte  -- hp_w_data, byte by byte (R338)
  be : List Bool  -- hp_w_be (R341)
  poison : Bool  -- hp_poison (R341)
  last : Bool  -- hp_w_last (R335)
deriving DecidableEq, Repr

/-- A presented host request (R335): its transaction, domain, secure attribute and class, and a write's beats. -/
structure HReq where
  t : Txn  -- the transaction presented (R335)
  dom : Nat  -- hp_q_dom (R335)
  sec : Bool  -- hp_q_sec (R335)
  cls : Nat  -- hp_q_class (R335)
  beats : List WBeat  -- write beats in ascending order (R338, R339)
deriving DecidableEq, Repr

/-- A command on the SPI interface to the NVM (R564 to R566). -/
structure Spi where
  code : Nat  -- command byte (R566)
  cs : Fin 2  -- chip select (R564)
  addr : Option (Nat × Nat)  -- address and its bytes (R564)
  dummy : Nat  -- dummy clocks (R566)
  out : List Byte  -- bytes written (R566)
  back : Nat  -- bytes read (R566)
  quad : Bool  -- quad output (R566)
deriving DecidableEq, Repr

/-- What the W1C and RC fields held at the latest aclk edge, after the clears of software since; the other fields of these structures have no meaning (R11). -/
structure Edge where
  gate : Gate := {}  -- GLB registers (R670)
  ldg : Ldg := {}  -- ledger registers (R588)
  svc : Svc := {}  -- service load registers (R660)
  arb : Arb := {}  -- arbiter registers (R396)
  hpt : Hpt := {}  -- host-port registers (R367)
  sun : Sun := {}  -- Sundial registers (R425)
  doms : Vector DomSt 16 := Vector.replicate 16 {}  -- domains (R555)
  ters : Vector TerSt 8 := Vector.replicate 8 {}  -- terraces (R530)
  phys : Vector CCnt 136 := Vector.replicate 136 {}  -- pages of physical channels (R330)
  lch : Vector LCh 128 := Vector.replicate 128 {}  -- logical channels (R155, R457)
deriving DecidableEq, Repr, Inhabited

/-- The state of the block. -/
structure State where
  porN : Bool := false  -- por_n (R558, R690)
  hrstN : Bool := false  -- hrst_n, GLB_STATUS.HRST (R559, R670)
  vddCore : Bool := true  -- vdd_core is there (R631)
  aclk : Nat := 0  -- aclk edges since por_n deasserted (R400)
  hclk : Nat := 0  -- latest hclk edge (R375)
  gate : Gate := {}  -- Gatehouse and GLB registers (R561, R587)
  ldg : Ldg := {}  -- ledger (R579, R588)
  svc : Svc := {}  -- service load (R649, R660)
  arb : Arb := {}  -- arbiter registers (R395)
  hpt : Hpt := {}  -- host-port registers (R363)
  sun : Sun := {}  -- Sundial registers (R424)
  slices : Vector Slice 16 := Vector.replicate 16 {}  -- slices 0 to 15 (R39, R371)
  fence : Vector Nat 128 := Vector.replicate 128 0  -- HPT_FENCE: incarnation of each logical channel (R24, R364)
  map : Vector (Option Phys) 128  -- logical-to-physical map (TER_MAP), none is unserved (R29, R529)
  doms : Vector DomSt 16 := Vector.replicate 16 {}  -- domains 0 to 15 (R534)
  rf : RfSt := {}  -- DOM_RFLAST and captures (R556)
  ters : Vector TerSt 8  -- terraces 0 to 7 (R28, R530)
  phys : Vector PCh 136 := Vector.replicate 136 {}  -- physical channels 0 to 135 (R28, R141)
  lch : Vector LCh 128 := Vector.replicate 128 {}  -- logical channels 0 to 127 (R29)
  linkIvl : Vector (Option Open) 128 := Vector.replicate 128 none  -- LINK_ERR interval of each port (R708)
  rdPorts : Vector RdPort 136 := Vector.replicate 136 {}  -- read-data side of each physical channel (R345)
  jbad : Vector (Option LCh) 128 := Vector.replicate 128 none  -- journal entries that hold an uncorrectable error, as they stood when it was found (R518)
  lastLive : Option Nat := none  -- aclk of the latest liveness period (R509)
  edge : Edge := {}  -- W1C and RC fields at the latest aclk edge (R11)
  tap : Tap := {}  -- test port (R696)
  mgRdata : Word := 0  -- mg_rdata of the latest read (R692)
  irq : BitVec 4 := 0  -- mg_irq lines as registered (R683)
  linkOut : List (Log × Pkt) := []  -- packets that have left, in order (R58, R686)
  evOut : List (Log × Fin 4 × Nat) := []  -- events raised on ev_out (R444, R686)
  hostOut : List (SliceN × HReq) := []  -- transactions presented (R335, R686)
  rspOut : List (SliceN × Nat × Bool) := []  -- first beats of read responses taken: slice, tag, hp_r_defer (R346, R348)
  kpOut : List Nat := []  -- key-port requests made (R562, R686)
  nvmOut : List (Nat × List Byte) := []  -- ledger writes to the NVM (R579, R583)
  spiOut : List Spi := []  -- SPI commands issued (R565, R566, R686)
  free : Nat := 0  -- index of free values
  nextId : Nat := 0  -- next identity of a descriptor or fetch
  pending : List Instr := []  -- commands that wait
deriving DecidableEq, Repr, Inhabited

/-- The reset map: logical channel n on physical channel 17·(n div 16) + (n mod 16) (R29). -/
def mapReset : Vector (Option Phys) 128 :=
  ⟨((List.range 128).map fun n => some (Fin.ofNat 136 (17 * (n / 16) + n % 16))).toArray, by simp⟩

/-- The reset terraces: physical channel 17t + 16 is the reserve of terrace t (R29, R530). -/
def tersReset : Vector TerSt 8 :=
  ⟨((List.range 8).map fun t => ({ reserve := some (Fin.ofNat 136 (17 * t + 16)) } : TerSt)).toArray, by simp⟩

/-- The state right after power-on reset asserts (R558, R667): every field at its reset value. -/
def State.reset : State := { map := mapReset, ters := tersReset }

end Sys2Proof.Machine
end

