-- ==== Sys2Proof/Machine/Ops.lean ====
section
/-! DEFINITION. The named operations over State: reading and updating one channel, queue, slice, terrace or domain, and driving the outputs. -/

namespace Sys2Proof.Machine

/-- What a meaning answers. -/
abbrev Res := Host.Outcome State Fault Refusal

/-- A command whose event cannot occur in the state changes nothing (assumption log 1). -/
def when (b : Bool) (s t : State) : Res := .next (if b then t else s)

/-- All indices below `n`, in order. -/
def fins (n : Nat) : List (Fin n) :=
  (List.range n).filterMap fun i => if h : i < n then some ⟨i, h⟩ else none

/-- Every entry of a vector through one function. -/
def mapV {n : Nat} {α : Type} (v : Vector α n) (f : Fin n → α → α) : Vector α n :=
  (fins n).foldl (fun w (i : Fin n) => w.set i (f i w[i])) v

/-- Byte `o` of an image. -/
def byteAt (b : List Byte) (o : Nat) : Nat := field b o 1

/-- The terrace of a physical channel (R28). -/
def terP (p : Phys) : Ter := ⟨p / 17, by omega⟩
/-- The terrace of a logical channel (R28). -/
def terL (n : Log) : Ter := ⟨n / 16, by omega⟩
/-- Place `i` of terrace `t` as a logical channel (R28). -/
def logAt (t : Ter) (i : Fin 16) : Log := ⟨16 * t + i, by omega⟩
/-- Place `i` of terrace `t` as a physical channel (R28). -/
def physAt (t : Ter) (i : Fin 17) : Phys := ⟨17 * t + i, by omega⟩
/-- The logical channels of a terrace. -/
def logsOf (t : Ter) : List Log := (fins 16).map (logAt t)
/-- The physical channels of a terrace. -/
def physOf (t : Ter) : List Phys := (fins 17).map (physAt t)

/-- Update one physical channel. -/
def State.modP (s : State) (p : Phys) (f : PCh → PCh) : State := { s with phys := s.phys.set p (f s.phys[p]) }
/-- Update one logical channel. -/
def State.modL (s : State) (n : Log) (f : LCh → LCh) : State := { s with lch := s.lch.set n (f s.lch[n]) }
/-- Update one queue of a logical channel. -/
def LCh.modQ (l : LCh) (q : Qn) (f : Que → Que) : LCh := { l with qs := l.qs.set q (f l.qs[q]) }
/-- Update one task input of a logical channel. -/
def LCh.modI (l : LCh) (x : Fin 4) (f : TIn → TIn) : LCh := { l with ins := l.ins.set x (f l.ins[x]) }
/-- Update one queue. -/
def State.modQ (s : State) (n : Log) (q : Qn) (f : Que → Que) : State := s.modL n fun l => l.modQ q f
/-- Update one task input. -/
def State.modI (s : State) (n : Log) (x : Fin 4) (f : TIn → TIn) : State := s.modL n fun l => l.modI x f
/-- Update one slice. -/
def State.modS (s : State) (sl : SliceN) (f : Slice → Slice) : State := { s with slices := s.slices.set sl (f s.slices[sl]) }
/-- Update one terrace. -/
def State.modT (s : State) (t : Ter) (f : TerSt → TerSt) : State := { s with ters := s.ters.set t (f s.ters[t]) }
/-- Update one domain. -/
def State.modD (s : State) (d : Dom) (f : DomSt → DomSt) : State := { s with doms := s.doms.set d (f s.doms[d]) }
/-- Update the counters of a physical channel. -/
def State.modC (s : State) (p : Phys) (f : CCnt → CCnt) : State := s.modP p fun c => { c with c := f c.c }

/-- Store parity errors of an area are counted (R326, R331). -/
def State.parErr (s : State) (p : Phys) (area k : Nat) : State :=
  s.modC p fun c => { c with parErr := satAdd 0xFFFF c.parErr k, lastArea := area }

/-- A queue of a logical channel. -/
def State.que (s : State) (n : Log) (q : Qn) : Que := s.lch[n].qs[q]
/-- A task input of a logical channel. -/
def State.tin (s : State) (n : Log) (x : Fin 4) : TIn := s.lch[n].ins[x]
/-- The incarnation of a logical channel in the fence table (R24, R364). -/
def State.inc (s : State) (n : Log) : Nat := s.fence[n]

/-- The logical channel that the map gives physical channel `p`, if any (R29, R30). -/
def State.logOf (s : State) (p : Phys) : Option Log := (logsOf (terP p)).find? fun n => s.map[n] == some p

/-- A channel state in which a physical channel serves a logical channel (R141). -/
def CS.serves : CS → Bool
  | .dormant | .waking | .active | .draining => true
  | .off | .quarantined | .reserve => false

/-- The physical channel that serves `n`, with its state, when one does. -/
def State.servP (s : State) (n : Log) : Option Phys := s.map[n].filter fun p => s.phys[p].st.serves

/-- The physical channel that serves `n` and runs: ACTIVE or DRAINING (R141). -/
def State.runP (s : State) (n : Log) : Option Phys :=
  s.map[n].filter fun p => s.phys[p].st == .active || s.phys[p].st == .draining

/-- `n` is served by a running channel and the block runs: hrst_n and the core supply are there. -/
def State.runs (s : State) (n : Log) : Bool := s.hrstN && s.vddCore && (s.runP n).isSome

/-- Run `f` with the running channel of `n`; without one nothing happens. -/
def State.withRun (s : State) (n : Log) (f : Phys → State) : State :=
  match s.runP n with
  | some p => if s.hrstN && s.vddCore then f p else s
  | none => s

/-- Run `f` with the running channel of `n` unless a dormant entry is in progress (R623). -/
def State.withAwake (s : State) (n : Log) (f : Phys → State) : State :=
  s.withRun n fun p => if s.phys[p].entry = 0 then f p else s

/-- Drive a packet on the outbound link of port `n` (R58), unless the wrapper drives the pins (R697). -/
def State.send (s : State) (n : Log) (k : Pkt) : State := if s.tap.drives then s else { s with linkOut := s.linkOut ++ [(n, k)] }

/-- The secure attribute of a domain (R534). -/
def State.secOf (s : State) (d : Dom) : Bool := s.doms[d].sec

/-- Fold a state update over a list. -/
def State.over {α : Type} (s : State) (l : List α) (f : State → α → State) : State := l.foldl f s

/-- Fold a state update over all logical channels. -/
def State.allL (s : State) (f : Log → LCh → LCh) : State := { s with lch := mapV s.lch f }
/-- Fold an update over all physical channels. -/
def State.allP (s : State) (f : Phys → PCh → PCh) : State := { s with phys := mapV s.phys f }

/-- Replace the first list entry that meets `p`. -/
def updFirst {α : Type} (p : α → Bool) (f : α → α) : List α → List α
  | [] => []
  | a :: as => if p a then f a :: as else a :: updFirst p f as

/-- Drop the first list entry that meets `p`. -/
def dropFirst {α : Type} (p : α → Bool) : List α → List α
  | [] => []
  | a :: as => if p a then as else a :: dropFirst p as

/-- Replace the entry at index `i`. -/
def updAt {α : Type} (i : Nat) (f : α → α) : List α → List α
  | [] => []
  | a :: as => match i with
    | 0 => f a :: as
    | j + 1 => a :: updAt j f as

/-- An event joins a backlog: behind those whose condition held before, and among those of its aclk in the order of retirement (R430). -/
def insertEvt (e : Evt) : List Evt → List Evt
  | [] => [e]
  | x :: xs => if x.at_ = e.at_ && e.ord < x.ord then e :: x :: xs else x :: insertEvt e xs

/-- A list cut into pieces of `k`, at most `fuel` of them. -/
def chunksOf {α : Type} : Nat → Nat → List α → List (List α)
  | 0, _, _ => []
  | _, _, [] => []
  | fuel + 1, k, l => l.take k :: chunksOf fuel k (l.drop k)

end Sys2Proof.Machine
end

