-- ==== Sys2Proof/Machine/Image.lean ====
section
/-! DEFINITION. Configuration images (R590 to R615): the header and section checks, the field ranges, the consistency rules, and what the fields load. -/

namespace Sys2Proof.Machine

/-- Checks 1 to 5 (R570, R574, R591) for an image of the given KIND: the first failing code and its DETAIL. -/
def headerFail (b : List Byte) (kind : Nat) : Option (Nat × Nat) :=
  let n := field b 8 4
  if field b 0 4 ≠ 0x47494D5A then some (1, 0)
  else if field b 4 2 ≠ 1 then some (2, 4)
  else if n < 256 || n > 1048576 || n % 64 ≠ 0 then some (3, 8)
  else if byteAt b 6 ≠ kind then some (4, 6)
  else if field b 16 4 ≠ 0x5A4D0136 then some (5, 16)
  else if field b 20 2 ≠ 2 then some (5, 20)
  else none

/-- A field outside its range, at its offset (R596). -/
def rng (b : List Byte) (o k lo hi : Nat) (m : Nat := 1) : List Nat :=
  let v := field b o k
  if v < lo || v > hi || v % m ≠ 0 then [o] else []

/-- The first non-zero byte of a reserved or padding range (R595, R596; assumption log 13). -/
def zeroBytes (b : List Byte) (o k : Nat) : List Nat :=
  match (((b.drop o).take k).zipIdx.find? fun x => x.1 ≠ 0#8) with
  | some (_, i) => [o + i]
  | none => []

/-- A reserved field that is not 0, at its offset (R591, R596). -/
def resv (b : List Byte) (o k : Nat) : List Nat := if (zeroBytes b o k).isEmpty then [] else [o]

/-- Bits of a flag byte outside `m` low bits. -/
def flagBits (b : List Byte) (o m : Nat) : List Nat := if byteAt b o ≥ 2 ^ m then [o] else []

/-- A 52-bit address of the given alignment in 8 bytes. -/
def addr52 (b : List Byte) (o al : Nat) : List Nat := rng b o 8 0 (2 ^ 52 - 1) al

/-- A section table entry (R593). -/
structure Sec where
  eo : Nat
  ty : Nat
  inst : Nat
  off : Nat
  len : Nat
  resv : Bool
deriving DecidableEq, Repr

/-- The section table (R593). -/
def sections (b : List Byte) : List Sec :=
  (List.range (field b 24 2)).map fun i =>
    let e := 64 + 16 * i
    ⟨e, byteAt b e, field b (e + 2) 2, field b (e + 4) 4, field b (e + 8) 4,
      byteAt b (e + 1) == 0 && field b (e + 12) 4 == 0⟩

/-- The LENGTH that R594 gives a section. -/
def secLen (b : List Byte) (x : Sec) : Nat :=
  match x.ty with
  | 4 => 64 + 16 * byteAt b (x.off + 1)
  | 5 => 320
  | 6 => 128
  | _ => 64

/-- The greatest INSTANCE of a TYPE (R594). -/
def instMax : Nat → Nat
  | 4 => 15
  | 5 => 127
  | 6 => 127
  | _ => 0

/-- The logical channels that a service image names (R591). -/
def lmask (b : List Byte) : List Nat := (List.range 128).filter fun n => bit (field b 40 16) n

/-- The entry breaks a rule of R595 by itself or against the entry before it. -/
def secBad (svc : Bool) (b : List Byte) (p : Option Sec) (x : Sec) : Bool :=
  let tend := 64 + 16 * field b 24 2
  let tyOk := if svc then x.ty == 5 || x.ty == 6 else 1 ≤ x.ty && x.ty ≤ 6
  let prevOk := match p with
    | none => true
    | some q => (q.ty < x.ty || (q.ty == x.ty && q.inst < x.inst)) && q.off + q.len ≤ x.off
  !(tyOk && x.resv && x.inst ≤ instMax x.ty && x.off % 64 == 0 && tend ≤ x.off
    && x.off + x.len ≤ field b 8 4 - 32 && x.len == secLen b x && prevOk
    && (!svc || (lmask b).contains x.inst))

/-- The breaches of R595 entry by entry. -/
def secWalk (svc : Bool) (b : List Byte) : Option Sec → List Sec → List Nat
  | _, [] => []
  | p, x :: xs => (if secBad svc b p x then [x.eo] else []) ++ secWalk svc b (some x) xs

/-- The offset at which a missing section's entry would stand (R595). -/
def missingAt (b : List Byte) (ty : Nat) : Nat :=
  match (sections b).find? fun x => x.ty > ty with
  | some x => x.eo
  | none => 64 + 16 * field b 24 2

/-- The sections that the Count rule requires (R594, R613). -/
def required (svc : Bool) (b : List Byte) : List (Nat × Nat) :=
  if svc then (lmask b).flatMap fun n => [(5, n), (6, n)] else [(1, 0), (2, 0), (3, 0)]

/-- Check 9 (R595): the offsets of every breach. -/
def sectionFails (svc : Bool) (b : List Byte) : List Nat :=
  let xs := sections b
  secWalk svc b none xs
    ++ (required svc b).flatMap fun (t, i) => if xs.any fun x => x.ty == t && (!svc || x.inst == i) then [] else [missingAt b t]

/-- The header requirements that are RANGE failures (R591). -/
def headerRange (svc : Bool) (b : List Byte) : List Nat :=
  resv b 7 1 ++ resv b 22 2 ++ resv b 26 2 ++ resv b 38 2 ++ resv b 56 8
    ++ (if svc then rng b 24 2 2 256 ++ rng b 36 1 1 2 ++ rng b 37 1 0 (if byteAt b 36 = 1 then 0 else 7) ++ rng b 40 16 1 (2 ^ 128 - 1) else rng b 24 2 3 275 ++ rng b 32 4 0 0 ++ rng b 36 1 0 0 ++ rng b 37 1 0 0 ++ rng b 40 16 0 0)

/-- Non-zero padding between, before and after the sections (R595). -/
def padFails (b : List Byte) : Nat → List Sec → List Nat
  | e, [] => zeroBytes b e (field b 8 4 - 32 - e)
  | e, x :: xs => zeroBytes b e (x.off - e) ++ padFails b (x.off + x.len) xs

/-- The ranges of a queue record (R604). -/
def queueRange (b : List Byte) (o hclk : Nat) : List Nat :=
  if !bit (byteAt b o) 0 then zeroBytes b o 64
  else
    let ring := bit (byteAt b o) 1
    let stream := bit (byteAt b o) 3
    flagBits b o 5 ++ rng b (o + 1) 1 0 15 ++ rng b (o + 2) 1 0 7
      ++ (if ring then rng b (o + 3) 1 0 0 else rng b (o + 3) 1 1 16)
      ++ rng b (o + 4) 2 0 (hclk * 9 / 10) ++ rng b (o + 6) 2 64 416 16
      ++ (if ring || stream then rng b (o + 8) 2 0 0 else rng b (o + 8) 2 1 (field b (o + 6) 2 - 64))
      ++ rng b (o + 10) 2 0 4095
      ++ (if ring then rng b (o + 12) 1 1 16 else rng b (o + 12) 1 0 0)
      ++ rng b (o + 13) 1 4 16
      ++ (if ring then rng b (o + 14) 1 4 16 else rng b (o + 14) 1 0 0)
      ++ resv b (o + 15) 1 ++ addr52 b (o + 16) 64
      ++ (if ring then addr52 b (o + 24) 4096 ++ addr52 b (o + 32) 8 else rng b (o + 24) 8 0 0 ++ rng b (o + 32) 8 0 0)
      ++ resv b (o + 40) 24

/-- The ranges of a task-input record (R606). -/
def taskRange (b : List Byte) (r : Nat) : List Nat :=
  rng b (r + 8) 1 0 3 ++ rng b (r + 9) 1 0 2 ++ rng b (r + 10) 1 0 2 ++ flagBits b (r + 11) 4 ++ rng b (r + 12) 1 0 15
    ++ rng b (r + 13) 1 0 1 ++ rng b (r + 16) 1 0 15 ++ rng b (r + 17) 1 0 15 ++ resv b (r + 18) 14

/-- The ranges of a window entry (R601). -/
def windowRange (b : List Byte) (e : Nat) : List Nat :=
  (if bits (field b e 8) 11 4 ≠ 0 || bits (field b e 8) 63 52 ≠ 0 then [e] else [])
    ++ (if bits (field b (e + 8) 8) 11 0 ≠ 0 || bits (field b (e + 8) 8) 63 52 ≠ 0 then [e + 8] else [])

/-- The ranges of a section (R597 to R606). -/
def sectionRange (b : List Byte) (hclk : Nat) (x : Sec) : List Nat :=
  let o := x.off
  match x.ty with
  | 1 => rng b o 1 0 1 ++ flagBits b (o + 1) 3 ++ resv b (o + 2) 62
  | 2 => rng b o 2 500 2000 ++ rng b (o + 2) 2 50 400 ++ flagBits b (o + 4) 1 ++ resv b (o + 5) 3
      ++ ((List.range 8).flatMap fun t => rng b (o + 8 + 2 * t) 2 100 1500) ++ resv b (o + 24) 40
  | 3 => rng b o 2 100 65535 ++ rng b (o + 2) 1 1 7 ++ flagBits b (o + 3) 1 ++ rng b (o + 4) 2 16 512 ++ resv b (o + 6) 58
  | 4 => flagBits b o 4 ++ rng b (o + 1) 1 0 64 ++ resv b (o + 2) 62
      ++ (List.range (byteAt b (o + 1))).flatMap fun w => windowRange b (o + 64 + 16 * w)
  | 5 => rng b o 1 0 4 ++ rng b (o + 1) 1 0 5 ++ rng b (o + 2) 2 128 2048 64 ++ rng b (o + 4) 2 0 1000
      ++ rng b (o + 6) 2 100 65535 ++ resv b (o + 10) 54
      ++ (List.range 4).flatMap fun q => queueRange b (o + 64 + 64 * q) hclk
  | _ => (List.range 4).flatMap fun k => taskRange b (o + 32 * k)

/-- Check 10 (R596): the offsets of every RANGE failure. -/
def rangeFails (svc : Bool) (b : List Byte) (hclk : Nat) : List Nat :=
  let xs := sections b
  headerRange svc b ++ padFails b (64 + 16 * field b 24 2) xs ++ xs.flatMap (sectionRange b hclk)

/-- A queue record (R604). -/
def decQueue (b : List Byte) (o : Nat) : QCfg :=
  let f := byteAt b o
  { valid := bit f 0, ring := bit f 1, skip := bit f 2, stream := bit f 3, initActive := bit f 4
    dom := Fin.ofNat 16 (byteAt b (o + 1)), window := byteAt b (o + 3), res := field b (o + 4) 2
    fifo := field b (o + 6) 2, initWords := field b (o + 8) 2, chainMax := field b (o + 10) 2
    fetchAhead := byteAt b (o + 12), cringLog := byteAt b (o + 13), ringLog := byteAt b (o + 14)
    cringBase := field b (o + 16) 8, ringBase := field b (o + 24) 8, pidxAddr := field b (o + 32) 8 }

/-- A port record (R603). -/
def decPort (b : List Byte) (o : Nat) : PCfg :=
  { reqQ := if byteAt b o = 0 then none else some (Fin.ofNat 4 (byteAt b o - 1))
    dmax := 256 * 2 ^ byteAt b (o + 1), burst := field b (o + 2) 2, cwake := field b (o + 4) 2
    linkWd := field b (o + 6) 2, idle := field b (o + 8) 2 }

/-- A task-input record (R606), over the input's dynamic state. -/
def decTask (b : List Byte) (r : Nat) (t : TIn) : TIn :=
  { t with
    mask := BitVec.ofNat 48 (field b r 6), rate := field b (r + 6) 2, queue := Fin.ofNat 4 (byteAt b (r + 8))
    mode := byteAt b (r + 9), haltAct := byteAt b (r + 10), drainMask := byteAt b (r + 11)
    owner := Fin.ofNat 16 (byteAt b (r + 12)), sec := byteAt b (r + 13) == 1, allow := BitVec.ofNat 16 (field b (r + 14) 2)
    ext0 := byteAt b (r + 16), ext1 := byteAt b (r + 17) }

/-- A window entry (R601): granule numbers and permissions. -/
def decWin (b : List Byte) (e : Nat) : Win :=
  let lo := field b e 8
  { base := bits lo 51 12, limit := bits (field b (e + 8) 8) 51 12, r := bit lo 0, w := bit lo 1, l := bit lo 2, share := bit lo 3 }

/-- A section loads its fields (R608). -/
def State.loadSec (b : List Byte) (s : State) (x : Sec) : State :=
  let o := x.off
  match x.ty with
  | 1 =>
    let g := byteAt b (o + 1)
    { s with
      gate := { s.gate with mode := byteAt b o == 1, svcPath := bit g 0, testOpen := bit g 1 }
      ldg := { s.ldg with irqEn := bit g 2 } }
  | 2 =>
    { s with sun := { s.sun with
        hclk := field b o 2, hostLat := field b (o + 2) 2, irqEn := bit (byteAt b (o + 4)) 0, tokens := field b o 2
        cclk := mapV s.sun.cclk fun t _ => field b (o + 8 + 2 * t) 2 } }
  | 3 =>
    { s with
      arb := { s.arb with limit := field b o 2, pmin := byteAt b (o + 2), irqEn := bit (byteAt b (o + 3)) 0 }
      hpt := { s.hpt with lease := field b (o + 4) 2 } }
  | 4 =>
    let f := byteAt b o
    let k := byteAt b (o + 1)
    s.modD (Fin.ofNat 16 x.inst) fun d => { d with
      sec := bit f 0, arb := bit f 1, bcast := bit f 2, svc := bit f 3
      wins := mapV d.wins fun w _ => if w.val < k then decWin b (o + 64 + 16 * w) else {} }
  | 5 =>
    s.modL (Fin.ofNat 128 x.inst) fun l => { l with
      port := decPort b o
      qs := mapV l.qs fun q u => { u with cfg := decQueue b (o + 64 + 64 * q), cls := byteAt b (o + 66 + 64 * q), clsWas := none } }
  | _ =>
    s.modL (Fin.ofNat 128 x.inst) fun l => { l with ins := mapV l.ins fun k t => decTask b (o + 32 * k) t }

/-- The valid queues of the block (R604). -/
def State.validQs (s : State) : List (Log × Qn × Que) :=
  (fins 128).flatMap fun n => ((fins 4).map fun q => (n, q, s.que n q)).filter fun x => x.2.2.cfg.valid

/-- The promised queues: RESERVATION above 0 (R401). -/
def State.promisedQs (s : State) : List (Log × Qn × Que) := s.validQs.filter fun x => x.2.2.cfg.res > 0

/-- Σ(5 + ⌈R/100⌉) over queues (R403). -/
def grantSum (qs : List (Log × Qn × Que)) : Nat := (qs.map fun x => 5 + ceilDiv x.2.2.cfg.res 100).sum

/-- The read-only summaries SUN_CAP and SUN_GRANT (R426, R608). -/
def State.summaries (s : State) : State :=
  { s with sun := { s.sun with
      promised := (s.promisedQs.map fun x => x.2.2.cfg.res).sum
      gns := ceilDiv (1000 * grantSum s.promisedQs) s.sun.hclk
      pqueues := s.promisedQs.length } }

/-- Every RWL field at its reset value (R575). -/
def State.rwlReset (s : State) : State :=
  let s := { s with
    gate := { s.gate with mode := false, svcPath := false, testOpen := false }
    ldg := { s.ldg with irqEn := false }
    sun := { s.sun with hclk := 2000, hostLat := 300, irqEn := false, tokens := 2000, promised := 0, gns := 0, pqueues := 0, cclk := Vector.replicate 8 1500 }
    arb := { s.arb with limit := 800, pmin := 4, irqEn := false }
    hpt := { s.hpt with lease := 512 }
    doms := mapV s.doms fun _ d => { d with sec := false, arb := false, bcast := false, svc := false, wins := Vector.replicate 64 {} } }
  s.allL fun _ l => { l with
    port := {}
    qs := mapV l.qs fun _ u => { u with cfg := {}, cls := 0, clsWas := none }
    ins := mapV l.ins fun _ t => { t with
      mask := 0, queue := 0, mode := 0, haltAct := 0, drainMask := 0, owner := 0, sec := false, allow := 0, rate := 0, ext0 := 0, ext1 := 0 } }

/-- The decoded fields of a boot image in the RWL fields (R573, R608). -/
def State.loadBoot (b : List Byte) (s : State) : State := ((sections b).foldl (State.loadSec b) s.rwlReset).summaries

/-- The sections of a service image in the named channels' slices (R21, R615). -/
def State.loadSvc (b : List Byte) (s : State) : State := ((sections b).foldl (State.loadSec b) s).summaries

/-- Where an image names each part; what it does not name takes the DETAIL of R615. -/
structure Where where
  port : Log → Option Nat
  trl : Log → Option Nat
  dom : Dom → Option Nat
  gflags : Nat
  first : Nat

/-- The place of the sections of an image. -/
def whereOf (b : List Byte) : Where :=
  let at_ (t i : Nat) : Option Nat := ((sections b).find? fun x => x.ty == t && x.inst == i).map Sec.off
  { port := fun n => at_ 5 n, trl := fun n => at_ 6 n, dom := fun d => at_ 4 d
    gflags := (at_ 1 0).getD 0 + 1
    first := (((sections b).find? fun x => x.ty == 5).map Sec.off).getD 0 + 65 }

/-- The offset of field `k` of the record of queue `q`. -/
def Where.q (w : Where) (n : Log) (q : Qn) (k : Nat) : Nat :=
  match w.port n with
  | some o => o + 64 + 64 * q + k
  | none => w.first

/-- The offset of field `k` of task input `x`. -/
def Where.t (w : Where) (n : Log) (x : Fin 4) (k : Nat) : Nat :=
  match w.trl n with
  | some o => o + 32 * x + k
  | none => w.first

/-- The offset of window `i` of domain `d`. -/
def Where.w (w : Where) (d : Dom) (i : Nat) : Nat :=
  match w.dom d with
  | some o => o + 64 + 16 * i
  | none => w.first

/-- The first queue at which a running sum passes the limit. -/
def firstOver (f : Log × Qn × Que → Nat) (lim : Nat) : Nat → List (Log × Qn × Que) → Option (Log × Qn × Que)
  | _, [] => none
  | a, x :: xs => if a + f x > lim then some x else firstOver f lim (a + f x) xs

/-- The queues in stream order, those that the image does not name first (R615; assumption log 14). -/
def streamOrder (w : Where) (qs : List (Log × Qn × Que)) : List (Log × Qn × Que) :=
  (qs.filter fun x => (w.port x.1).isNone) ++ (qs.filter fun x => (w.port x.1).isSome)

/-- Some window of `d` covers the granule and grants what `f` asks (R537). -/
def DomSt.covers (d : DomSt) (g : Nat) (f : Win → Bool) : Bool :=
  d.wins.toList.any fun w => w.base ≤ g && g ≤ w.limit && f w

/-- Every granule of a range is covered (R609). -/
def DomSt.coversAll (d : DomSt) (a len : Nat) (f : Win → Bool) : Bool :=
  (List.range ((a + len - 1) / 4096 - a / 4096 + 1)).all fun i => d.covers (a / 4096 + i) f

/-- The rules of R609 over the queues. -/
def queueRules (s : State) (w : Where) : List Nat :=
  let qs := s.validQs
  let pq := s.promisedQs
  let one (o : Option (Log × Qn × Que)) (k : Nat) : List Nat := match o with
    | some x => [w.q x.1 x.2.1 k]
    | none => []
  (qs.flatMap fun (n, q, u) => if (s.arb.pmin ≤ u.cls) == (u.cfg.res > 0) then [] else [w.q n q 2])
    ++ one (firstOver (fun x => x.2.2.cfg.res) (s.sun.hclk * 9 / 10) 0 (streamOrder w qs)) 4
    ++ (pq.flatMap fun (n, q, u) => match pq.find? fun y => y.1 == n with
        | some y => if y.2.2.cls == u.cls then [] else [w.q n q 2]
        | none => [])
    ++ one (firstOver (fun x => 1000 * (5 + ceilDiv x.2.2.cfg.res 100)) (400 * s.sun.hclk) (s.sun.hostLat * s.sun.hclk) (streamOrder w pq)) 4
    ++ ((fins 128).flatMap fun n => one (firstOver (fun x => x.2.2.cfg.fifo) 608 0 (qs.filter fun x => x.1 == n)) 6)
    ++ (qs.flatMap fun (n, q, u) => if (u.cfg.stream || !u.cfg.ring) && u.cfg.fifo < 80 then [w.q n q 6] else [])
    ++ ((fins 128).flatMap fun n => match s.lch[n].port.reqQ with
        | none => []
        | some q => if (s.que n q).cfg.valid && (s.que n q).cfg.ring then [] else [(w.port n).getD w.first])
    ++ (qs.flatMap fun (n, q, u) => match qs.find? fun y => y.1 == n with
        | some y => if s.secOf y.2.2.cfg.dom == s.secOf u.cfg.dom then [] else [w.q n q 1]
        | none => [])
    ++ (qs.flatMap fun (n, q, u) =>
        let d := s.doms[u.cfg.dom]
        (if d.coversAll u.cfg.cringBase (16 * 2 ^ u.cfg.cringLog) Win.w then [] else [w.q n q 16])
          ++ (if !u.cfg.ring || d.coversAll u.cfg.ringBase (64 * 2 ^ u.cfg.ringLog) Win.r then [] else [w.q n q 24])
          ++ (if !u.cfg.ring || d.coversAll u.cfg.pidxAddr 8 Win.r then [] else [w.q n q 32]))

/-- The rules of R539 over the windows. -/
def windowRules (s : State) (w : Where) : List Nat :=
  let ws := (fins 16).flatMap fun d => (fins 64).map fun i => (d, i, s.doms[d].wins[i])
  let act := ws.filter fun x => x.2.2.r || x.2.2.w
  (act.flatMap fun (d, i, x) => if x.base ≤ x.limit then [] else [w.w d i])
    ++ (ws.flatMap fun (d, i, x) => if x.l && !(x.r && x.w) then [w.w d i] else [])
    ++ (ws.flatMap fun (d, i, x) => if x.share && !s.secOf d then [w.w d i] else [])
    ++ ((act.filter fun x => !s.secOf x.1).flatMap fun (d, i, x) =>
        (act.filter fun y => s.secOf y.1 && !y.2.2.share).flatMap fun (e, j, y) =>
          if x.base ≤ y.limit && y.base ≤ x.limit && x.base ≤ x.limit && y.base ≤ y.limit then [max (w.w d i) (w.w e j)] else [])

/-- Domain `d` is the input's owner or an allowed producer domain (R447). -/
def TIn.allows (t : TIn) (d : Nat) : Bool := t.owner.val == d || t.allow.getLsbD d

/-- The channel of the terrace at the place that ENABLE bit index `k` of `n`'s inputs names (R437). -/
def producer (n : Log) (k : Nat) : Log :=
  let i := n.val % 16
  Fin.ofNat 128 (16 * (n.val / 16) + (if k < i then k else k + 1))

/-- The rules of R447 and R607 for one task input. -/
def taskRules (s : State) (w : Where) (n : Log) (x : Fin 4) : List Nat :=
  let t := s.tin n x
  let own := w.t n x 12
  let wake := s.tin n 3
  let uses (k : Nat) : Bool := (fins 4).any fun y => (s.tin n y).mask.getLsbD k
  let unused := (x ≥ 2 && (t.queue.val ≠ 0 || t.mode ≠ 0 || t.haltAct ≠ 0)) || (x ≠ 2 && t.drainMask ≠ 0)
    || (x ≠ 3 && (t.ext0 ≠ 0 || t.ext1 ≠ 0)) || (x == 3 && ((t.ext0 ≠ 0 && !uses 45) || (t.ext1 ≠ 0 && !uses 46)))
  (if unused then [own] else [])
    ++ (if t.mask = 0 then []
      else
        (if t.sec == s.secOf t.owner then [] else [own])
          ++ (if x < 2 && t.owner ≠ (s.que n t.queue).cfg.dom then [own] else [])
          ++ (if x == 2 && (fins 4).any fun q => bit t.drainMask q && (s.que n q).cfg.dom ≠ t.owner then [own] else [])
          ++ (if !t.sec && (fins 16).any fun d => t.allow.getLsbD d && s.secOf d then [own] else [])
          ++ (if (List.range 45).any fun b => t.mask.getLsbD b && (fins 4).any fun q =>
                let u := s.que (producer n (b / 3)) q
                u.cfg.valid && !t.allows u.cfg.dom then [w.t n x 0] else [])
          ++ (if (t.mask.getLsbD 45 && !t.allows wake.ext0) || (t.mask.getLsbD 46 && !t.allows wake.ext1) then [w.t n x 0] else []))

/-- Check 11 (R609): the offsets of every broken rule, in the configuration `s` that would stand after the load. -/
def ruleFails (s : State) (w : Where) : List Nat :=
  queueRules s w ++ windowRules s w ++ ((fins 128).flatMap fun n => (fins 4).flatMap fun x => taskRules s w n x)
    ++ (if s.gate.svcPath && !s.gate.mode then [w.gflags] else [])

/-- The lowest offset of a list. -/
def lowest : List Nat → Option Nat
  | [] => none
  | a :: as => some (as.foldl min a)

/-- Checks 9 to 11 of an image (R574, R596), the code and its DETAIL; `s` holds the configuration before the load. -/
def contentFail (svc : Bool) (b : List Byte) (s : State) : Option (Nat × Nat) :=
  match lowest (sectionFails svc b) with
  | some o => some (9, o)
  | none =>
    let hclk := if svc then s.sun.hclk else (((sections b).find? fun x => x.ty == 2).map fun x => field b x.off 2).getD 0
    match lowest (rangeFails svc b hclk) with
    | some o => some (10, o)
    | none => (lowest (ruleFails (if svc then s.loadSvc b else s.loadBoot b) (whereOf b))).map fun o => (11, o)

end Sys2Proof.Machine
end

