-- ==== Sys2Proof/Machine/Operands.lean ====
section
/-! DEFINITION. Descriptors: their fields (R157 to R159), their checks (R160 to R163, R704 and the field rules of each opcode), and the splitting of a host side into transactions (R174). -/

namespace Sys2Proof.Machine

/-- One step of the CRC-16 of R57 over a bit. -/
def crcBit (c : Nat) (b : Bool) : Nat :=
  let top := c.testBit 15 != b
  let c2 := (c * 2) % 65536
  if top then c2 ^^^ 0x1021 else c2

/-- CRC-16 of R57. -/
def crc16 (bs : List Byte) : Nat :=
  bs.foldl (fun c b => [7, 6, 5, 4, 3, 2, 1, 0].foldl (fun x i => crcBit x (b.getLsbD i)) c) 0xFFFF

/-- A descriptor's bytes (R157). -/
abbrev Desc := List Byte

namespace Desc
def op (d : Desc) : Nat := field d 0 1
def flags (d : Desc) : Nat := field d 1 1
def tag (d : Desc) : Nat := field d 2 2
def len (d : Desc) : Nat := field d 4 4
def src (d : Desc) : Nat := field d 8 8
def dst (d : Desc) : Nat := field d 16 8
/-- Bytes 24 to 31: BMAP, LIST, PAY, EXP or PATTERN. -/
def a24 (d : Desc) : Nat := field d 24 8
def b (d : Desc) (o : Nat) : Nat := field d o 1
def next (d : Desc) : Nat := field d 48 8
def crc (d : Desc) : Nat := field d 62 2
def fence (d : Desc) : Bool := bit d.flags 0
def signal (d : Desc) : Bool := bit d.flags 1
def linked (d : Desc) : Bool := bit d.flags 2
def hold (d : Desc) : Bool := bit d.flags 3
/-- ID_LIMIT (R205, R232). -/
def idLimit (d : Desc) : Nat := field d 56 6
/-- Bytes `o` to `o + k - 1` are 0. -/
def zero (d : Desc) (o k : Nat) : Bool := field d o k == 0
/-- A signed 32-bit field. -/
def s32 (d : Desc) (o : Nat) : Int := let n := field d o 4; if n ≥ 2 ^ 31 then (n : Int) - 2 ^ 32 else n
end Desc

/-- The LINK bit of a side (R159). -/
def isLink (v : Nat) : Bool := bit v 63
/-- A side that is the link and well formed (R159). -/
def linkSide (v : Nat) : Bool := v == 2 ^ 63
/-- A side that is a host address with its reserved bits 0 (R159). -/
def hostSide (v : Nat) : Bool := v < 2 ^ 52

/-- A footprint: lowest and highest byte address; none when empty (R177). -/
abbrev Fp := Option (Int × Int)

/-- The footprint of one contiguous range. -/
def fp (a len : Nat) : Fp := if len = 0 then none else some (a, a + len - 1)
/-- A footprint within 0 to 2^52 - 1 (R178). -/
def Fp.ok : Fp → Bool
  | none => true
  | some (lo, hi) => 0 ≤ lo && hi ≤ 2 ^ 52 - 1
/-- Two footprints intersect (R177). -/
def Fp.meets : Fp → Fp → Bool
  | some (a, b), some (c, d) => a ≤ d && c ≤ b
  | _, _ => false

/-- What the checks of a descriptor see beside its bytes. -/
structure DCtx where
  pay : Nat
  cmd : Bool
  gap : Bool
  stream : Bool
  linkWords : Nat
deriving DecidableEq, Repr

/-- The width of a code of R196. -/
def wOf (c : Nat) : Nat := 2 ^ c
/-- W of a sieve, vector or PARTITION key code. -/
def Desc.w (d : Desc) : Nat := wOf (d.b 32)
/-- The row-ID width (R206). -/
def Desc.idw (d : Desc) : Nat := if d.b 33 = 1 then 8 else 4
/-- Wp of a PARTITION (R275). -/
def Desc.wp (d : Desc) : Nat := if d.b 33 = 7 then 0 else wOf (d.b 33)
/-- Tw of R276. -/
def tupleW (n : Nat) : Nat := (([1, 2, 4, 8, 16, 32] : List Nat).find? fun t => n ≤ t).getD 64
/-- Tw of a PARTITION. -/
def Desc.tw (d : Desc) : Nat := tupleW (d.w + d.wp)
/-- PFLAGS.TUPLE_IN. -/
def Desc.tupleIn (d : Desc) : Bool := bit (d.b 37) 1
/-- W of a LOCKED (R458). -/
def Desc.opw (d : Desc) : Nat := wOf (d.b 25)
/-- The lane bytes Lb of an UNPACK (R251). -/
def Desc.lane (d : Desc) : Nat := wOf (d.b 25)
/-- Wout and Win of a NARROW (R253). -/
def Desc.wout (d : Desc) : Nat := wOf (2 - d.b 24)
def Desc.win (d : Desc) : Nat := 2 * d.wout
/-- The source bytes of an UNPACK: with LENGTH 0 those of BIT_OFF (R252). -/
def Desc.unpackBytes (d : Desc) : Nat := (d.b 27 + d.len * d.b 24 + 7) / 8
/-- The bitmap bytes (R216). -/
def Desc.bmapBytes (d : Desc) : Nat := if d.len = 0 then 0 else (d.b 33 + d.len + 7) / 8
/-- An operation of LOCKED that takes Y (R459). -/
def lopHasY (l : Nat) : Bool := l == 1 || l == 3

/-- Corner footprint of a STRIDE side (R177, R181). -/
def strideFp (d : Desc) (base : Nat) (o : Nat) : Fp :=
  let rb := field d 24 4
  let c1 := field d 28 2
  let c2 := field d 30 2
  if rb = 0 || c1 = 0 || c2 = 0 then none
  else
    let x := d.s32 o * (c1 - 1)
    let y := d.s32 (o + 4) * (c2 - 1)
    some (base + min 0 x + min 0 y, base + max 0 x + max 0 y + rb - 1)

/-- An offset is reported when its rule is broken. -/
def at_ (o : Nat) (ok : Bool) : List Nat := if ok then [] else [o]

/-- The side is the link, or a host column aligned to `al` (where `dep`, the parts that depend on a width are judged) with footprint `f`. -/
def sideOk (v : Nat) (link : Bool) (dep : Bool) (al : Nat) (f : Fp) : Bool :=
  if isLink v then link && linkSide v else hostSide v && (!dep || (v % al == 0 && f.ok))

/-- The footprint of a side unless it is the link. -/
def hostFp (v : Nat) (f : Fp) : Fp := if isLink v then none else f

/-- COPY and STRIDE (R180, R181, R183). -/
def moveFails (d : Desc) (c : DCtx) (stride : Bool) : List Nat :=
  let sf := hostFp d.src (if stride then strideFp d d.src 32 else fp d.src d.len)
  let df := hostFp d.dst (if stride then strideFp d d.dst 40 else fp d.dst d.len)
  let rb := field d 24 4
  let c1 := field d 28 2
  let c2 := field d 30 2
  at_ 4 (c.pay == 0 && (!isLink d.src || c.linkWords ≠ 0) && (!stride || d.len == rb * c1 * c2))
    ++ at_ 8 (sideOk d.src true true 1 sf)
    ++ at_ 16 (sideOk d.dst (!isLink d.src) true 1 df && !sf.meets df)
    ++ (if stride then
        at_ 24 (rb ≠ 0) ++ at_ 28 (c1 ≠ 0) ++ at_ 30 (c2 ≠ 0)
          ++ at_ 32 (!isLink d.src || d.s32 32 == 0) ++ at_ 36 (!isLink d.src || d.s32 36 == 0)
          ++ at_ 40 (if isLink d.dst then d.s32 40 == 0 else c1 ≤ 1 || (d.s32 40).natAbs ≥ rb)
          ++ at_ 44 (if isLink d.dst then d.s32 44 == 0 else c2 ≤ 1 || (d.s32 44).natAbs ≥ (d.s32 40).natAbs * (c1 - 1) + rb)
      else at_ 24 (d.zero 24 24))
    ++ at_ 56 (d.zero 56 6)

/-- FILL (R184). -/
def fillFails (d : Desc) (c : DCtx) : List Nat :=
  at_ 4 (c.pay == 0) ++ at_ 8 (d.src == 0) ++ at_ 16 (sideOk d.dst true true 1 (fp d.dst d.len))
    ++ at_ 32 ([1, 2, 4, 8].contains (d.b 32)) ++ at_ 33 (d.zero 33 15) ++ at_ 56 (d.zero 56 6)

/-- INLINE (R185, R306). -/
def inlineFails (d : Desc) (c : DCtx) : List Nat :=
  at_ 0 c.cmd ++ at_ 4 (d.len ≤ 8192 && c.linkWords ≠ 0) ++ at_ 8 (d.src == 0)
    ++ at_ 16 (sideOk d.dst false true 1 (fp d.dst d.len)) ++ at_ 24 (d.zero 24 24) ++ at_ 56 (d.zero 56 6)

/-- SELECT and EXPAND (R199, R215, R216). -/
def selectFails (d : Desc) (c : DCtx) (expand : Bool) : List Nat :=
  let wok := d.b 32 ≤ 6
  let n := d.len * d.w
  let sf := hostFp d.src (fp d.src n)
  let df := hostFp d.dst (fp d.dst n)
  let bf := fp (d.a24 % 2 ^ 52) d.bmapBytes
  let f34 := if expand then d.b 34 < 4 && !(isLink d.dst && bit (d.b 34) 1) else d.b 34 < 2
  at_ 4 (c.pay == 0 && (!isLink d.src || c.linkWords ≠ 0))
    ++ at_ 8 (sideOk d.src true wok d.w sf)
    ++ at_ 16 (sideOk d.dst (!isLink d.src) wok d.w df && (!wok || (!sf.meets df && !bf.meets df)))
    ++ at_ 24 (d.a24 < 2 ^ 52 && bf.ok) ++ at_ 32 wok ++ at_ 33 (d.b 33 ≤ 7) ++ at_ 34 f34 ++ at_ 35 (d.zero 35 5)
    ++ at_ 40 (expand || d.zero 40 8) ++ at_ 56 (d.zero 56 6)

/-- GATHER and SCATTER (R205, R215, R216). -/
def gatherFails (d : Desc) (c : DCtx) (scatter : Bool) : List Nat :=
  let wok := d.b 32 ≤ 6
  let iok := d.b 33 ≤ 1
  let lin := isLink d.a24
  let dense := d.len * d.w
  let col := if d.len = 0 then 0 else d.idLimit * d.w
  let sf := hostFp d.src (fp d.src (if scatter then dense else col))
  let df := hostFp d.dst (fp d.dst (if scatter then col else dense))
  let lf : Fp := if lin then none else fp (d.a24 % 2 ^ 52) (d.len * d.idw)
  let takes := lin || (scatter && isLink d.src)
  at_ 4 (c.pay == 0 && (!takes || c.linkWords ≠ 0))
    ++ at_ 8 (sideOk d.src scatter wok d.w sf)
    ++ at_ 16 (sideOk d.dst (!scatter && !isLink d.src) wok d.w df && (!wok || (!sf.meets df && (!iok || !lf.meets df))))
    ++ at_ 24 (bits d.a24 62 52 == 0
        && (if lin then linkSide d.a24 && !isLink d.src && !c.stream
          else !iok || (d.a24 % d.idw == 0 && lf.ok)))
    ++ at_ 32 wok ++ at_ 33 iok ++ at_ 34 (d.b 34 < 2) ++ at_ 35 (d.zero 35 5) ++ at_ 40 (!scatter || d.zero 40 8)
    ++ at_ 56 (d.idLimit ≠ 0)

/-- PAY_BYTES that a vector group names (R233). -/
def Desc.vecPay (d : Desc) : Nat := (if isLink d.a24 then 16 * d.idw else 0) + (if isLink d.src then 16 * d.w else 0)

/-- VGATHER and VSCATTER (R232 to R235). -/
def vectorFails (d : Desc) (c : DCtx) (scatter : Bool) : List Nat :=
  let wok := d.b 32 ≤ 3
  let iok := d.b 33 ≤ 1
  let names := isLink d.a24 || (scatter && isLink d.src)
  let dep := (!isLink d.a24 || iok) && (!isLink d.src || wok)
  let vf : Fp := if isLink d.src then none else fp d.src (16 * d.w)
  let lf : Fp := if isLink d.a24 then none else fp (d.a24 % 2 ^ 52) (16 * d.idw)
  let col := if scatter then d.dst else d.src
  let cf := fp col (d.idLimit * d.w)
  at_ 4 (d.len == 16 && (!dep || c.pay == d.vecPay) && (c.cmd || !names) && !c.gap)
    ++ at_ 8 (if scatter then sideOk d.src true wok d.w vf else hostSide d.src && (!wok || d.src % d.w == 0))
    ++ at_ 16 (if scatter then hostSide d.dst && (!wok || (d.dst % d.w == 0 && !vf.meets cf && (!iok || !lf.meets cf))) else linkSide d.dst)
    ++ at_ 24 (bits d.a24 62 52 == 0
        && (if isLink d.a24 then linkSide d.a24 else !iok || (d.a24 % d.idw == 0 && lf.ok)))
    ++ at_ 32 wok ++ at_ 33 iok ++ at_ 34 (if scatter then d.b 34 < 2 else d.b 34 == 0) ++ at_ 35 (d.zero 35 13)
    ++ at_ 56 (d.idLimit ≠ 0 && (!wok || cf.ok))

/-- UNPACK (R251, R256). -/
def unpackFails (d : Desc) (c : DCtx) : List Nat :=
  let lok := d.b 25 ≤ 2
  let bok := 1 ≤ d.b 24 && d.b 24 ≤ 32 && (!lok || d.b 24 ≤ 8 * d.lane)
  let sf := hostFp d.src (fp d.src d.unpackBytes)
  let df := hostFp d.dst (fp d.dst (d.len * d.lane))
  at_ 4 (c.pay == 0 && (!isLink d.src || c.linkWords ≠ 0))
    ++ at_ 8 (sideOk d.src true bok 1 sf)
    ++ at_ 16 (sideOk d.dst (!isLink d.src) lok d.lane df && (!bok || !lok || !sf.meets df))
    ++ at_ 24 bok ++ at_ 25 lok ++ at_ 26 (d.b 26 < 2) ++ at_ 27 (d.b 27 ≤ 7) ++ at_ 28 (d.zero 28 20) ++ at_ 56 (d.zero 56 6)

/-- NARROW (R253, R256). -/
def narrowFails (d : Desc) (c : DCtx) : List Nat :=
  let nok := d.b 24 ≤ 2
  let sf := hostFp d.src (fp d.src (d.len * d.win))
  let df := hostFp d.dst (fp d.dst (d.len * d.wout))
  at_ 4 (c.pay == 0 && (!isLink d.src || c.linkWords ≠ 0))
    ++ at_ 8 (sideOk d.src true nok d.win sf)
    ++ at_ 16 (sideOk d.dst (!isLink d.src) nok d.wout df && (!nok || !sf.meets df))
    ++ at_ 24 nok ++ at_ 25 (d.b 25 < 8 && bits (d.b 25) 2 1 ≠ 3) ++ at_ 26 (d.b 26 ≤ 31) ++ at_ 27 (d.zero 27 21) ++ at_ 56 (d.zero 56 6)

/-- PARTITION (R275, R282). -/
def partitionFails (d : Desc) (c : DCtx) : List Nat :=
  let kok := d.b 32 ≤ 3
  let pok := d.b 33 ≤ 5 || d.b 33 == 7
  let lnk := isLink d.src
  let fok := d.b 37 < 4 && (!lnk || d.tupleIn)
  let hash := bit (d.b 34) 0
  let wide := if d.tupleIn then d.tw else d.w
  let dep := kok && fok && (!d.tupleIn || pok)
  at_ 4 (c.pay == 0 && (!lnk || c.linkWords ≠ 0))
    ++ at_ 8 (sideOk d.src true dep wide (fp d.src (d.len * wide)))
    ++ at_ 16 (hostSide d.dst && d.dst % 64 == 0)
    ++ at_ 24 (d.a24 < 2 ^ 52
        && (if (fok && d.tupleIn) || d.b 33 == 7 then d.a24 == 0 else !(fok && pok) || (d.a24 % d.wp == 0 && (fp d.a24 (d.len * d.wp)).ok)))
    ++ at_ 32 kok ++ at_ 33 (pok && (!kok || d.tw ≤ 64)) ++ at_ 34 (d.b 34 < 2) ++ at_ 35 (1 ≤ d.b 35 && d.b 35 ≤ 8)
    ++ at_ 36 (if hash then d.b 36 == 0 else d.b 36 + d.b 35 ≤ 8 * d.w)
    ++ at_ 37 fok ++ at_ 38 (field d 38 2 ≠ 0) ++ at_ 40 (if hash then bit (field d 40 8) 0 else d.zero 40 8) ++ at_ 58 (d.zero 58 4)

/-- BEDCLOSE (R290). -/
def bedcloseFails (d : Desc) (c : DCtx) : List Nat :=
  at_ 4 (d.len == 0 && c.pay == 0) ++ at_ 8 (d.src == 0)
    ++ at_ 16 (hostSide d.dst && d.dst % 64 == 0 && (fp d.dst 8384).ok) ++ at_ 25 (d.zero 25 23) ++ at_ 58 (d.zero 58 4)

/-- LOCKED (R458, R460, R461). -/
def lockedFails (d : Desc) (c : DCtx) : List Nat :=
  let lok := d.b 24 ≤ 7
  let w := d.opw
  let arith := d.b 24 == 2 || d.b 24 == 3 || d.b 24 == 6 || d.b 24 == 7
  let wok := d.b 25 ≤ 6 && (!lok || !arith || w == 4 || w == 8)
  let hasY := lopHasY (d.b 24)
  at_ 4 (!wok || (d.len == w && (if w ≤ 8 then c.pay == 0 else !lok || c.pay == (if hasY then 2 * w else w))))
    ++ at_ 8 (d.src % 2 ^ 63 == 0 && (!wok || (if w ≤ 8 then d.src == 0 else linkSide d.src && c.cmd && !c.stream)))
    ++ at_ 16 (hostSide d.dst && (!wok || d.dst % w == 0))
    ++ at_ 24 lok ++ at_ 25 wok ++ at_ 26 (d.b 26 < 2) ++ at_ 27 (d.zero 27 5)
    ++ at_ 32 (!wok || (if w ≤ 8 then d.zero (32 + w) (8 - w) else d.zero 32 8))
    ++ at_ 40 (if !wok then true else if w > 8 || !hasY then !lok || d.zero 40 8 else d.zero (40 + w) (8 - w))
    ++ at_ 56 (d.zero 56 6)

/-- WAIT (R467). -/
def waitFails (d : Desc) (c : DCtx) : List Nat :=
  at_ 4 (d.len == 0 && c.pay == 0) ++ at_ 8 (d.src == 0) ++ at_ 16 (d.dst == 0) ++ at_ 24 ([0, 1, 3].contains (d.b 24))
    ++ at_ 25 (d.b 25 < 2) ++ at_ 26 (d.zero 26 2) ++ at_ 28 (1 ≤ field d 28 4 && field d 28 4 ≤ 1000000)
    ++ at_ 32 (d.zero 32 16) ++ at_ 56 (d.zero 56 6)

/-- DIGEST (R475, R476). -/
def digestFails (d : Desc) (c : DCtx) : List Nat :=
  let el := d.b 32
  let pl := isLink d.a24
  at_ 4 (c.pay == (if pl then el else 0) && !c.gap && (!isLink d.src || c.linkWords ≠ 0))
    ++ at_ 8 (sideOk d.src true true 1 (fp d.src d.len)) ++ at_ 16 (linkSide d.dst)
    ++ at_ 24 (bits d.a24 62 52 == 0
        && (if el == 0 then d.a24 == 0 else if pl then linkSide d.a24 && c.cmd else (fp (d.a24 % 2 ^ 52) el).ok))
    ++ at_ 32 (el ≤ 64) ++ at_ 33 (d.zero 33 7) ++ at_ 56 (d.zero 56 6)

/-- The opcodes of R163. -/
def knownOp (o : Nat) : Bool :=
  [0x01, 0x02, 0x03, 0x04, 0x10, 0x11, 0x12, 0x13, 0x18, 0x19, 0x20, 0x21, 0x28, 0x29, 0x30, 0x31, 0x38, 0x39, 0x3F].contains o

/-- The offsets of the opcode's own field rules that a descriptor breaks (check 5 of R161). -/
def fieldFails (d : Desc) (c : DCtx) : List Nat :=
  match d.op with
  | 0x01 => moveFails d c false
  | 0x02 => moveFails d c true
  | 0x03 => fillFails d c
  | 0x04 => inlineFails d c
  | 0x10 => selectFails d c false
  | 0x11 => selectFails d c true
  | 0x12 => gatherFails d c false
  | 0x13 => gatherFails d c true
  | 0x18 => vectorFails d c false
  | 0x19 => vectorFails d c true
  | 0x20 => unpackFails d c
  | 0x21 => narrowFails d c
  | 0x28 => partitionFails d c
  | 0x29 => bedcloseFails d c
  | 0x30 => digestFails d c
  | 0x31 => lockedFails d c
  | 0x38 => waitFails d c
  | _ => at_ 4 (c.pay == 0)

/-- The failing check of R161: its number, CAUSE and DETAIL. Check 0 is descriptor data that arrived with poison (R122, R486). -/
def descFail (d : Desc) (psn : Bool) (c : DCtx) : Option (Nat × Nat × Nat) :=
  if psn then some (0, 3, 0xFFFF)
  else if crc16 (d.take 62) ≠ d.crc then some (1, 3, 0xFFFF)
  else if d.flags ≥ 16 then some (2, 3, 1)
  else if !knownOp d.op then some (3, 4, 0)
  else if d.linked && (d.next % 64 ≠ 0 || d.next ≥ 2 ^ 52) then some (4, 3, 48)
  else match fieldFails d c with
    | [] => none
    | a :: as => some (5, 3, as.foldl min a)

/-- Takes inbound DELIVER data (R164, R493). -/
def Desc.takesDeliver (d : Desc) : Bool :=
  match d.op with
  | 0x01 | 0x02 | 0x10 | 0x11 | 0x20 | 0x21 | 0x28 | 0x30 => isLink d.src
  | 0x12 => isLink d.a24
  | 0x13 => isLink d.src || isLink d.a24
  | _ => false

/-- Has output on the link (R166, R242, R463, R475). -/
def Desc.linkOut (d : Desc) : Bool :=
  match d.op with
  | 0x01 | 0x02 | 0x03 | 0x10 | 0x11 | 0x12 | 0x20 | 0x21 => isLink d.dst
  | 0x18 | 0x30 => true
  | 0x19 => !bit (d.b 34) 0
  | 0x31 => bit (d.b 26) 0
  | _ => false

/-- Sends its output to host memory (R101). -/
def Desc.hostOut (d : Desc) : Bool :=
  match d.op with
  | 0x01 | 0x02 | 0x03 | 0x10 | 0x11 | 0x12 | 0x20 | 0x21 => !isLink d.dst
  | 0x04 | 0x13 | 0x19 | 0x28 | 0x29 => true
  | _ => false

/-- A vector group (R232). -/
def Desc.isVec (d : Desc) : Bool := d.op == 0x18 || d.op == 0x19
/-- PARTITION or BEDCLOSE (R264). -/
def Desc.isParterre (d : Desc) : Bool := d.op == 0x28 || d.op == 0x29

/-- The descriptor of an accepted entry. -/
def Acc.d (a : Acc) : Desc := a.bytes

/-- The transactions of one 256-byte block for the words that are needed (R174, R204): word offset and size. R174 lists sets of consecutive words; a set with a hole (words 0 and 2, 0 and 3, 1 and 3, or three words with a hole) is split by halves of the block in the same way (DESIGN CHOICE, log 62). -/
def blockTx (w : Nat → Bool) : List (Nat × Nat) :=
  if w 0 && w 1 && w 2 && w 3 then [(0, 256)]
  else
    (if w 0 && w 1 then [(0, 128)] else if w 0 then [(0, 64)] else if w 1 then [(1, 64)] else [])
      ++ (if w 2 && w 3 then [(2, 128)] else if w 2 then [(2, 64)] else if w 3 then [(3, 64)] else [])

/-- The transactions of a contiguous range (R174): address and size. -/
def rangeTx (a len : Nat) : List (Nat × Nat) :=
  if len = 0 then []
  else (List.range ((a + len - 1) / 256 - a / 256 + 1)).flatMap fun i =>
    let blk := (a / 256 + i) * 256
    (blockTx fun w => a < blk + 64 * w + 64 && blk + 64 * w < a + len).map fun (w, n) => (blk + 64 * w, n)

/-- Consecutive cells in one 256-byte block form a run (R174). -/
def runs (blk : Cell → Nat) : List Cell → List (List Cell)
  | [] => []
  | c :: cs => match runs blk cs with
    | (d :: ds) :: rs => if blk c = blk d then (c :: d :: ds) :: rs else [c] :: (d :: ds) :: rs
    | rs => [c] :: rs

/-- The transactions of a run, with their cells, in output order (R174, R175). -/
def runTx (r : List Cell) : List (Nat × Nat × List Cell) :=
  match r with
  | [] => []
  | c :: _ =>
    let blk := c.pos / 256 * 256
    let tx := (blockTx fun w => r.any fun x => (x.pos - blk) / 64 == w).map fun (w, n) =>
      let a := blk + 64 * w
      (a, n, r.filter fun x => a ≤ x.pos && x.pos < a + n)
    r.foldl (fun acc x => acc ++ (tx.filter fun y => y.2.2.head? == some x && !acc.contains y)) []

/-- The smallest naturally aligned transaction that covers the needed words of a block (R211, R237). -/
def coverTx (w : Nat → Bool) : Nat × Nat :=
  let lo := if w 0 then 0 else if w 1 then 1 else if w 2 then 2 else 3
  let hi := if w 3 then 3 else if w 2 then 2 else if w 1 then 1 else 0
  if lo = hi then (lo, 64) else if lo / 2 = hi / 2 then (2 * (lo / 2), 128) else (0, 256)

end Sys2Proof.Machine
end

