-- ==== Sys2Proof/Machine/Stream.lean ====
section
/-! DEFINITION. The data path of a started descriptor as pure functions of its execution state: the input bytes, the read plan, the output elements of the byte, sieve and converter operations (R174 to R190, R196 to R222, R251 to R258), and the write plan. -/

namespace Sys2Proof.Machine

/-- An input byte: not there yet, failed (CAUSE and DETAIL), a byte with its poison, lost at a gap, or beyond the end of the input. -/
inductive In where
  | pend
  | fail (cause detail : Nat)
  | ok (b : Byte) (psn : Bool)
  | gap
  | past
deriving DecidableEq, Repr

/-- Whether transaction `r` of a stream serves address `a`. -/
def RTx.has (r : RTx) (stream a : Nat) : Bool := r.stream == stream && r.addr ≤ a && a < r.addr + r.size

/-- The byte at address `a` that a read brought. Words that a FLUSH dropped hold no data (R323). -/
def RTx.byteAt (r : RTx) (a : Nat) : In :=
  match r.st with
  | .region => .fail 1 0
  | .err => .fail 2 0
  | .taken => match r.data[(a - r.addr) / 64]? with
    | some w => .ok (w.bytes.getD ((a - r.addr) % 64) 0#8) w.psn
    | none => .gap
  | .flushed => .gap
  | .posted | .held | .landed => .pend

/-- A byte of a host stream. -/
def hostByte (x : Exec) (stream a : Nat) : In :=
  match x.reads.find? fun r => r.has stream a with
  | none => .pend
  | some r => r.byteAt a

/-- The bytes that link entries bring, in order (R189, R322). -/
def linBytes : List LEnt → List In
  | [] => []
  | .word bs p :: l => bs.map (fun b => .ok b p) ++ linBytes l
  | .gap n bad _ :: l => List.replicate (64 * n) (if bad then .fail 0x0B 0 else .gap) ++ linBytes l
  | .eop _ :: l => linBytes l
  | .last :: l => linBytes l

/-- How many input bytes link entries bring. -/
def linLen (l : List LEnt) : Nat := (l.map fun e => match e with
  | .word bs _ => bs.length
  | .gap n _ _ => 64 * n
  | .eop _ => 0
  | .last => 0).sum

/-- A byte of the link input. -/
def linkByte (x : Exec) (k : Nat) : In := (linBytes x.lin).getD k (if x.linEnd then .past else .pend)

/-- A byte of a side: the link, or the host stream at `v + k`. -/
def sideByte (x : Exec) (v stream k : Nat) : In := if isLink v then linkByte x k else hostByte x stream (v + k)

/-- The bytes of an element: the first byte that is neither there nor lost at a gap decides; an element with a lost byte is lost only when its other bytes have come (R219, R257, R258). -/
def elemIn (f : Nat → In) (o w : Nat) : Except In (List (Byte × Bool)) :=
  (List.range w).foldl (fun acc i => match acc with
    | .error .gap => match f (o + i) with
      | .ok _ _ | .gap => .error .gap
      | e => .error e
    | .error e => .error e
    | .ok l => match f (o + i) with
      | .ok b p => .ok (l ++ [(b, p)])
      | e => .error e) (.ok [])

/-- Why the evaluation of a descriptor's elements stands where it does. -/
inductive Why where
  | more
  | done
  | short
  | fault (f : Flt)
deriving DecidableEq, Repr

/-- The elements evaluated so far and what they gave. -/
structure Ev where
  cells : List Cell := []
  n : Nat := 0
  emitted : Nat := 0
  used : Nat := 0
  skipped : Nat := 0
  sats : Nat := 0
  gap : Bool := false
  lost : Nat := 0
  psn : Option Nat := none
  why : Why := .more
deriving DecidableEq, Repr

/-- What one element gives: it waits, the input ends before it, it fails, it is lost at a gap with the output positions that it leaves unwritten (R189), or it puts bytes at positions. -/
inductive ItemR where
  | pend
  | short
  | fail (cause detail : Nat)
  | lost (ps : List Nat)
  | out (cs : List (Nat × Byte × Bool)) (gap skip sat marked : Bool)
deriving DecidableEq, Repr

/-- An input that is not there, as the outcome of its element. -/
def inItem : In → ItemR
  | .pend => .pend
  | .past => .short
  | .fail c d => .fail c d
  | .gap => .lost []
  | .ok _ _ => .pend

/-- The `k` output positions from `p` on, of an element that is lost at a gap. -/
def ItemR.lostAt (p k : Nat) : ItemR → ItemR
  | .lost _ => .lost ((List.range k).map (p + ·))
  | r => r

/-- Element `i` goes into the evaluation. -/
def Ev.push (e : Ev) (i : Nat) : ItemR → Ev
  | .pend => e
  | .short => { e with why := .short }
  | .fail c d => { e with why := .fault ⟨i, c, d⟩ }
  | .lost ps => { e with cells := e.cells ++ ps.map fun p => ⟨p, 0#8, false, i, false⟩, n := i + 1, used := e.used + 1, lost := e.lost + 1, gap := true }
  | .out cs g sk sa m =>
    { e with
      cells := e.cells ++ cs.map fun c => ⟨c.1, c.2.1, c.2.2, i, true⟩
      n := i + 1
      emitted := e.emitted + (if cs.isEmpty then 0 else 1)
      used := e.used + b2n m
      skipped := e.skipped + b2n sk
      sats := e.sats + b2n sa
      gap := e.gap || g
      psn := if e.psn.isNone && cs.any fun c => c.2.2 then some i else e.psn }

/-- Elements in order until one waits or ends the evaluation, at most `fuel` of them, and none at or above `lim`. -/
def evalGo (item : Nat → Ev → ItemR) (total : Nat) (lim : Option Flt) : Nat → Ev → Ev
  | 0, e => if e.n ≥ total then { e with why := .done } else e
  | fuel + 1, e =>
    match lim.filter fun f => f.idx ≤ e.n with
    | some f => { e with why := .fault f }
    | none =>
      if e.n ≥ total then { e with why := .done }
      else match item e.n e with
        | .pend => e
        | r =>
          let e' := e.push e.n r
          if e'.n = e.n then e' else evalGo item total lim fuel e'

/-- An output position: a host address, or an offset on the link. -/
def outPos (v k : Nat) : Nat := if isLink v then k else v + k

/-- The source address of output byte `k` of a STRIDE side (R182). -/
def stridePos (d : Desc) (base o k : Nat) : Nat :=
  let rb := field d 24 4
  let c1 := field d 28 2
  let row := k / rb
  ((base : Int) + d.s32 (o + 4) * (row / c1) + d.s32 o * (row % c1) + (k % rb)).toNat

/-- The position of output byte `k` of COPY, STRIDE, FILL and INLINE (R180, R182, R184, R185). -/
def movePos (d : Desc) (k : Nat) : Nat := if d.op = 0x02 && !isLink d.dst then stridePos d d.dst 40 k else outPos d.dst k

/-- A planned read. -/
structure RPlan where
  stream : Nat
  addr : Nat
  size : Nat
  lo : Nat
deriving DecidableEq, Repr

/-- The reads of a STRIDE from host memory, each with the output bytes that it serves (R174, R182). -/
def strideTx (d : Desc) : List (RPlan × List Nat) :=
  let cs := (List.range d.len).map fun k => (⟨stridePos d d.src 32 k, 0#8, false, k, true⟩ : Cell)
  (runs (fun c => c.pos / 256) cs).flatMap fun r => (runTx r).map fun (a, n, ys) => (⟨0, a, n, (ys.head?.map Cell.idx).getD 0⟩, ys.map Cell.idx)

/-- Source byte `k` of a STRIDE: from the read that serves it, also where an earlier read brought the same address (R174, R190). -/
def strideByte (d : Desc) (x : Exec) (k : Nat) : In :=
  match ((strideTx d).findIdx? fun t => t.2.contains k).bind fun i => x.reads[i]? with
  | some r => r.byteAt (stridePos d d.src 32 k)
  | none => .pend

/-- Output byte `k` of COPY, STRIDE, FILL and INLINE (R180, R182, R184, R185). -/
def moveItem (d : Desc) (x : Exec) (k : Nat) (_ : Ev) : ItemR :=
  let pos := movePos d k
  let inp : In := match d.op with
    | 0x03 => .ok (d.getD (24 + k % d.b 32) 0#8) false
    | 0x04 => linkByte x k
    | 0x02 => if isLink d.src then linkByte x k else strideByte d x k
    | _ => sideByte x d.src 0 k
  match inp with
  | .ok b p => .out [(pos, b, p)] false false false true
  | e => (inItem e).lostAt pos 1

/-- The selection bit of row `i` (R198); poison there fails the row (R222). The spec gives no outcome for bitmap words that a FLUSH discarded: the row fails in the same way (DESIGN CHOICE, log 62). -/
def rowBit (d : Desc) (x : Exec) (i : Nat) : Except ItemR Bool :=
  match hostByte x 1 (d.a24 + (d.b 33 + i) / 8) with
  | .ok b p => if p then .error (.fail 5 2) else .ok (b.getLsbD ((d.b 33 + i) % 8) != bit (d.b 34) 0)
  | .pend => .error .pend
  | .fail c t => .error (.fail c t)
  | .gap => .error (.fail 5 2)
  | .past => .error .pend

/-- Bytes at a position. -/
def placeAt (pos : Nat) (l : List (Byte × Bool)) : List (Nat × Byte × Bool) := l.zipIdx.map fun (b, i) => (pos + i, b.1, b.2)

/-- Row `i` of SELECT (R200, R219, R220). -/
def selectItem (d : Desc) (x : Exec) (i : Nat) (e : Ev) : ItemR :=
  match rowBit d x i with
  | .error r => r
  | .ok m => match elemIn (sideByte x d.src 0) (i * d.w) d.w with
    | .error r => inItem r
    | .ok l => .out (if m then placeAt (outPos d.dst (e.emitted * d.w)) l else []) false false false m

/-- A value of 8 bytes replicated over W bytes (R203). -/
def replVal (d : Desc) : List (Byte × Bool) := (List.range d.w).map fun b => (d.getD (40 + b % 8) 0#8, false)

/-- Row `i` of EXPAND (R202 to R204, R219, R220). With a link source and a bitmap that faults before P is known, the inbound data is discarded, and no marked row has a value (R218, R706). -/
def expandItem (d : Desc) (x : Exec) (i : Nat) (e : Ev) : ItemR :=
  match rowBit d x i with
  | .error r => r
  | .ok false => .out (if bit (d.b 34) 1 then [] else placeAt (outPos d.dst (i * d.w)) (replVal d)) false false false false
  | .ok true => if isLink d.src && x.marked.isNone then .out [] false false false true
    else match elemIn (sideByte x d.src 0) (e.used * d.w) d.w with
    | .error r => (inItem r).lostAt (outPos d.dst (i * d.w)) d.w
    | .ok l => .out (placeAt (outPos d.dst (i * d.w)) l) false false false true

/-- Row ID `j` (R206); poison there fails the entry (R222). The spec gives no outcome for list words that a FLUSH discarded: the entry fails in the same way (DESIGN CHOICE, log 62). -/
def rowId (d : Desc) (x : Exec) (j : Nat) : Except ItemR Nat :=
  match elemIn (sideByte x d.a24 1) (j * d.idw) d.idw with
  | .error .gap => .error (.fail 5 2)
  | .error r => .error (inItem r)
  | .ok l => if l.any Prod.snd then .error (.fail 5 2) else .ok (leVal (l.map Prod.fst))

/-- The read stream of window `k` of a GATHER. -/
def winStream (k : Nat) : Nat := 8 + k

/-- Entry `j` of GATHER, once its window has been checked (R207, R209, R210). -/
def gatherItem (d : Desc) (x : Exec) (j : Nat) (_ : Ev) : ItemR :=
  if x.chk ≤ j / 256 then .pend
  else match rowId d x j with
  | .error r => r
  | .ok id =>
    if id ≥ d.idLimit then
      if bit (d.b 34) 0 then .out (placeAt (outPos d.dst (j * d.w)) (replVal d)) false true false true else .fail 5 1
    else match elemIn (fun k => hostByte x (winStream (j / 256)) (d.src + id * d.w + k)) 0 d.w with
      | .error r => (inItem r).lostAt (outPos d.dst (j * d.w)) d.w
      | .ok l => .out (placeAt (outPos d.dst (j * d.w)) l) false false false true

/-- Entry `j` of SCATTER, once its window has been checked (R208 to R210, R220). -/
def scatterItem (d : Desc) (x : Exec) (j : Nat) (_ : Ev) : ItemR :=
  if x.chk ≤ j / 256 then .pend
  else match rowId d x j with
  | .error r => r
  | .ok id => match elemIn (sideByte x d.src 0) (j * d.w) d.w with
    | .error .gap => .out [] true true false true
    | .error r => if id ≥ d.idLimit && !bit (d.b 34) 0 then .fail 5 1 else inItem r
    | .ok l =>
      if id ≥ d.idLimit then if bit (d.b 34) 0 then .out [] false true false true else .fail 5 1
      else .out (placeAt (d.dst + id * d.w) l) false false false true

/-- Code `i` of UNPACK (R252, R258); a poisoned code has a free value. -/
def unpackItem (d : Desc) (x : Exec) (i : Nat) (_ : Ev) : ItemR :=
  let b := d.b 24
  let s0 := d.b 27 + i * b
  let o := s0 / 8
  match elemIn (sideByte x d.src 0) o ((s0 + b - 1) / 8 - o + 1) with
  | .error r => (inItem r).lostAt (outPos d.dst (i * d.lane)) d.lane
  | .ok l =>
    let p := l.any Prod.snd
    let v := (leVal (l.map Prod.fst) / 2 ^ (s0 % 8)) % 2 ^ b
    let v := if bit (d.b 26) 0 && v.testBit (b - 1) then v + 2 ^ (8 * d.lane) - 2 ^ b else v
    let v := if p then Config.poisonedElement x.free i else v
    .out (placeAt (outPos d.dst (i * d.lane)) ((leBytes d.lane v).map fun c => (c, p))) false false false true

/-- The exact integer of R254. -/
def roundTo (x : Int) (s mode : Nat) : Int :=
  let den : Int := 2 ^ s
  let fl := x / den
  match mode with
  | 0 => fl
  | 1 => (2 * x + den) / (2 * den)
  | _ =>
    let r := 2 * (x - fl * den)
    if r < den then fl else if r > den then fl + 1 else if fl % 2 = 0 then fl else fl + 1

/-- NARROW of one value: the output value and whether it saturates (R254, R255). -/
def narrowVal (d : Desc) (n : Nat) : Nat × Bool :=
  let sg := bit (d.b 25) 0
  let x : Int := if sg && n.testBit (8 * d.win - 1) then (n : Int) - 2 ^ (8 * d.win) else n
  let y := roundTo x (d.b 26) (bits (d.b 25) 2 1)
  let lo : Int := if sg then -(2 ^ (8 * d.wout - 1)) else 0
  let hi : Int := if sg then 2 ^ (8 * d.wout - 1) - 1 else 2 ^ (8 * d.wout) - 1
  let z := if y < lo then lo else if y > hi then hi else y
  ((z % 2 ^ (8 * d.wout)).toNat, y < lo || y > hi)

/-- Element `i` of NARROW (R253 to R255, R258); a poisoned element has a free value. -/
def narrowItem (d : Desc) (x : Exec) (i : Nat) (_ : Ev) : ItemR :=
  match elemIn (sideByte x d.src 0) (i * d.win) d.win with
  | .error r => (inItem r).lostAt (outPos d.dst (i * d.wout)) d.wout
  | .ok l =>
    let p := l.any Prod.snd
    let (v, s) := narrowVal d (leVal (l.map Prod.fst))
    let v := if p then Config.poisonedElement x.free i else v
    .out (placeAt (outPos d.dst (i * d.wout)) ((leBytes d.wout v).map fun c => (c, p))) false false (s && !p) true

/-- The outcome of element `i`. -/
def itemOf (d : Desc) (x : Exec) : Nat → Ev → ItemR :=
  match d.op with
  | 0x10 => selectItem d x
  | 0x11 => expandItem d x
  | 0x12 => gatherItem d x
  | 0x13 => scatterItem d x
  | 0x20 => unpackItem d x
  | 0x21 => narrowItem d x
  | _ => moveItem d x

/-- An operation of this file: the affine moves, the sieve and the converters. -/
def Desc.isStream (d : Desc) : Bool :=
  [0x01, 0x02, 0x03, 0x04, 0x10, 0x11, 0x12, 0x13, 0x20, 0x21].contains d.op

/-- The output bytes produced so far, dropped ones included: a word that a FLUSH takes counts against the request that it was for (R101; DESIGN CHOICE, log 62). -/
def Ev.outLen (e : Ev) : Nat := e.cells.length

/-- Every element that the input of the descriptor determines (R179, R223, R259). -/
def evalAll (d : Desc) (x : Exec) : Ev :=
  if d.op = 0x20 && d.len = 0 && isLink d.src && linLen x.lin < d.unpackBytes then { why := if x.linEnd then .short else .more }
  else evalGo (itemOf d x) d.len x.iflt (d.len + 1) {}

/-- The elements of an output of which a byte is not written. -/
def unwritten (cs : List Cell) : Nat := ((cs.filter fun c => !c.en).foldl (fun (r : Nat × Option Nat) c => if r.2 = some c.idx then r else (r.1 + 1, some c.idx)) (0, none)).1

/-- Output bytes that a FLUSH took from the host-out FIFO are not written (R323): ranges of places in the output. -/
def dropLost (l : List (Nat × Nat)) (cs : List Cell) : List Cell :=
  cs.zipIdx.map fun (c, i) => if l.any fun r => r.1 ≤ i && i < r.2 then { c with en := false } else c

/-- What an output cut after `m` bytes by a LAST keeps: its elements, with their saturations and losses (R101, R103, R260). -/
def Ev.cut (e : Ev) (d : Desc) (x : Exec) (m : Nat) : Ev :=
  let cs := e.cells.take m
  let k := (cs.getLast?.map fun c => c.idx + 1).getD 0
  let b := evalGo (itemOf d x) k x.iflt (k + 1) {}
  { e with
    cells := cs
    n := if d.op = 0x10 then m / d.w else k
    emitted := if d.op = 0x10 then m / d.w else e.emitted
    sats := b.sats, lost := unwritten cs, psn := b.psn, why := .short }

/-- The output of a descriptor as it stands: a FLUSH takes bytes from it, and a LAST that ends a paced descriptor cuts it (R101, R103, R323). Elements that a FLUSH took from the host-out FIFO are not written (R260). -/
def evalOut (d : Desc) (x : Exec) : Ev :=
  let e := evalAll d x
  let e := if x.lost.isEmpty then e else
    let cs := dropLost x.lost e.cells
    { e with cells := cs, lost := unwritten cs }
  match x.endAt with
  | some m => if e.outLen > m || (e.outLen = m && e.why == .more) then e.cut d x m else e
  | none => e

/-- The bytes of link input that a descriptor declares (R186, R217, R257); none while an EXPAND does not know P. R218 gives LENGTH·W for an EXPAND whose bitmap read faults before P is known; the model takes the same where another fault comes first (DESIGN CHOICE, log 62). -/
def declaredIn (d : Desc) (x : Exec) : Option Nat :=
  match d.op with
  | 0x10 => some (d.len * d.w)
  | 0x11 => if x.iflt.isSome && x.marked.isNone then some (d.len * d.w) else x.marked.map (· * d.w)
  | 0x12 => some (d.len * d.idw)
  | 0x13 => some (d.len * (if isLink d.src then d.w else d.idw))
  | 0x20 => some d.unpackBytes
  | 0x21 => some (d.len * d.win)
  | 0x28 => some (d.len * d.tw)
  | _ => some d.len

/-- The reads of one contiguous range; `ix` gives the element that a byte offset serves (R174, R201). -/
def planRange (stream base len : Nat) (ix : Nat → Nat) : List RPlan :=
  (rangeTx base len).map fun (a, n) => ⟨stream, a, n, ix (max a base - base)⟩

/-- Two read lists in the order in which the consumer takes their words: by the lowest element served, the first list first (R308). -/
def mergeLo : Nat → List RPlan → List RPlan → List RPlan
  | 0, a, b => a ++ b
  | _, [], b => b
  | _, a, [] => a
  | k + 1, x :: a, y :: b => if x.lo ≤ y.lo then x :: mergeLo k a (y :: b) else y :: mergeLo k (x :: a) b

/-- The merge of two read lists. -/
def merged (a b : List RPlan) : List RPlan := mergeLo (a.length + b.length) a b

/-- The column transactions of one window of row IDs (R211): address, size and the entries, in the order of the lowest entry. -/
def columnTx (base w : Nat) (ids : List (Nat × Nat)) : List (Nat × Nat × List Nat) :=
  let ad (e : Nat × Nat) := base + e.2 * w
  let blocks := distinct (ids.map fun e => ad e / 256)
  blocks.map fun b =>
    let es := ids.filter fun e => ad e / 256 == b
    let (o, n) := coverTx fun k => es.any fun e => (ad e % 256) / 64 == k
    (b * 256 + 64 * o, n, es.map Prod.fst)
where distinct (l : List Nat) : List Nat := l.foldl (fun acc x => if acc.contains x then acc else acc ++ [x]) []

/-- The entries below this one are still served: all, or those below the lowest failing one (R223). -/
def serveEnd (d : Desc) (x : Exec) : Nat := match x.flt with
  | some f => min d.len f.idx
  | none => d.len

/-- The row IDs of window `k` of a GATHER or SCATTER, when every one is in hand: the entries in range, and the first that fails (R210). A window holds the entries that were still served when it was checked; a list that ends short ends it. -/
def winIds (d : Desc) (x : Exec) (k : Nat) : Option (List (Nat × Nat) × Option (Nat × Nat × Nat)) :=
  ((List.range (min 256 (x.wlim.getD k (serveEnd d x) - 256 * k))).map fun i => 256 * k + i).foldl (fun acc j => match acc with
    | none => none
    | some (l, f) =>
      let first (y : Nat × Nat × Nat) := some (f.getD y)
      match rowId d x j with
      | .ok id => if id < d.idLimit then some (l ++ [(j, id)], f)
          else if bit (d.b 34) 0 then some (l, f) else some (l, first (j, 5, 1))
      | .error (.fail c t) => some (l, first (j, c, t))
      | .error .short => some (l, first (j, 0, 0))
      | .error _ => none) (some ([], none))

/-- The list and source reads of a descriptor, known at its start or once P is known, in the order of issue (R201, R205). The spec orders the bitmap and source reads of a SELECT only: an EXPAND issues no source read before every bitmap bit is in hand (DESIGN CHOICE, log 62). -/
def basePlan (d : Desc) (x : Exec) : List RPlan :=
  let host (v stream len : Nat) (ix : Nat → Nat) := if isLink v then [] else planRange stream v len ix
  match d.op with
  | 0x01 => host d.src 0 d.len id
  | 0x02 => if isLink d.src then [] else (strideTx d).map Prod.fst
  | 0x10 => merged (planRange 1 d.a24 d.bmapBytes (fun k => 8 * k - d.b 33)) (host d.src 0 (d.len * d.w) (· / d.w))
  | 0x11 => planRange 1 d.a24 d.bmapBytes (fun k => 8 * k - d.b 33)
      ++ (let bs := (List.range (match x.iflt with
            | some f => min d.len f.idx
            | none => d.len)).map fun i => (i, rowBit d x i)
        let known := bs.all fun y => match y.2 with
          | .error .pend => false
          | _ => true
        let rows := (bs.filter fun y => match y.2 with
          | .ok m => m
          | .error _ => false).map Prod.fst
        if known && (x.marked.isSome || x.iflt.isSome) then host d.src 0 (rows.length * d.w) fun k => rows.getD (k / d.w) d.len else [])
  | 0x12 => host d.a24 1 (d.len * d.idw) (· / d.idw)
  | 0x13 => merged (host d.a24 1 (d.len * d.idw) (· / d.idw)) (host d.src 0 (d.len * d.w) (· / d.w))
  | 0x20 => host d.src 0 d.unpackBytes fun k => (8 * k - d.b 27) / d.b 24
  | 0x21 => host d.src 0 (d.len * d.win) (· / d.win)
  | _ => []

/-- The reads of a stream operation in the order of issue; a GATHER's windows follow once they are checked (R210, R211). The spec does not order a GATHER's list reads against its column reads: the model plans every list read before the first column read (DESIGN CHOICE, log 62). -/
def readPlan (d : Desc) (x : Exec) : List RPlan :=
  basePlan d x ++ (if d.op = 0x12 then (List.range x.chk).flatMap fun k => match winIds d x k with
    | some (ids, _) => (columnTx d.src d.w ids).map fun (a, n, es) => ⟨winStream k, a, n, es.headD 0⟩
    | none => []
  else [])

/-- A planned write: address, size and cells; a disabled cell is a place that is not written. -/
structure WPlan where
  addr : Nat
  size : Nat
  cells : List Cell
deriving DecidableEq, Repr

/-- Cells cut into the requests of a paced descriptor (R101). -/
def pacedParts (cuts : List Nat) (cs : List Cell) : List (List Cell) :=
  (cuts.foldl (fun (acc : Nat × List (List Cell)) c => (c, acc.2 ++ [(cs.drop acc.1).take (c - acc.1)])) (0, [])).2

/-- The complete runs of cells: the last run stays open while more may come (R174). -/
def closedRuns (fin : Bool) (cs : List Cell) : List (List Cell) :=
  let rs := runs (fun c => c.pos / 256) cs
  if fin then rs else rs.dropLast

/-- The bytes that a write with a later entry over them does not keep (R212). -/
def topCells (cs : List Cell) : List Cell := cs.filter fun c => !cs.any fun y => y.pos == c.pos && y.idx > c.idx

/-- One write for each block that cells lie in, with the smallest covering size, later entries over earlier ones (R211, R212, R237). -/
def coverWrites (cs : List Cell) : List WPlan :=
  let cs := topCells cs
  (columnTx.distinct (cs.map fun c => c.pos / 256)).map fun b =>
    let xs := cs.filter fun c => c.pos / 256 == b
    let (o, n) := coverTx fun k => xs.any fun c => (c.pos % 256) / 64 == k
    ⟨b * 256 + 64 * o, n, xs⟩

/-- The writes of window `k` of a SCATTER: the bytes of entries below the fault, later entries over earlier ones (R211, R212, R224). R211 and R220 leave open whether an entry without a value, lost at a gap or never come, counts in its block's transaction: it does, in the size and as the entry that a failed write reports (DESIGN CHOICE, log 62). -/
def scatterTx (d : Desc) (x : Exec) (k : Nat) (all : List Cell) : List WPlan :=
  let cs := topCells (all.filter fun c => c.idx / 256 == k)
  match winIds d x k with
  | some (ids, _) => (columnTx d.dst d.w ids).map fun (a, n, _) => ⟨a, n, cs.filter fun c => c.pos / 256 == a / 256⟩
  | none => []

/-- The places of the output that a fault ends, up to a block beyond it, where the descriptor and the bitmap in hand fix them: the write that the fault cuts keeps its size (R179, R259). Their bytes are never enabled: they lie at the fault. -/
def cutPlaces (d : Desc) (x : Exec) (e : Ev) : List Cell :=
  let col (w : Nat) : List Cell := ((List.range 256).map (e.n + ·)).take (256 / w) |>.filter (· < d.len) |>.flatMap fun i =>
    (List.range w).map fun b => ⟨outPos d.dst (i * w) + b, 0#8, false, i, true⟩
  match e.why with
  | .fault _ => match d.op with
    | 0x13 => []
    | 0x10 =>
      let bs := ((List.range 1024).map (e.n + ·)).filter (· < d.len) |>.map fun i => (i, rowBit d x i)
      let known := bs.takeWhile fun y => match y.2 with
        | .ok _ => true
        | .error _ => false
      let rows := (known.filter fun y => match y.2 with
        | .ok m => m
        | .error _ => false).take (256 / d.w)
      rows.zipIdx.flatMap fun y => (List.range d.w).map fun b => ⟨outPos d.dst ((e.emitted + y.2) * d.w) + b, 0#8, false, y.1.1, true⟩
    | 0x11 => if bit (d.b 34) 1 then [] else col d.w
    | 0x12 => col d.w
    | 0x20 => col d.lane
    | 0x21 => col d.wout
    | _ => ((List.range 256).map (e.n + ·)).filter (· < d.len) |>.map fun k => ⟨movePos d k, 0#8, false, k, true⟩
  | _ => []

/-- The lowest entry that the write of a SCATTER at `addr` serves, in the window of entry `j` (R211, R223); an entry without a value counts (DESIGN CHOICE, log 62). -/
def scatterLo (d : Desc) (x : Exec) (addr j : Nat) : Nat :=
  match winIds d x (j / 256) with
  | some (ids, _) => (((columnTx d.dst d.w ids).find? fun t => t.1 == addr).bind fun t => t.2.2.head?).getD j
  | none => j

/-- The enabled cells of a list. -/
def enabled (cs : List Cell) : List Cell := cs.filter Cell.en

/-- The writes of a stream operation in output order (R174, R175, R204, R211). -/
def writePlan (d : Desc) (x : Exec) : List WPlan :=
  let e := evalOut d x
  let cells := e.cells ++ cutPlaces d x e
  if !d.hostOut then []
  else
    let fin := e.why != .more
    if d.op = 0x13 then
      ((List.range x.chk).filter fun k => fin || e.n ≥ min d.len (256 * (k + 1))).flatMap fun k => scatterTx d x k e.cells
    else
    let parts := match x.allow with
      | none => closedRuns fin cells
      | some cuts =>
        let ps := pacedParts cuts cells
        (cuts.zip ps).flatMap fun (y : Nat × List Cell) => closedRuns (fin || y.1 ≤ e.outLen) y.2
    parts.flatMap fun r => (runTx r).map fun (a, n, cs) => ⟨a, n, cs⟩

end Sys2Proof.Machine
end

