-- ==== Sys2Proof/Machine/Spi.lean ====
section
/-! DEFINITION. The SPI interface to the NVM (R564 to R568): the commands that the block issues and the levels of its pins. -/

namespace Sys2Proof.Machine

/-- The bytes of an address on the interface (R564). -/
def Gate.addrBytes (g : Gate) : Nat := if g.addr4 then 4 else 3

/-- The chip select of an NVM address, and the address there (R564). -/
def Gate.chip (g : Gate) (a : Nat) : Fin 2 × Nat := if g.dual && a ≥ 0x400000 then (1, a - 0x400000) else (0, a)

/-- A read of `k` bytes (R566). How the block divides its reads into commands the spec does not say: one for each contiguous range (DESIGN CHOICE, log 63). -/
def Gate.spiRead (g : Gate) (a k : Nat) : Spi :=
  let c := g.chip a
  { code := if g.quad then (if g.addr4 then 0x6C else 0x6B) else (if g.addr4 then 0x0C else 0x0B)
    cs := c.1, addr := some (c.2, g.addrBytes), dummy := 8, out := [], back := k, quad := g.quad }

/-- A ledger write of `bs` with its write enable (R566, R583). -/
def Gate.spiWrite (g : Gate) (a : Nat) (bs : List Byte) : List Spi :=
  let c := g.chip a
  [{ code := 0x06, cs := c.1, addr := none, dummy := 0, out := [], back := 0, quad := false },
   { code := if g.addr4 then 0x12 else 0x02, cs := c.1, addr := some (c.2, g.addrBytes), dummy := 0, out := bs, back := 0, quad := false }]

/-- The block issues commands on the interface, whose pins are not wrapped (R566, R697). -/
def State.spi (s : State) (l : List Spi) : State := { s with spiOut := s.spiOut ++ l }

/-- The NVM is read (R566, R585). -/
def State.spiReads (s : State) (l : List (Nat × Nat)) : State := s.spi (l.map fun r => s.gate.spiRead r.1 r.2)

/-- The pins of the interface in one aclk (R564, R565): nv_sck, nv_cs_n and the levels that the block drives on nv_io; none where it drives none or where R565 states no level. -/
structure NvPins where
  sck : Bool  -- nv_sck (R565)
  csN : BitVec 2  -- nv_cs_n (R564)
  io : List (Option Bool)  -- nv_io[0] to nv_io[3] (R565)
deriving DecidableEq, Repr

/-- The levels of nv_io[3:1] in single SPI, behind the level of nv_io[0] (R565). -/
def singleIo (x : Option Bool) : List (Option Bool) := [x, none, some true, some true]

/-- A byte's bits, the most significant first: the order of SPI, which R565 does not state (PRESUMED, log 63). -/
def spiBits (b : Byte) : List Bool := (List.range 8).map fun i => b.getLsbD (7 - i)

/-- A number of `k` bytes as they follow on the wire, the most significant first (PRESUMED, log 63). -/
def bigEndian (k v : Nat) : List Byte := (leBytes k v).reverse

/-- The levels of nv_io in each clock of a command (R565, R566). -/
def Spi.io (c : Spi) : List (List (Option Bool)) :=
  let addr := match c.addr with
    | some (a, k) => bigEndian k a
    | none => []
  let lead := ([BitVec.ofNat 8 c.code] ++ addr ++ c.out).flatMap spiBits
  let quiet (k : Nat) : List (List (Option Bool)) := List.replicate k (if c.quad then List.replicate 4 none else singleIo none)
  lead.map (fun b => if c.quad then [some b, none, none, none] else singleIo (some b)) ++ quiet c.dummy ++ quiet (c.back * (if c.quad then 2 else 8))

/-- The pins through a command: in each clock nv_sck is low for one aclk, with new data, and then high for one (R565). -/
def Spi.wave (c : Spi) : List NvPins :=
  let csN : BitVec 2 := ~~~(1#2 <<< c.cs.val)
  c.io.flatMap fun x => [⟨false, csN, x⟩, ⟨true, csN, x⟩]

/-- Between commands both chip selects are high for 10 aclk or more, with nv_sck idle low (R565). -/
def spiGap : List NvPins := List.replicate 10 ⟨false, 0b11#2, singleIo none⟩

/-- Bits as bytes, the most significant bit first. -/
def bytesOf (l : List Bool) : List Byte :=
  (List.range (l.length / 8)).map fun k => BitVec.ofNat 8 (((l.drop (8 * k)).take 8).foldl (fun v b => 2 * v + b2n b) 0)

/-- The bytes that a read brings (R565, R566): of the levels of nv_io[0] to nv_io[3] at the rising edges of nv_sck through the command, those behind its command byte, address and dummy clocks count; a single-SPI bit comes on nv_io[1], and a quad clock brings four, nv_io[3] the most significant (PRESUMED, log 63). -/
def Spi.receive (c : Spi) (levels : List (Vector Bool 4)) : List Byte :=
  let lead := 8 * (1 + (match c.addr with
    | some (_, k) => k
    | none => 0) + c.out.length) + c.dummy
  bytesOf ((levels.drop lead).flatMap fun x => if c.quad then [x[3], x[2], x[1], x[0]] else [x[1]])

/-- What the interface has shown: each command behind its gap (R565). -/
def State.nvWave (s : State) : List NvPins := s.spiOut.flatMap fun c => spiGap ++ c.wave

end Sys2Proof.Machine
end

