-- ==== Sys2Proof/Machine/Ledger.lean ====
section
/-! DEFINITION. The ledger (R579 to R589): records, the posting queue, the writer, the start-up validation, the readback and the intervals of R708. -/

namespace Sys2Proof.Machine

/-- SUN_FRAME: µs since por_n deasserted (R400, R580). -/
def State.frame (s : State) : Nat := s.aclk / 100

/-- Bytes 0 to 23 of a record (R580). -/
def LRec.body (r : LRec) : List Byte :=
  leBytes 1 r.kind ++ leBytes 1 (r.plane + 4 * r.q + 16 * b2n r.cont) ++ leBytes 2 r.src ++ leBytes 4 r.time
    ++ leBytes 8 r.lseq ++ (r.arg ++ zeros 8).take 8

/-- A record's 32 bytes at position `k` under the ledger key (R580). -/
def ledgerBytes (key body : List Byte) (k : Nat) : List Byte := body ++ (hmac key (body ++ leBytes 4 k)).take 8

/-- The NVM address of a ledger position (R579). -/
def ledgerAddr (k : Nat) : Nat := 0x400000 + 32 * k
/-- The log position of an LSEQ (R579). -/
def logPos (n : Nat) : Nat := 16 + n % 65520

/-- The next LSEQ after `k` records. -/
def Ldg.adv (l : Ldg) (k : Nat) : Ldg := { l with next := (l.next + k) % 2 ^ 64 }

/-- The writer takes the next record, unless a readback waits for the interface; the first entry that frees after a loss takes LEDGER_LOST (R583, R584, R589). -/
def State.ledgerTake (s : State) : State :=
  match s.ldg.cur, s.ldg.queue with
  | none, r :: rs =>
    if s.ldg.valid && !s.ldg.keyErr && !s.ldg.rdBusy then
      let l := { s.ldg with cur := some r, logged := false, queue := rs }
      if l.lossN > 0 then
        let lost : LRec := { kind := 5, plane := 2, time := s.frame, lseq := l.next, arg := leBytes 4 l.lossN ++ leBytes 1 l.lossKind }
        { s with ldg := { (l.adv 1) with queue := rs ++ [lost], lost := true, lossN := 0, lossKind := 0 } }
      else { s with ldg := l }
    else s
  | _, _ => s

/-- `k` records of a plane are lost, the first of kind `kind`; of two losses of one aclk the earlier plane's is the first (R23, R584). -/
def State.ledgerLose (s : State) (kind plane k : Nat) : State :=
  let first := s.ldg.lossN = 0 || s.ldg.lossP.any fun x => x.1 = s.aclk && plane < x.2
  { s with ldg := { s.ldg with
      lostCnt := satAdd 0xFFFFFFFF s.ldg.lostCnt k
      lossN := satAdd 0xFFFFFFFF s.ldg.lossN k
      lossKind := if first then kind else s.ldg.lossKind
      lossP := if first then some (s.aclk, plane) else s.ldg.lossP } }

/-- A record takes its place among those of one aclk: behind those of its plane and of the planes before it (R23). -/
def insertRec (l : List LRec) (r : LRec) : List LRec := l.takeWhile (fun x => x.plane ≤ r.plane) ++ r :: l.dropWhile fun x => x.plane ≤ r.plane

/-- Records with consecutive LSEQ values from `base` on (R23, R582). -/
def numbered (base : Nat) (l : List LRec) : List LRec := l.zipIdx.map fun (r, i) => { r with lseq := (base + i) % 2 ^ 64 }

/-- Records of aclk `now` enter the posting queue, in plane order among all of that aclk, the one included that the writer has just taken (R23, R582). -/
def Ldg.enqueue (l : Ldg) (now : Nat) (rs : List LRec) : Ldg :=
  let k := (l.queue.reverse.takeWhile fun r => r.at_ = some now).length
  let old := l.queue.take (l.queue.length - k)
  let grp := l.queue.drop (l.queue.length - k)
  match l.cur.filter fun c => old.isEmpty && c.at_ = some now with
  | some c =>
    let all := numbered c.lseq (rs.foldl insertRec (c :: grp))
    { l with cur := all.head?, queue := all.tail }
  | none => { l with queue := old ++ numbered ((grp.head?.map LRec.lseq).getD l.next) (rs.foldl insertRec grp) }

/-- The records at the end of the posting queue that stand behind a record of `plane` posted in aclk `now` (R23). -/
def Ldg.behind (l : Ldg) (now plane : Nat) : Nat := (l.queue.reverse.takeWhile fun r => r.at_ = some now && r.plane > plane).length

/-- The posting queue without its last `k` records, whose LSEQ values are not given. -/
def Ldg.cut (l : Ldg) (k : Nat) : Ldg := { l with queue := l.queue.take (l.queue.length - k), next := (l.next + 2 ^ 64 - k) % 2 ^ 64 }

/-- A record of `plane`, or a pair, that needs `need` entries takes the place of records of this aclk that stand behind it, which are lost, a pair whole (R23, R582, R584). -/
def State.makeRoom (plane need : Nat) : Nat → State → State
  | 0, s => s
  | fuel + 1, s =>
    if s.ldg.queue.length + need ≤ 64 then s
    else match s.ldg.queue.reverse with
      | [] => s
      | r :: rest =>
        let k := if r.kind = 0x3F then 2 else 1
        let kind := if k = 2 then (rest.head?.map LRec.kind).getD 0 else r.kind
        State.makeRoom plane need fuel (({ s with ldg := s.ldg.cut k } : State).ledgerLose kind r.plane k)

/-- Post records that enter the queue together (R23, R582, R584). Posting never waits (R22). -/
def State.postAll (s : State) (rs : List LRec) : State :=
  let kind := (rs.head?.map LRec.kind).getD 0
  let plane := (rs.head?.map LRec.plane).getD 0
  if s.ldg.keyErr || s.ldg.queue.length + rs.length > 64 + s.ldg.behind s.aclk plane then s.ledgerLose kind plane rs.length
  else
    let s := State.makeRoom plane rs.length rs.length s
    let rs' := rs.map fun r => { r with time := s.frame % 2 ^ 32, at_ := some s.aclk }
    ({ s with ldg := (s.ldg.enqueue s.aclk rs').adv rs.length } : State).ledgerTake

/-- Post one record (R581). -/
def State.post (s : State) (kind plane src : Nat) (arg : List Byte) (q : Nat := 0) : State :=
  s.postAll [{ kind, plane, src, q, arg }]

/-- Post a record and its continuation (R582). -/
def State.postCont (s : State) (kind plane src : Nat) (arg cont : List Byte) (q : Nat := 0) : State :=
  s.postAll [{ kind, plane, src, q, arg, cont := true }, { kind := 0x3F, plane, src, q, arg := cont }]

/-- A record is written at a position of the ledger, behind its write enable (R566, R583). -/
def State.ledgerPut (s : State) (key : List Byte) (r : LRec) (k : Nat) : State :=
  let b := ledgerBytes key r.body k
  { (s.spi (s.gate.spiWrite (ledgerAddr k) b)) with nvmOut := s.nvmOut ++ [(ledgerAddr k, b)] }

/-- Steps 1 and 2 of R583: the record in the writer is written at its log position. -/
def State.logWrite (s : State) : State :=
  match s.ldg.cur, s.ldg.key with
  | some r, some key =>
    if s.ldg.logged then s
    else { (s.ledgerPut key r (logPos r.lseq)) with ldg := { s.ldg with logged := true } }
  | _, _ => s

/-- LEDGER_WRITE_COMPLETE (R583): the record in the writer is in the log and in its head slot; the writer takes the next. The log position is written by the next aclk edge after the writer took the record (DESIGN CHOICE, log 12: the spec gives the 13 µs of a record no inner times), so that a loss of power can stand between the two writes (R585). -/
def execLedgerWriteComplete (s : State) : Res :=
  let s := s.logWrite
  match s.ldg.cur, s.ldg.key with
  | some r, some key =>
    let t := s.ledgerPut key r (r.lseq % 16)
    .next (State.ledgerTake { t with ldg := { s.ldg with cur := none, logged := false, written := satAdd 0xFFFFFFFF s.ldg.written 1 } })
  | _, _ => .next s

/-- The MAC of the 32 bytes at position `k` is valid (R580, R585). -/
def macOk (key : List Byte) (k : Nat) (b : List Byte) : Bool := b.length == 32 && ledgerBytes key (b.take 24) k == b

/-- The LSEQ of a record's bytes. -/
def lseqOf (b : List Byte) : Nat := field b 8 8

/-- The newest valid head (R585). -/
def newestHead (key : List Byte) (heads : List (List Byte)) : Option (List Byte) :=
  ((heads.zipIdx.filter fun (b, k) => macOk key k b).map Prod.fst).foldl
    (fun m b => match m with
      | none => some b
      | some a => if lseqOf a < lseqOf b then some b else some a) none

/-- Validation gives the next LSEQ; a record posted before it counts on from there (R585; assumption log 12). -/
def State.ledgerOpen (s : State) (base : Nat) : State :=
  { s with ldg := { s.ldg with
      valid := true
      next := (base + s.ldg.next) % 2 ^ 64
      queue := s.ldg.queue.map fun r => { r with lseq := (base + r.lseq) % 2 ^ 64 } } }

/-- LEDGER_VALIDATION (R585): the 16 head slots and the log position of the newest valid head have been read. -/
def execLedgerValidation (heads : List (List Byte)) (log : List Byte) (s : State) : Res :=
  if s.gate.st == .ledger && s.gate.kpReq.isNone then
    let t := { s with gate := { s.gate with st := .headers } }.spiReads [(ledgerAddr 0, 512)]
    match t.ldg.key with
    | none =>
      let k := t.ldg.queue.length
      let kind := (t.ldg.queue.head?.map LRec.kind).getD 0
      let plane := (t.ldg.queue.head?.map LRec.plane).getD 0
      let u := { t with ldg := { t.ldg with valid := true, keyErr := true, queue := [] } }
      .next (if k = 0 then u else u.ledgerLose kind plane k)
    | some key => match newestHead key heads with
      | none => .next ({ (t.ledgerOpen 0) with ldg := { (t.ledgerOpen 0).ldg with noHead := true } }.post 3 2 0 [])
      | some b =>
        let p := logPos (lseqOf b)
        let u := (t.ledgerOpen (lseqOf b + 2)).spiReads [(ledgerAddr p, 32)]
        if macOk key p log && log.take 24 == b.take 24 then .next u.ledgerTake
        else .next ({ u with ldg := { u.ldg with mismatch := true } }.post 4 2 0 (leBytes 8 (lseqOf b)))
  else .next s

/-- An event of R708 at an interval: it opens the interval or is counted in it. -/
def openOr (o : Option Open) (e : Open) : Option Open :=
  match o with
  | none => some e
  | some i => some { i with count := satAdd 0xFFFFFFFF i.count 1 }

/-- A refused management access of domain `d` at offset `off` (R543, R708). -/
def State.denied (s : State) (d : Dom) (off : Nat) : State :=
  { (s.modD d fun x => { x with aIvl := openOr x.aIvl { at_ := s.aclk, count := 1, a := off, b := 0, c := 0, d := 0 } }) with
    gate := { s.gate with denied := true } }

/-- A transaction of domain `d` failed its region check (R538, R708). -/
def State.regionFault (s : State) (d : Dom) (kind q n addr : Nat) : State :=
  { (s.modD d fun x => { x with
      rfault := satAdd 0xFFFFFFFF x.rfault 1
      rIvl := openOr x.rIvl { at_ := s.aclk, count := 1, a := addr, b := kind, c := q, d := n } }) with
    rf := { s.rf with dom := d, kind, q, log := n, addr } }

/-- The length of an interval of R708 in aclk. -/
def ivlLen : Nat := 100000

/-- RECORD_INTERVAL_CLOSE (R708): one record with the details of the event that opened the interval and the count. -/
def execRecordIntervalClose (i : Ivl) (s : State) : Res :=
  match i with
  | .link n => match s.linkIvl[n] with
    | some o =>
      when (s.aclk ≥ o.at_ + ivlLen) s
        (({ s with linkIvl := s.linkIvl.set n none } : State).post 0x25 1 n (leBytes 4 o.count))
    | none => .next s
  | .region d => match s.doms[d].rIvl with
    | some o =>
      when (s.aclk ≥ o.at_ + ivlLen) s
        ((s.modD d fun x => { x with rIvl := none }).postCont 0x29 1 d (leBytes 7 o.a ++ leBytes 1 o.b)
          (leBytes 4 o.count ++ leBytes 1 o.d) o.c)
    | none => .next s
  | .access d => match s.doms[d].aIvl with
    | some o =>
      when (s.aclk ≥ o.at_ + ivlLen) s
        ((s.modD d fun x => { x with aIvl := none }).post 7 2 d (leBytes 4 o.a ++ leBytes 4 o.count))
    | none => .next s

/-- LDG_READBACK_DONE (R589): between ledger writes, the raw bytes of position POS have been read and stand in LDG_RD0 to LDG_RD7; the writer goes on. -/
def execLdgReadbackDone (data : List Byte) (s : State) : Res :=
  when (s.ldg.rdBusy && s.ldg.cur.isNone) s
    (State.ledgerTake { (s.spiReads [(ledgerAddr s.ldg.rdAt, 32)]) with ldg := { s.ldg with rdBusy := false, rdDone := true, rd := (data ++ zeros 32).take 32 } })

/-- The read commands of the service region leave the interface to the ledger writer and to a readback (R584, R589). -/
def Ldg.idle (l : Ldg) : Bool := l.cur.isNone && !l.rdBusy

/-- The next command of a service-image read: at most 4 KiB (R584). -/
def State.svcChunk (s : State) : State :=
  if s.svc.pos < s.svc.len then
    { (s.spiReads [(s.svc.addr + s.svc.pos, min 4096 (s.svc.len - s.svc.pos))]) with svc := { s.svc with pos := s.svc.pos + 4096 } }
  else s

/-- The service image streams, a command in each aclk in which the ledger writer leaves the interface free (R584; DESIGN CHOICE, log 63: the spec gives a command no length in time). -/
def State.svcStream (s : State) : State :=
  if s.svc.busy && s.gate.kpReq.isNone && s.gate.kpErr = 0 && s.ldg.idle then s.svcChunk else s

/-- What is left of the service image is read. -/
def State.svcRest : Nat → State → State
  | 0, s => s
  | k + 1, s => State.svcRest k s.svcChunk

end Sys2Proof.Machine
end

