-- ==== Sys2Proof/Machine/Sundial.lean ====
section
/-! DEFINITION. The Sundial (R400 to R420): token balances, footprints, transfer terms, admission, booking and release. -/

namespace Sys2Proof.Machine

/-- The cap of a balance in hundredths of a token (R402). -/
def balCap (r : Nat) : Nat := 100 * (4 + ceilDiv r 100)

/-- The value of a balance at aclk `now`: it rises by R hundredths an aclk up to its cap (R402). -/
def Bal.val (b : Bal) (r now : Nat) : Nat := min (balCap r) (b.v + r * (now - b.at_))

/-- The balance index of a slice and direction. -/
def balIx (sl : SliceN) (wr : Bool) : Fin 32 := ⟨2 * sl + b2n wr, by unfold b2n; split <;> omega⟩

/-- A write-direction kind (R401). -/
def Kind.isWrite : Kind → Bool
  | .write | .lockWrite => true
  | .read | .lockRead => false

/-- Tokens in hundredths of a transaction of `n` bytes (R401). -/
def tokens (n : Nat) : Nat := 100 * (n / 64)

/-- What a post of `n` bytes takes from the replay credit: a replayed transaction draws it first (R418). -/
def Que.fromCredit (u : Que) (rep : Bool) (i : Fin 32) (n : Nat) : Nat := if rep then min u.credit[i] (tokens n) else 0

/-- The regulator allows a post of `n` bytes (R402, R418). -/
def Que.canDraw (u : Que) (rep : Bool) (now : Nat) (i : Fin 32) (n : Nat) : Bool :=
  u.cfg.res == 0 || u.fromCredit rep i n + u.bal[i].val u.cfg.res now ≥ tokens n

/-- Draw the tokens of a post of `n` bytes (R402, R418). -/
def Que.draw (u : Que) (rep : Bool) (now : Nat) (i : Fin 32) (n : Nat) : Que :=
  if u.cfg.res = 0 then u
  else
    let c := u.fromCredit rep i n
    { u with
      credit := u.credit.set i (u.credit[i] - c)
      bal := u.bal.set i { v := u.bal[i].val u.cfg.res now - (tokens n - c), at_ := now } }

/-- All balances at their caps (R402, R418). -/
def Que.fillBal (u : Que) (now : Nat) : Que :=
  { u with bal := Vector.replicate 32 { v := balCap u.cfg.res, at_ := now } }

/-- A side's transactions: address and bytes. -/
abbrev Txs := List (Nat × Nat)

/-- The rows of a STRIDE side (R182): start addresses. -/
def strideRows (d : Desc) (base o : Nat) : List Nat :=
  (List.range (field d 30 2)).flatMap fun (i2 : Nat) => (List.range (field d 28 2)).map fun (i1 : Nat) =>
    ((base : Int) + d.s32 (o + 4) * i2 + d.s32 o * i1).toNat

/-- A list without repeats, first occurrences kept. -/
def distinct (l : List Nat) : List Nat := l.foldl (fun acc x => if acc.contains x then acc else acc ++ [x]) []

/-- The 64-byte words of a list in runs: consecutive ones of one 256-byte block (R174). -/
def wordRuns : List Nat → List (List Nat)
  | [] => []
  | w :: ws => match wordRuns ws with
    | (v :: vs) :: rs => if w / 4 = v / 4 then (w :: v :: vs) :: rs else [w] :: (v :: vs) :: rs
    | rs => [w] :: rs

/-- The transactions that the rows of a STRIDE side form: rows that follow one another in one block share its run (R174, R404). -/
def rowsTx (rows : List Nat) (len : Nat) : Txs :=
  (wordRuns (rows.flatMap fun a => if len = 0 then [] else (List.range ((a + len - 1) / 64 - a / 64 + 1)).map fun i => a / 64 + i)).flatMap fun r =>
    let blk := r.headD 0 / 4 * 256
    (blockTx fun k => r.any fun w => w % 4 == k).map fun (k, n) => (blk + 64 * k, n)

/-- The tokens of a STRIDE side (R404, R405): the transactions that its rows form, or an index-driven charge of LENGTH·4 when more than 1,024 distinct rows remain. R405 counts row by row; where R174 joins rows in one run, the exact transactions of R404 are charged (DEDUCED, log 62). -/
def strideSide (d : Desc) (base o : Nat) : Txs × Nat :=
  let rows := strideRows d base o
  if (distinct (rows.map (· % 2 ^ 20))).length > 1024 then ([], 4 * d.len) else (rowsTx rows (field d 24 4), 0)

/-- The affine sides and the index-driven tokens of a descriptor: reads, writes, index-driven reads and writes (R406, R227, R249, R300). -/
structure Foot where
  rd : Txs := []
  wr : Txs := []
  ri : Nat := 0
  wi : Nat := 0
deriving DecidableEq, Repr

/-- A side that may be the link. -/
def sideTx (v len : Nat) : Txs := if isLink v then [] else rangeTx v len

/-- The bytes of R300. -/
def parterreBytes (d : Desc) : Nat :=
  let k := ceilDiv (d.len * d.tw) 65472 + 2 ^ d.b 35
  d.len * d.tw + 128 * 2 ^ d.b 35 + 64 * k + 256 * ceilDiv k 16

/-- The sides of a descriptor without its record and its NEXT (R406). `bits_` is the BITS of the bed set that a BEDCLOSE finds open at its start (R300). -/
def opFoot (d : Desc) (bits_ : Option Nat) : Foot :=
  let n := d.len * d.w
  match d.op with
  | 0x01 => { rd := sideTx d.src d.len, wr := sideTx d.dst d.len }
  | 0x02 =>
    let s := if isLink d.src then ([], 0) else strideSide d d.src 32
    let t := if isLink d.dst then ([], 0) else strideSide d d.dst 40
    { rd := s.1, wr := t.1, ri := s.2, wi := t.2 }
  | 0x03 | 0x04 => { wr := sideTx d.dst d.len }
  | 0x10 | 0x11 => { rd := sideTx d.src n ++ rangeTx d.a24 d.bmapBytes, wr := sideTx d.dst n }
  | 0x12 => { rd := sideTx d.a24 (d.len * d.idw), wr := sideTx d.dst n, ri := 2 * d.len }
  | 0x13 => { rd := sideTx d.src n ++ sideTx d.a24 (d.len * d.idw), wi := 2 * d.len }
  | 0x18 => { rd := sideTx d.a24 (16 * d.idw), ri := 32 }
  | 0x19 => { rd := sideTx d.a24 (16 * d.idw) ++ sideTx d.src (16 * d.w), wi := 32 }
  | 0x20 => { rd := sideTx d.src d.unpackBytes, wr := sideTx d.dst (d.len * d.lane) }
  | 0x21 => { rd := sideTx d.src (d.len * d.win), wr := sideTx d.dst (d.len * d.wout) }
  | 0x28 =>
    let k := ceilDiv (parterreBytes d) 64
    { rd := (if d.tupleIn then sideTx d.src (d.len * d.tw) else sideTx d.src n ++ rangeTx d.a24 (d.len * d.wp)), ri := k, wi := k }
  | 0x29 => match bits_ with
    | some x => { wr := rangeTx d.dst (192 + 32 * 2 ^ x), wi := 2 * 2 ^ x }
    | none => {}
  | 0x30 => { rd := sideTx d.src d.len }
  | 0x31 => { rd := [(d.dst / 64 * 64, 64)], wr := [(d.dst / 64 * 64, 64)] }
  | _ => {}

/-- The largest token count of transactions on one slice (R407). -/
def maxSlice (l : Txs) : Nat :=
  ((fins 16).map fun sl => ((l.filter fun x => sliceOf x.1 == sl).map fun x => x.2 / 64).sum).foldl max 0

/-- The read at NEXT of a LINKED descriptor other than a WAIT (R406). -/
def nextFoot (d : Desc) : Txs := if d.linked && d.op ≠ 0x38 then [(d.next / 64 * 64, 64)] else []

/-- The footprint is the completion record alone (R414). -/
def recordOnly (d : Desc) (bits_ : Option Nat) : Bool := opFoot d bits_ == {} && !d.linked

/-- H of R407 on a queue whose record goes to `rec_`. -/
def hostTokens (d : Desc) (bits_ : Option Nat) (rec_ : Nat) : Nat :=
  let f := opFoot d bits_
  max (maxSlice (f.rd ++ nextFoot d) + f.ri) (maxSlice (f.wr ++ [(rec_ / 64 * 64, 64)]) + f.wi)

/-- The host term (R407) on a queue of reservation `r` whose record goes to `rec_`. -/
def hostTerm (s : State) (d : Desc) (bits_ : Option Nat) (r rec_ : Nat) : Nat :=
  ceilDiv (100 * hostTokens d bits_ rec_) r
    + (if d.op = 0x31 then ceilDiv (100 * s.hpt.lease) s.sun.hclk + ceilDiv s.sun.hostLat 10 else 0)

/-- A STRIDE side was charged as an index-driven side (R405). -/
def strideBound (d : Desc) : Bool :=
  d.op == 0x02 && ((!isLink d.src && (strideSide d d.src 32).2 > 0) || (!isLink d.dst && (strideSide d d.dst 40).2 > 0))

/-- The payload bytes of a descriptor's own link output, at most (R408). -/
def linkBytes (d : Desc) : Nat :=
  match d.op with
  | 0x10 | 0x11 | 0x12 => d.len * d.w
  | 0x18 => 16 + 16 * d.w
  | 0x19 => 16
  | 0x20 => d.len * d.lane
  | 0x21 => d.len * d.wout
  | 0x31 => d.opw
  | _ => d.len

/-- The promised queues of a port (R408). -/
def promisedOn (s : State) (n : Log) : Nat :=
  ((fins 4).filter fun q => (s.que n q).cfg.valid && (s.que n q).cfg.res > 0).length

/-- The packets of a descriptor's own link output (R408). -/
def ownPackets (dm : Nat) (d : Desc) : Nat := max 1 (ceilDiv (linkBytes d) dm) + b2n (d.op == 0x30)

/-- F_own of R408: the flits of a descriptor's own packets, headers included. -/
def ownFlits (dm : Nat) (d : Desc) : Nat :=
  ceilDiv (linkBytes d) 32 + ownPackets dm d + (if d.op = 0x30 then ceilDiv (d.b 32) 32 else 0)

/-- The link term (R408). -/
def linkTerm (s : State) (n : Log) (d : Desc) : Nat :=
  if !d.linkOut then 0
  else
    let dm := s.lch[n].port.dmax
    ceilDiv ((ownFlits dm d + (ownPackets dm d * (promisedOn s n - 1) + 1) * (1 + dm / 32)) * 100) s.sun.cclk[terL n]

/-- The address of completion record `k` of a queue (R123). -/
def QCfg.recAt (c : QCfg) (k : Nat) : Nat := c.cringBase + 16 * (k % 2 ^ c.cringLog)

/-- A BEDCLOSE of queue `q` closes the bed set (R291). -/
def Bed.closedBy (b : Bed) (q : Qn) (d : Desc) : Bool := b.q == q && b.bid == field d 56 2

/-- The BITS of the matching bed set, which a BEDCLOSE's sides have; none where it finds no matching one (R300, R406). -/
def bedBits (s : State) (n : Log) (q : Qn) (d : Desc) : Option Nat :=
  if d.op = 0x29 then (s.lch[n].bed.filter fun b => b.closedBy q d).map Bed.bits else none

/-- The transfer term D (R408). -/
def transferTerm (s : State) (n : Log) (q : Qn) (d : Desc) (recNo : Nat) : Nat :=
  let c := (s.que n q).cfg
  max (hostTerm s d (bedBits s n q d) c.res (c.recAt recNo)) (linkTerm s n d)

/-- The replay-safe mark of R524. -/
def replaySafe (s : State) (n : Log) (q : Qn) (d : Desc) (recNo : Nat) : Bool :=
  hostTokens d (bedBits s n q d) ((s.que n q).cfg.recAt recNo) ≤ (s.sun.tokens - s.sun.promised) / 16
    && (!d.linkOut || ownFlits s.lch[n].port.dmax d ≤ 8 * s.sun.cclk[terL n] / 100)

/-- The flits a DIGEST's message counts (R412): until it has reached visible 1 at least, also once its FINAL or MSG_ABORT has left and nothing of it is still to be sent. -/
def msgFlits (dm : Nat) (a : Acc) : Nat :=
  if a.d.op ≠ 0x30 || a.pre.isSome || a.notRun || a.stage == .visible then 0
  else
    let r := if a.x.finSent || a.x.msgAbort then 0 else a.d.len - a.x.outSent
    ceilDiv r 32 + ceilDiv r dm + 1

/-- The flits of every message of the port, without that of descriptor `id` (R412). -/
def portMsgFlits (s : State) (n : Log) (id : Nat) : Nat :=
  let l := s.lch[n]
  (l.qs.toList.flatMap fun u => u.acc.map fun a => if a.id = id then 0 else msgFlits l.port.dmax a).sum

/-- The message term M (R412). -/
def msgTerm (s : State) (n : Log) (d : Desc) (id : Nat) : Nat :=
  if d.linkOut then ceilDiv (100 * portMsgFlits s n id) s.sun.cclk[terL n] else 0

/-- A WAIT (R411). -/
def Acc.isWait (a : Acc) : Bool := a.d.op == 0x38

/-- The kind of descriptor that is anchored at its start, whatever stands before it (R411). -/
def Acc.startKind (a : Acc) : Bool := a.d.hold || a.d.fence || a.d.isParterre

/-- A descriptor runs: it passed its checks, is no substitute and is not retired unrun. -/
def Acc.runs (a : Acc) : Bool := a.pre.isNone && !a.subst && !a.notRun

/-- The descriptor has started, in this execution or in one that a takeover or reset ended (R125, R520). -/
def Acc.begun (a : Acc) : Bool := a.stage ≠ .accepted || a.replayed

/-- SUN_STATUS.STRIDE_BOUND is set when a promised descriptor is charged with a bound STRIDE side (R405). -/
def State.charge (s : State) (n : Log) (q : Qn) (d : Desc) : State :=
  { s with sun := { s.sun with strideBound := s.sun.strideBound || ((s.que n q).cfg.res > 0 && strideBound d) } }

/-- Book descriptor `a` at anchor `t` (R410, R414). -/
def State.bookAcc (s : State) (n : Log) (a : Acc) (t : Nat) : Acc :=
  let w := s.lch[n].port.cwake * (if a.d.op = 0x30 then 2 else 1)
  { a with anchor := some t, deadline := some (t + 80 + a.term + 300 + w + msgTerm s n a.d a.id) }

/-- The Sundial's decision for a checked descriptor that follows `before` in its queue (R414): the accepted descriptor and whether the horizon moves, or the wait of a refusal. -/
def State.sunDecide (s : State) (n : Log) (q : Qn) (a : Acc) (before : List Acc) (recNo : Nat) : Sum (Acc × Bool) Nat :=
  let u := s.que n q
  if u.cfg.res = 0 then .inl (a, false)
  else
    let a := { a with term := transferTerm s n q a.d recNo, safe := replaySafe s n q a.d recNo }
    let behind := before.any fun x => x.runs && !x.begun && x.startKind
    let startA := !a.isWait && (a.startKind || behind)
    if a.isWait then .inl (a, false)
    else if startA then .inl ({ a with anchored := true }, false)
    else if recordOnly a.d none then .inl (s.bookAcc n a s.aclk, false)
    else if u.f > s.aclk then .inr (u.f - s.aclk)
    else .inl (s.bookAcc n a s.aclk, true)

/-- The horizon moves to the end of a booking (R414). -/
def Que.touchF (u : Que) (a : Acc) : Que := { u with f := a.anchor.getD 0 + a.term, lastB := some a.id }

/-- The horizon falls when the last booked descriptor reaches visible or retires before it (R416). -/
def Que.release (u : Que) (id now : Nat) : Que := if u.lastB = some id then { u with f := min u.f now } else u

/-- The slack of a record (R171), as a 24-bit field. -/
def slackField (dl : Option Nat) (vis : Nat) : Nat :=
  match dl with
  | none => 0x800000
  | some d => if d ≥ vis then min (d - vis) 0x7FFFFF else 2 ^ 24 - min (vis - d) 0x7FFFFF

/-- The deadline, moved by the pool wait that goes on (R274). -/
def Acc.due (a : Acc) (now : Nat) : Option Nat :=
  a.deadline.map fun d => d + (match a.x.poolA with
    | some t => now - t
    | none => 0)

end Sys2Proof.Machine
end

