-- ==== Sys2Proof/Machine/Queues.lean ====
section
/-! DEFINITION. Queues and channels as states (R110 to R145): region checks, wake demands, enabling, draining and releasing a queue, accepting a descriptor, and the order of starts. -/

namespace Sys2Proof.Machine

/-- The permissions that a kind needs (R537). -/
def Kind.allowed (k : Kind) (w : Win) : Bool :=
  match k with
  | .read => w.r
  | .write => w.w
  | .lockRead | .lockWrite => w.r && w.w && w.l

/-- A transaction of domain `d` at address `a` passes its region check (R537). -/
def State.regionOk (s : State) (d : Dom) (k : Kind) (a : Nat) : Bool := s.doms[d].covers (a / 4096) k.allowed

/-- hp_q_kind (R336). -/
def Kind.code : Kind → Nat
  | .read => 0
  | .write => 1
  | .lockRead => 2
  | .lockWrite => 3

/-- A transaction of a queue failed its region check (R538). -/
def State.regionFail (s : State) (n : Log) (q : Qn) (k : Kind) (a : Nat) : State :=
  s.regionFault (s.que n q).cfg.dom k.code q n a

/-! ## Sleep -/

/-- The internal clock tree of a terrace restarts (R629); its channels are counted from the next period (R510). -/
def State.restartTree (s : State) (t : Ter) : State :=
  s.modT t fun x => { x with stopped := false, asleepA := 0, runA := if x.stopped then s.aclk else x.runA }

/-- The aclk of step 1 of a dormant entry: 4 cclk (R623). -/
def State.step1 (s : State) (t : Ter) : Nat := ceilDiv 400 s.sun.cclk[t]

/-- The channel begins to wake (R625): it is monitored again from a missed count of 0 (R510). -/
def State.beginWake (s : State) (p : Phys) : State :=
  (s.restartTree (terP p)).modP p fun c =>
    { c with st := .waking, wakeA := some s.aclk, wakeFor := .dormant, latched := false, entry := 0, missed := 0, monA := s.aclk, quiet := 0 }

/-- The wake of 24 aclk that the channel is in, if any, is over (R625). -/
def PCh.woken (c : PCh) (now : Nat) : Bool := c.wakeA.all fun t => t + 24 ≤ now

/-- A wake ends and is counted (R625, R639). -/
def State.endWake (s : State) (p : Phys) : State :=
  if s.phys[p].wakeA.isNone then s
  else s.modP p fun c => { c with wakeA := none, c := { c.c with wakes := satAdd 0xFFFFFFFF c.c.wakes 1 } }

/-- A wake demand, flit or request-line pulse at a channel (R141, R624, R626); in the aclk in which the idle period elapses no entry begins. -/
def State.demand (s : State) (p : Phys) : State :=
  let c := s.phys[p]
  match c.st with
  | .dormant => s.beginWake p
  | .active =>
    if c.entry = 0 || c.entry = s.aclk + 1 then s.modP p fun c => { c with entry := 0, quiet := 0, stirA := some s.aclk }
    else if s.aclk < c.entry - 1 + s.step1 (terP p) then
      s.modP p fun c => { c with entry := 0, quiet := 0, stirA := some s.aclk, c := { c.c with abandons := satAdd 0xFFFF c.c.abandons 1 } }
    else s.modP p fun c => { c with latched := true }
  | _ => s

/-- A wake demand on the channel that serves `n`. -/
def State.wake (s : State) (n : Log) : State :=
  match s.servP n with
  | some p => s.demand p
  | none => s

/-! ## Queue states -/

/-- A trigger of R114 of generation `dg`: a PIDX read, merged with one that is outstanding. R114 speaks of triggers while a read is outstanding; one that comes before an earlier trigger's read is posted joins that read (DESIGN CHOICE, log 62). -/
def Que.trigger (u : Que) (dg : Nat) : Que :=
  if !u.cfg.ring then u
  else if !u.prd.out then { u with prd := { out := true, dg } }
  else if !u.prd.posted then { u with prd := { u.prd with dg := max u.prd.dg dg } }
  else { u with prd := { u.prd with want := true, wantDg := max u.prd.wantDg dg } }

/-- A queue enters ACTIVE (R114, R137). -/
def Que.activate (u : Que) (dg : Nat) : Que := ({ u with st := .active, enp := false, enDg := 0, fltDet := false, found := [] } : Que).trigger dg

/-- An enable event whose PIDX read would have generation `dg` (R137). -/
def Que.enable (u : Que) (dg : Nat) : Que :=
  match u.st with
  | .disabled => if u.cfg.valid then u.activate dg else u
  | .draining => { u with enp := true, enDg := max u.enDg dg }
  | .active | .halted => u

/-! ## The link FIFO's words -/

/-- The gap markers that count words of a list. -/
def markersOf (l : List LEnt) : List Nat := columnTx.distinct (l.filterMap fun e => match e with
  | .gap _ _ m => some m
  | .word _ _ | .eop _ | .last => none)

/-- The store words that a list takes: its words, and one for each gap marker (R320, R321). -/
def entryWords (l : List LEnt) : Nat := l.countP (fun e => match e with
  | .word _ _ => true
  | .gap _ _ _ | .eop _ | .last => false) + (markersOf l).length

/-- The CMD payload of a descriptor that still stands in the link FIFO: until its start, for an INLINE until the operation unit takes it (R304, R318). -/
def Acc.inFifo (a : Acc) : List LEnt := if a.stage == .accepted || a.d.op = 0x04 then a.payload else []

/-- The payload of a CMD that is held for a retry position (R494). -/
def Que.heldPay (u : Que) : List LEnt := ((u.halt.bind Halt.held).map Acc.payload).getD []

/-- What a link FIFO holds: payloads, DELIVER data, a held CMD's payload. -/
def Que.fifo (u : Que) : List LEnt := u.acc.flatMap Acc.inFifo ++ u.link ++ u.heldPay

/-- The occupancy of the link FIFO in words (R320, R321). -/
def Que.occ (u : Que) : Nat := entryWords u.fifo

/-- Words leave the link FIFO: under CREDITED flow they are owed as credit (R63, R318). -/
def Que.freeWords (u : Que) (k : Nat) : Que := if u.cfg.stream then u else { u with owed := u.owed + k }

/-- The queue `v` that `u` becomes when words of its link FIFO are released: the release count moves, and under CREDITED flow the words are owed (R63, R310, R318). -/
def Que.freedTo (u v : Que) : Que :=
  let k := u.occ - v.occ
  ({ v with linkR := v.linkR + k } : Que).freeWords k

/-! ## Halts, releases and drains -/

/-- Accepted descriptors that have not started retire NOT_RUN (R137, R500). -/
def Que.skipUnstarted (u : Que) : Que :=
  { u with acc := u.acc.map fun a => if a.begun || a.pre.isSome then a else { a with notRun := true, deadline := none } }

/-- Put an entry after the last one that `ok` accepts, or in front of all. -/
def insertAfter (ok : Acc → Bool) (r : Acc) : List Acc → List Acc
  | [] => [r]
  | a :: as => if (a :: as).any ok then a :: insertAfter ok r as else r :: a :: as

/-- The place of a retry position: after the last descriptor that has started (R491, R502). -/
def insertRetry (r : Acc) (l : List Acc) : List Acc := insertAfter Acc.begun r l

/-- Descriptor bytes that take inbound DELIVER data, for which a retry has no input (R493). -/
def Acc.noInput (a : Acc) : Bool := !a.tagF && a.d.takesDeliver

/-- The bytes that a retry executes have come again: one that takes inbound DELIVER data retires NOT_RUN with the halted descriptor's TAG (R492, R493). -/
def Acc.rerun (old new : Acc) : Acc := if old.retry && new.noInput then { old with notRun := true, have_ := true } else new

/-- The retry position as a descriptor of the queue (R491 to R493). That of a LOOP substitute is numbered so that CHAIN_MAX further members may follow it. -/
def Halt.acc (h : Halt) (id : Nat) (run : Bool) (dg : Nat) : Acc :=
  let base : Acc :=
    { id, seq := h.seq, member := if h.loop then 0 else h.member, bytes := h.bytes, tagF := h.tagF, origin := h.origin, dg,
      retry := true, rows0 := h.rows, reopen := h.opened, fetched := h.fetched, exempt := h.exempt, have_ := false, anchored := true, notRun := !run }
  match h.held with
  | some a => if run then base.rerun { base with bytes := a.bytes, payload := a.payload, have_ := true, pre := a.pre, tagF := a.tagF } else base
  | none => base

/-- Unstarted promised descriptors become start-anchored (R417). -/
def Que.reanchor (u : Que) : Que :=
  { u with acc := u.acc.map fun a =>
      if !a.begun && u.cfg.res > 0 && a.runs then { a with anchor := none, deadline := none, anchored := !a.isWait } else a }

/-- A release of a halted queue: RETRY (`run`) or SKIP, with the DG of the retry and of the PIDX read (R433, R492, R493). The words of a held CMD that is not run are released (R494). -/
def State.release (s : State) (n : Log) (q : Qn) (run : Bool) (dg pdg : Nat) : State :=
  match (s.que n q).halt with
  | some h =>
    let r := h.acc s.nextId (run && !h.noRetry) (max h.dg dg)
    { (s.modQ n q fun u => ((u.freedTo { u with acc := insertRetry r u.acc, halt := some { h with released := true, held := none } }).reanchor).activate pdg) with
      nextId := s.nextId + 1 }
  | none => s.modQ n q fun u => u.activate pdg

/-- A drain request: a fetched ring entry that is not accepted is dropped (R137, R140, R500). -/
def State.drainReq (s : State) (n : Log) (q : Qn) : State :=
  let u := s.que n q
  match u.st with
  | .active => s.modQ n q fun u => { u with st := .draining, drainA := s.aclk, fetches := [], fltDet := false }
  | .halted =>
    match u.halt with
    | some h =>
      { (s.modQ n q fun u => (u.freedTo { u with
          st := .draining, drainA := s.aclk, fetches := [], fltDet := true
          acc := insertRetry (h.acc s.nextId false h.dg) u.acc, halt := some { h with released := true, held := none } }).skipUnstarted) with
        nextId := s.nextId + 1 }
    | none => s.modQ n q fun u => ({ u with st := .draining, drainA := s.aclk, fetches := [], fltDet := true } : Que).skipUnstarted
  | .disabled | .draining => s

/-- Channel states that the monitor watches (R510). -/
def CS.monitored : CS → Bool
  | .waking | .active | .draining | .reserve => true
  | .off | .dormant | .quarantined => false

/-- A report that the monitor declares in the next aclk (R512). -/
def State.report (s : State) (p : Phys) (cause : Nat) : State :=
  s.modP p fun c => if c.dieA.isSome || !(c.st.monitored || c.st == .dormant) then c else { c with dieA := some (s.aclk, cause) }

/-- Control state of `p` has an uncorrectable parity error (R511, R512). -/
def State.ctlError (s : State) (p : Phys) : State := (s.modP p fun c => { c with parity := true }).report p 2

/-- The areas of the store, as LAST_AREA numbers them: 0 reorder, 1 combining, 2 cursor, 3 staging, 4 descriptor, 5 FIFO (R304, R331). -/
def areaOf (w : Nat) : Nat := if w < 1024 then 0 else if w < 1280 then 1 else if w < 1344 then 2 else if w < 1376 then 3 else if w < 1440 then 4 else 5

/-- Words that read with a parity error in the verification of a scrub: each is counted; one of the bed cursor table is an error in control state (R326, R331). -/
def State.scrubUpset (s : State) (p : Phys) (upset : List (BitVec 11)) : State :=
  let t := upset.foldl (fun t w => t.parErr p (areaOf w.toNat) 1) s
  if upset.any fun w => areaOf w.toNat = 2 then t.ctlError p else t

/-- A part of the store of `words` words is scrubbed, 2 words in each cclk: the combining slots and the cursor table (`comb`), or a group staging buffer (R332, R333). -/
def State.scrubPart (s : State) (n : Log) (words : Nat) (comb : Bool) : State :=
  match s.servP n with
  | some p => s.modP p fun c => { c with
      partEnd := max c.partEnd (s.aclk + ceilDiv (100 * ceilDiv words 2) s.sun.cclk[terP p]), partComb := comb || (c.partComb && s.aclk < c.partEnd) }
  | none => s

/-- The combining slots and the cursor table of the channel that serves `n` are being scrubbed: nothing else reaches them (R292, R332). -/
def State.combBusy (s : State) (n : Log) : Bool := (s.servP n).any fun p => s.phys[p].partComb && s.aclk < s.phys[p].partEnd

/-- An open bed set is abandoned (R295). -/
def State.abandonBed (s : State) (n : Log) : State :=
  match s.lch[n].bed with
  | some b =>
    ((s.scrubPart n 320 true).modL n fun l => { l with bed := none }).post 0x27 1 n
      (leBytes 2 b.bid ++ leBytes 1 b.reserve.length ++ leBytes 1 0 ++ leBytes 4 b.chunks) b.q
  | none => s

/-- A queue enters DISABLED (R131, R295). -/
def State.disable (s : State) (n : Log) (q : Qn) : State :=
  let t := s.modQ n q fun u => { u with st := .disabled, enp := false, enDg := 0, kicks := 0, fltDet := false }
  if (t.lch[n].bed.map Bed.q) = some q then t.abandonBed n else t

/-- A channel drain begins: every queue of `n` receives a drain request, and the queues that were ACTIVE or HALTED_FAULT are remembered (R141, R145). -/
def State.channelDrain (s : State) (n : Log) : State :=
  ((fins 4).foldl (fun s q =>
    let on := (s.que n q).st == .active || (s.que n q).st == .halted
    (s.modQ n q fun u => { u with wasOn := on || (u.st == .draining && u.enp) }).drainReq n q) s).modL n fun l => { l with drain := true }

/-- A channel whose wake or restore has ended goes to ACTIVE, or to DRAINING under a channel drain (R141). -/
def State.goUp (s : State) (p : Phys) (n : Log) : State :=
  let c := s.phys[p]
  let t := s.modP p fun c => { c with st := if s.lch[n].drain || c.toDrain then .draining else .active, toDrain := false, quiet := 0 }
  if c.toDrain && !s.lch[n].drain then t.channelDrain n else t

/-! ## Submissions -/

/-- Accepted submissions that have not retired, a retry position counted (R126, R491); a substitute counts as retired with its acceptance (R125). -/
def Que.subs (u : Que) : Nat :=
  (u.lastAcc + 65536 - u.lastRet) % 65536 + b2n u.halt.isSome - u.acc.countP fun a => a.subst && a.member == 0 && !a.retry

/-- What the checks of a descriptor of a queue see. -/
def Que.dctx (u : Que) (pay : Nat) (cmd gap : Bool) : DCtx := { pay, cmd, gap, stream := u.cfg.stream, linkWords := u.cfg.fifo - 64 }

/-- A descriptor's entry with the outcome of its checks (R161, R162). -/
def checked (u : Que) (a : Acc) (psn : Bool) (pay : Nat) (cmd gap : Bool) : Acc :=
  match descFail a.bytes psn (u.dctx pay cmd gap) with
  | some (k, c, d) => { a with pre := some (c, d), tagF := k ≤ 1 }
  | none => a

/-- The number of the record that a descriptor at place `k` of its queue will write (R123). -/
def Que.recNo (u : Que) (k : Nat) : Nat := u.rcnt + k + (if u.halt.any fun h => !h.released then 1 else 0)

/-- Put a descriptor in its queue's order: at the end, or after the entry `pred` (R119), but behind a retry position, which precedes all that starts after the release (R502). -/
def insertAcc (a : Acc) (pred : Option Nat) (l : List Acc) : List Acc :=
  match pred with
  | none => l ++ [a]
  | some p =>
    insertAfter (fun x => x.retry || if l.any (fun y => y.id == p) then x.id == p else x.begun) a l

/-- A later-accepted descriptor of a queue that drains after a fault retires NOT_RUN (R137). -/
def Que.late (u : Que) (a : Acc) : Acc :=
  if u.st == .draining && u.fltDet && a.pre.isNone then { a with notRun := true, deadline := none } else a

/-- Accept a checked descriptor, with the Sundial's decision unless it failed a check; a refusal answers its wait (R162, R414, R415). In a halted queue it has no deadline until the release anchors it at its start (R417). -/
def State.accept (s : State) (n : Log) (q : Qn) (a : Acc) (pred : Option Nat) : State ⊕ Nat :=
  let u := s.que n q
  let a := { a with id := s.nextId }
  let put (s : State) (a : Acc) : State := { (s.modQ n q fun u => { u with acc := insertAcc (u.late a) pred u.acc }) with nextId := s.nextId + 1 }
  if a.pre.isSome || a.subst then .inl (put s a)
  else
    let s := s.charge n q a.d
    let before := (insertAcc a pred u.acc).takeWhile fun x => x.id ≠ a.id
    match s.sunDecide n q a before (u.recNo before.length) with
    | .inl (b, mv) =>
      let t := put s (if u.st == .halted then { b with deadline := none } else b)
      .inl (if mv then t.modQ n q fun u => u.touchF b else t)
    | .inr w => .inr w

/-- A refusal of the Sundial, which has charged the descriptor, counts in SUN_REFUSE (R405, R415). -/
def State.refuse (s : State) (n : Log) (q : Qn) (d : Desc) : State :=
  let t := s.charge n q d
  { t with sun := { t.sun with refuse := satAdd 0xFFFFFFFF t.sun.refuse 1 } }

/-- A substitute record's entry (R122). -/
def substitute (seq member dg cause : Nat) (o : Origin) : Acc :=
  { seq, member, dg, origin := o, bytes := zeros 64, subst := true, tagF := true, pre := some (cause, 0xFFFF) }

/-! ## Starting -/

/-- A fault of the descriptor is detected (R489). -/
def Acc.faulted (a : Acc) : Bool :=
  !a.notRun && (a.pre.isSome || a.subst || a.x.flt.isSome || a.x.linkErr.isSome || a.timedOut
    || (match a.lk with
      | .lost _ | .errRead | .errWrite _ | .poisoned | .region | .operand => true
      | .intent => a.stage == .visible
      | .none | .written _ | .noWrite _ => false)
    || (a.d.isVec && a.x.step3 && (!a.x.badEls.isEmpty || a.x.reads.any (fun r => r.st == .err || r.data.any RWord.psn) || a.x.writes.any fun w => w.st == .err))
    || (a.d.op = 0x30 && (a.x.msgAbort || (match a.verdict with
      | some v => v ≠ 0 && v ≠ 2
      | none => false))))

/-- The head of a queue's start order: the first descriptor that has not started and runs. -/
def Que.head (u : Que) : Option Acc := u.acc.find? fun a => a.stage == .accepted && a.runs

/-- The entries before `id`. -/
def Que.before (u : Que) (id : Nat) : List Acc := u.acc.takeWhile fun a => a.id ≠ id
/-- The entries after `id`. -/
def Que.later (u : Que) (id : Nat) : List Acc := (u.acc.dropWhile fun a => a.id ≠ id).drop 1

/-- Nothing can still enter the queue before an unstarted entry: no chain member that precedes it is being fetched or may still be, and no halt can still place a retry position before it (R119, R491, R502). -/
def Que.placed (u : Que) (a : Acc) : Bool :=
  let rest := u.later a.id
  let pre := u.before a.id
  (u.st ≠ .halted || rest.any Acc.begun) && (a.retry || u.chain.all fun f => rest.any fun y => y.id == f.after)
    && pre.all (fun y => !(y.stage == .accepted && y.runs && y.d.linked && !y.fetched))
    && (u.st ≠ .active || u.cfg.skip || pre.all fun y => y.notRun || (y.stage == .visible && !y.faulted))

/-- Another PARTITION or BEDCLOSE of the logical channel is between started and retired, one to be executed again included (R264, R520). -/
def LCh.parterreBusy (l : LCh) (id : Nat) : Bool := l.qs.toList.any fun u => u.acc.any fun a => a.id ≠ id && a.begun && a.d.isParterre

/-- The descriptor meets the start conditions of R127, R131, R148, R264, R414 and R489, but for its slot. -/
def State.ready (s : State) (n : Log) (q : Qn) (a : Acc) : Bool :=
  let u := s.que n q
  let pre := u.before a.id
  (u.st == .active || u.st == .draining || (u.st == .halted && a.replayed)) && a.have_ && (u.chain.isNone || a.replayed)
    && (!a.d.fence || pre.isEmpty)
    && (!a.d.hold || a.replayed || u.kicks ≥ 1)
    && !(a.d.isParterre && (s.lch[n].parterreBusy a.id || s.combBusy n))
    && (!(u.cfg.res > 0 && a.anchored && !a.isWait && !recordOnly a.d (bedBits s n q a.d)) || u.f ≤ s.aclk)
    && (u.cfg.skip || !(pre.any Acc.faulted))

/-- A promised descriptor uses one of its queue's own slots (R128). -/
def Que.ownFree (u : Que) : Bool := u.cfg.res > 0 && (u.acc.filter fun a => a.stage ≠ .accepted && a.own2).length < 2

/-- Shared slots in use and their number (R128). -/
def LCh.sharedFree (l : LCh) : Bool :=
  let p := (l.qs.toList.filter fun u => u.cfg.valid && u.cfg.res > 0).length
  (l.qs.toList.map fun u => (u.acc.filter fun a => a.stage ≠ .accepted && !a.own2).length).sum < 8 - 2 * p

/-- The class that a decision of the channel uses: within 2 aclk of a write, the old value or the new one (R385; assumption log 2). -/
def State.clsUsed (s : State) (n : Log) (q : Qn) : Nat :=
  match (s.que n q).clsWas with
  | some (old, a) => if s.aclk < a + 2 && Config.oldClass s.free s.linkOut.length then old else (s.que n q).cls
  | none => (s.que n q).cls

/-- The first queue of highest class among candidates, cyclically from `start` (R85, R128). -/
def State.pickQ (s : State) (n : Log) (start : Nat) (ok : Qn → Bool) : Option Qn :=
  let c := ((fins 4).map fun (i : Fin 4) => Fin.ofNat 4 (start + i)).filter ok
  let top := (c.map fun q => s.clsUsed n q).foldl max 0
  c.find? fun q => s.clsUsed n q == top

/-- The queue's head can start on a shared slot. -/
def State.wantsShared (s : State) (n : Log) (q : Qn) : Bool :=
  match (s.que n q).head with
  | some a => s.ready n q a && !(s.que n q).ownFree
  | none => false

/-- The slot that the head of `q` starts on: its own (true) or a shared one that it wins (R128). -/
def State.slotFor (s : State) (n : Log) (q : Qn) : Option Bool :=
  if (s.que n q).ownFree then some true
  else if s.lch[n].sharedFree && s.pickQ n s.lch[n].rrSlot (s.wantsShared n) == some q then some false
  else none

end Sys2Proof.Machine
end

