-- ==== Sys2Proof/Machine/Parterre.lean ====
section
/-! DEFINITION. The Parterre (R262 to R298): placing rows, the writes of PARTITION and BEDCLOSE, and the bed set that each leaves. -/

namespace Sys2Proof.Machine

/-- The chunk address (R267). -/
def Bed.chunk (b : Bed) (i : Nat) : Nat := b.base + 65536 * i

/-- The chunks in the order in which beds take them: the reserve, then each batch that was taken (R265, R269). -/
def Bed.chunkSeq (b : Bed) : List Nat := b.reserve ++ (b.takes.filter fun t => t.out == .taken).flatMap Take.ids

/-- A trailer (R267). -/
def trailer (next used bid bed : Nat) : List Byte :=
  leBytes 4 next ++ leBytes 4 used ++ leBytes 2 bid ++ leBytes 1 bed ++ zeros 53

/-- A 64-byte write of bytes from `pos` in one word, for row `i`. -/
def wordOf (pos : Nat) (bs : List (Byte × Bool)) (i : Nat) : List Cell :=
  bs.zipIdx.map fun (b, k) => ⟨pos + k, b.1, b.2, i, true⟩

/-- The write of a word. -/
def wordPlan (cs : List Cell) : WPlan := ⟨((cs.head?.map Cell.pos).getD 0) / 64 * 64, 64, cs⟩

/-- Where the placing of rows stands: cursors, open slots, complete writes, and the chunks that beds took (bed, chunk, row). -/
structure PEv where
  cur : List Cur
  slots : List (List Cell)
  out : List WPlan := []
  took : List (Nat × Nat × Nat) := []
  n : Nat := 0
  placed : Nat := 0
  need : Bool := false
  gap : Bool := false
  why : Why := .more
deriving DecidableEq, Repr

/-- The bed of a key (R277). -/
def bedOf (d : Desc) (k : Nat) : Nat :=
  if bit (d.b 34) 0 then (k * field d 40 8) % 2 ^ 64 / 2 ^ (64 - d.b 35) else k / 2 ^ d.b 36 % 2 ^ d.b 35

/-- A row's tuple: it waits, ends the input, fails, is lost at a gap, or is key, key poison and tuple (R276, R285, R286). -/
def rowTuple (d : Desc) (x : Exec) (i : Nat) : Except ItemR (Option (Nat × List (Byte × Bool))) :=
  let key := if d.tupleIn then elemIn (sideByte x d.src 0) (i * d.tw) d.w else elemIn (fun k => hostByte x 0 (d.src + k)) (i * d.w) d.w
  let pay := if d.tupleIn then elemIn (sideByte x d.src 0) (i * d.tw + d.w) d.wp else elemIn (fun k => hostByte x 2 (d.a24 + k)) (i * d.wp) d.wp
  let whole := if d.tupleIn && isLink d.src then elemIn (sideByte x d.src 0) (i * d.tw) d.tw else .ok []
  match whole, key, pay with
  | .error .gap, _, _ => .ok none
  | .ok _, .error .gap, _ | .ok _, .ok _, .error .gap => .ok none
  | .error e, _, _ => .error (inItem e)
  | .ok _, .error e, _ => .error (inItem e)
  | .ok _, .ok _, .error e => .error (inItem e)
  | .ok _, .ok k, .ok p =>
    if k.any Prod.snd then .error (.fail 5 1)
    else .ok (some (leVal (k.map Prod.fst), k ++ p ++ List.replicate (d.tw - d.w - d.wp) (0#8, false)))

/-- Give bed `b` its next chunk for row `i`, when one is at hand (R279). -/
def PEv.take (e : PEv) (seq : List Nat) (b i : Nat) : Option (Nat × PEv) :=
  match seq[e.took.length]? with
  | some c => some (c, { e with took := e.took ++ [(b, c, i)] })
  | none => none

/-- Append a tuple to bed `b` (R278, R280). -/
def PEv.append (e : PEv) (bed : Bed) (tw b i : Nat) (t : List (Byte × Bool)) : PEv :=
  let c := e.cur.getD b {}
  let cs := e.slots.getD b [] ++ wordOf (bed.chunk (c.tail.getD 0) + c.fill) t i
  let full := (c.fill + tw) % 64 = 0
  { e with
    cur := e.cur.set b { c with fill := c.fill + tw, rows := c.rows + 1 }
    slots := e.slots.set b (if full then [] else cs)
    out := if full then e.out ++ [wordPlan cs] else e.out
    placed := e.placed + 1 }

/-- Place row `i` in bed `b`; none while it needs a chunk (R279). A bed without rows that holds a chunk which a fault left it takes that one first (R287; DESIGN CHOICE, log 30). -/
def PEv.place (e : PEv) (bed : Bed) (tw : Nat) (seq : List Nat) (b i : Nat) (t : List (Byte × Bool)) : Option PEv :=
  let c := e.cur.getD b {}
  match c.tail with
  | none =>
    let first (x : Nat) (e : PEv) : PEv :=
      ({ e with cur := e.cur.set b { c with head := some x, tail := some x, next := none, fill := 0 } } : PEv).append bed tw b i t
    match c.next with
    | some x => some (first x e)
    | none => (e.take seq b i).map fun (x, e) => first x e
  | some tl =>
    if c.fill = 65472 then
      let move (x : Nat) (e : PEv) : PEv :=
        ({ e with
            cur := e.cur.set b { c with tail := some x, next := none, fill := 0 }
            out := e.out ++ [wordPlan (wordOf (bed.chunk tl + 65472) ((trailer x 65472 bed.bid b).map fun v => (v, false)) i)] } : PEv).append bed tw b i t
      match c.next with
      | some x => some (move x e)
      | none => (e.take seq b i).map fun (x, e) => move x e
    else some (e.append bed tw b i t)

/-- Rows in order until one waits or ends the descriptor; rows below `lo` are read and not placed (R278, R497). Requests of REQ_QUEUE pace the rows by their tuple bytes (R101, R103). -/
def partGo (d : Desc) (x : Exec) (bed : Bed) (seq : List Nat) (lo : Nat) (lim : Option Flt) : Nat → PEv → PEv
  | 0, e => if e.n ≥ d.len then { e with why := .done } else e
  | fuel + 1, e =>
    if lim.any fun f => f.idx ≤ e.n then { e with why := .fault (lim.getD ⟨0, 0, 0⟩) }
    else if e.n ≥ d.len then { e with why := .done }
    else if x.endAt.any fun m => m ≤ e.placed * d.tw then { e with why := .short }
    else if x.allow.any fun l => l.getLast?.getD 0 < (e.placed + 1) * d.tw then e
    else match rowTuple d x e.n with
      | .error .pend => e
      | .error .short | .error (.lost _) | .error (.out _ _ _ _ _) => { e with why := .short }
      | .error (.fail c t) => { e with why := .fault ⟨e.n, c, t⟩ }
      | .ok none => partGo d x bed seq lo lim fuel { e with n := e.n + 1, gap := true }
      | .ok (some (k, t)) =>
        if e.n < lo then partGo d x bed seq lo lim fuel { e with n := e.n + 1 }
        else match e.place bed d.tw seq (bedOf d k) e.n t with
          | some e' => partGo d x bed seq lo lim fuel { e' with n := e.n + 1 }
          | none => { e with need := true }

/-- The placing of a PARTITION's rows from the bed set that stood at its start; none before the pool header is known, also in a replay with journaled takes (R283, R297, R298). -/
def partEvalTo (a : Acc) (bed : Bed) (lim : Option Flt) : PEv :=
  let e : PEv := { cur := bed.cur, slots := List.replicate bed.cur.length [] }
  if !bed.opened then match lim.filter fun f => f.idx = 0 with
    | some f => { e with why := .fault f }
    | none => e
  else partGo a.d a.x bed bed.chunkSeq a.rows0 lim (a.d.len + 1) e

/-- The placing as far as the input determines it. -/
def partEval (a : Acc) (bed : Bed) : PEv := partEvalTo a bed a.x.iflt

/-- The writes of a PARTITION in order: full words and trailers, then the words left open when no more rows come (R280). -/
def partWrites (a : Acc) (bed : Bed) : List WPlan :=
  let e := partEval a bed
  e.out ++ (if e.why = .more then [] else (e.slots.filter fun c => !c.isEmpty).map wordPlan)

/-- The lowest row whose tuple is written with poison: a poisoned byte poisons its whole beat, and so every tuple of the word (R175, R289). -/
def partPsn (a : Acc) (bed : Bed) : Option Nat :=
  lowest (((partWrites a bed).filter fun w => w.cells.any Cell.psn).flatMap fun w => w.cells.map Cell.idx)

/-- The reserve that remains (R265). -/
def partReserve (a : Acc) (bed : Bed) : Nat := bed.chunkSeq.length - (partEval a bed).took.length

/-- The bed set after a PARTITION retires (R278, R287, R296). -/
def partCommit (a : Acc) (bed : Bed) : Bed :=
  let full := partEval a bed
  let e := match a.x.flt with
    | some f => partEvalTo a bed (some f)
    | none => full
  let cur := e.cur.zipIdx.map fun (c, b) => match full.took.find? fun t => t.1 == b && t.2.2 ≥ e.n with
    | some t => if c.next.isNone then { c with next := some t.2.1 } else c
    | none => c
  { bed with
    cur
    reserve := bed.chunkSeq.drop full.took.length
    rows := bed.rows + e.placed
    chunks := bed.chunks + full.took.length
    opener := none, takes := [] }

/-- The PAD writes and last trailers of a BEDCLOSE (R292, steps 1 and 2). -/
def closeWrites1 (d : Desc) (b : Bed) : List WPlan :=
  (b.cur.filter fun c => c.fill % 64 ≠ 0).map (fun c =>
    let p := b.chunk (c.tail.getD 0) + c.fill
    wordPlan (wordOf p (List.replicate (64 - c.fill % 64) (d.getD 24 0#8, false)) 0))
  ++ ((b.cur.zipIdx.filter fun (c, _) => c.rows > 0).map fun (c, i) =>
    wordPlan (wordOf (b.chunk (c.tail.getD 0) + 65472) ((trailer 0xFFFFFFFF c.fill b.bid i).map fun v => (v, false)) 0))

/-- The tuple width of the open bed set. -/
def Bed.tw (b : Bed) : Nat := tupleW (wOf b.key + (if b.pay = 7 then 0 else wOf b.pay))

/-- The directory (R293). -/
def directory (b : Bed) : List Byte :=
  let ix (o : Option Nat) : List Byte := leBytes 4 (o.getD 0xFFFFFFFF)
  leBytes 2 b.bid ++ leBytes 1 b.bits ++ leBytes 1 b.tw ++ leBytes 1 b.pmode ++ leBytes 1 b.rshift ++ leBytes 1 b.reserve.length ++ leBytes 1 0
    ++ leBytes 8 b.rows ++ leBytes 4 b.chunks ++ leBytes 4 0 ++ leBytes 8 b.dst ++ leBytes 8 b.mult ++ zeros 24
    ++ ((List.range 32).flatMap fun i => leBytes 4 (b.reserve.getD i 0xFFFFFFFF))
    ++ b.cur.flatMap fun c => ix c.head ++ ix c.tail ++ leBytes 8 c.rows ++ leBytes 8 (c.rows * b.tw)
        ++ leBytes 4 (ceilDiv (c.rows * b.tw) 65472) ++ ix c.next

/-- The directory writes (R292, step 3). -/
def closeWrites2 (d : Desc) (b : Bed) : List WPlan :=
  let bs := directory b
  (rangeTx d.dst bs.length).map fun (a, n) =>
    ⟨a, n, (bs.zipIdx.map fun (v, k) => (⟨d.dst + k, v, false, 0, true⟩ : Cell)).filter fun c => a ≤ c.pos && c.pos < a + n⟩

/-- The writes of a BEDCLOSE: the directory follows once the others are visible (R292). -/
def closeWrites (a : Acc) (b : Bed) : List WPlan :=
  let w1 := closeWrites1 a.d b
  w1 ++ (if a.x.writes.length ≥ w1.length && (a.x.writes.take w1.length).all fun w => w.st == .ok then closeWrites2 a.d b else [])

/-- The bed set that a PARTITION with OPEN creates (R283). -/
def openBed (q : Qn) (d : Desc) (id : Nat) : Bed :=
  { q, opener := some id, dst := d.dst, key := d.b 32, pay := d.b 33, pmode := d.b 34, bits := d.b 35, rshift := d.b 36, mult := field d 40 8
    bid := field d 56 2, tuple := d.tupleIn, cur := List.replicate (2 ^ d.b 35) {} }

/-- The offset of the first parameter that differs from the open bed set's (R283, check 3). -/
def bedDiff (d : Desc) (b : Bed) : Option Nat :=
  (([(16, d.dst == b.dst), (32, d.b 32 == b.key), (33, d.b 33 == b.pay), (34, d.b 34 == b.pmode), (35, d.b 35 == b.bits),
    (36, d.b 36 == b.rshift), (37, d.tupleIn == b.tuple), (40, field d 40 8 == b.mult), (56, field d 56 2 == b.bid)] :
      List (Nat × Bool)).find? fun x => !x.2).map Prod.fst

/-- The PARTITION opens a bed set; a retry continues the one that its halted execution opened (R283, R497). -/
def Acc.opens (a : Acc) : Bool := bit (a.d.b 37) 0 && !a.reopen

/-- The check of a PARTITION or BEDCLOSE at its start: the DETAIL of a failure (R283, R291). -/
def startFail (q : Qn) (a : Acc) (bed : Option Bed) : Option Nat :=
  let d := a.d
  if d.op = 0x28 then
    if a.opens then if bed.isSome then some 37 else none
    else match bed with
      | some b => if b.q ≠ q then some 37 else bedDiff d b
      | none => some 37
  else match bed with
    | some b => if b.closedBy q d then none else some 56
    | none => some 56

/-- A pool header read (R266, R269): POOL_BASE, POOL_CHUNKS, TOP, VER, STACK_BASE. -/
structure Pool where
  base : Nat
  chunks : Nat
  top : Nat
  ver : Nat
  stack : Nat
deriving DecidableEq, Repr

/-- The fields of a pool header. -/
def poolOf (h : List Byte) : Pool := ⟨field h 0 8, field h 8 4, field h 12 4, field h 16 8, field h 24 8⟩

/-- The batch size of a take (R269). -/
def Pool.batch (p : Pool) : Nat := min 16 p.top

/-- The header agrees with the one read at open (R269). -/
def Pool.fits (p : Pool) (b : Bed) : Bool :=
  !(b.opened && (p.base ≠ b.base || p.chunks ≠ b.pchunks || p.stack ≠ b.stack)) && p.top ≤ p.chunks

/-- The entries of a batch, entry TOP - 1 first (R269). -/
def stackIds (n : Nat) (bs : List Byte) : List Nat := ((List.range n).map fun i => field bs (4 * i) 4).reverse

end Sys2Proof.Machine
end

