-- ==== Sys2Proof/Machine/Vector.lean ====
section
/-! DEFINITION. Vector groups (R232 to R249): inputs, the element checks of phase 2, the transactions of phase 3, their outcome and the group frame. -/

namespace Sys2Proof.Machine

/-- Byte `k` of the payload of the CMD that carried a descriptor. -/
def payByte (a : Acc) (k : Nat) : In := (linBytes a.payload).getD k .past

/-- The offset of the values in the payload (R233). -/
def vecValOff (d : Desc) : Nat := if isLink d.a24 then 16 * d.idw else 0

/-- Byte `k` of the row IDs (R232, R234). -/
def vecIdByte (a : Acc) (k : Nat) : In := if isLink a.d.a24 then payByte a k else hostByte a.x 1 (a.d.a24 + k)
/-- Byte `k` of the values of a VSCATTER. -/
def vecValByte (a : Acc) (k : Nat) : In := if isLink a.d.src then payByte a (vecValOff a.d + k) else hostByte a.x 2 (a.d.src + k)

/-- The column base (R234). -/
def vecCol (d : Desc) : Nat := if d.op = 0x19 then d.dst else d.src

/-- An element's input: row ID, value bytes, whether a word of either carries poison, and whether its staging position has a parity error (R238). -/
structure VEl where
  id : Nat
  val : List (Byte × Bool)
  psn : Bool
  par : Bool
  tag : Bool
deriving DecidableEq, Repr

/-- Element `i`, once its input is in hand (phase 1 of R236). -/
def vecEl (a : Acc) (i : Nat) : Except In VEl :=
  match elemIn (vecIdByte a) (i * a.d.idw) a.d.idw with
  | .error e => .error e
  | .ok l =>
    let id := leVal (l.map Prod.fst)
    let par := a.x.badEls.contains i
    if a.d.op = 0x19 then match elemIn (vecValByte a) (i * a.d.w) a.d.w with
      | .error e => .error e
      | .ok v => .ok ⟨id, v, l.any Prod.snd || v.any Prod.snd, par, l.any Prod.snd⟩
    else .ok ⟨id, [], l.any Prod.snd, par, l.any Prod.snd⟩

/-- All 16 elements, or the input that is not there. -/
def vecEls (a : Acc) : Except In (List VEl) :=
  (List.range 16).foldl (fun acc i => match acc with
    | .error e => .error e
    | .ok l => match vecEl a i with
      | .error e => .error e
      | .ok v => .ok (l ++ [v])) (.ok [])

/-- The elements of a group whose input is in hand. -/
def vecGot (a : Acc) : List VEl := match vecEls a with
  | .ok l => l
  | .error _ => []

/-- The address of an element. -/
def vecAddr (d : Desc) (e : VEl) : Nat := vecCol d + e.id * d.w

/-- The entries of a group: index and row ID. -/
def vecIds (a : Acc) : List (Nat × Nat) := (vecGot a).zipIdx.map fun (e, i) => (i, e.id)

/-- The failure of element `i` in phase 2 (R236, R239): ECAUSE and FAULT_VALUE. `ok` is the region check of a block. R236 does not name the phase in which a parity error of a staged row ID or value counts (R238): phase 2, after its other causes, so that no element transaction is issued (DESIGN CHOICE, log 62). -/
def vecCheck (a : Acc) (ok : Nat → Bool) (e : VEl) : Option (Nat × Nat) :=
  if e.id ≥ a.d.idLimit then some (1, e.id)
  else if !ok (vecAddr a.d e / 256) then some (2, vecAddr a.d e)
  else if e.psn then some (4, vecAddr a.d e)
  else if e.par then some (5, vecAddr a.d e)
  else none

/-- The first failing element of a list of outcomes. -/
def firstFail (l : List (Option (Nat × Nat))) : Option Flt :=
  match (l.zipIdx.find? fun x => x.1.isSome) with
  | some (some (c, v), i) => some ⟨i, c, v⟩
  | _ => none

/-- The lowest element that fails in phase 2, with its ECAUSE and FAULT_VALUE. -/
def vecFail2 (a : Acc) (ok : Nat → Bool) : Option Flt := firstFail ((vecGot a).map (vecCheck a ok))

/-- The element reads of a VGATHER (R237). -/
def vecReads (a : Acc) : List RPlan := (columnTx (vecCol a.d) a.d.w (vecIds a)).map fun (x, n, es) => ⟨3, x, n, es.headD 0⟩

/-- The element writes of a VSCATTER (R237). -/
def vecWrites (a : Acc) : List WPlan :=
  coverWrites ((vecGot a).zipIdx.flatMap fun (e, i) => e.val.zipIdx.map fun (b, j) => ⟨vecAddr a.d e + j, b.1, b.2, i, true⟩)

/-- The failure of element `i` in phase 3 (R238, R239). -/
def vecDone (a : Acc) (e : VEl) (i : Nat) : Option (Nat × Nat) :=
  let ad := vecAddr a.d e
  if a.d.op = 0x19 then
    if a.x.badEls.contains i then some (5, ad)
    else if a.x.writes.any fun w => w.st == .err && w.addr / 256 == ad / 256 then some (3, ad) else none
  else match a.x.reads.find? fun r => r.has 3 ad with
    | some r => if r.data.any RWord.psn then some (4, ad) else if r.st == .err then some (3, ad) else if a.x.badEls.contains i then some (5, ad) else none
    | none => none

/-- The lowest element that fails in phase 3. -/
def vecFail3 (a : Acc) : Option Flt := firstFail ((vecGot a).zipIdx.map fun (e, i) => vecDone a e i)

/-- DONE_MASK (R240). -/
def doneMask (a : Acc) : Nat :=
  if a.d.op ≠ 0x19 || !a.x.step3 then 0
  else ((vecGot a).zipIdx.map fun (e, i) =>
    if a.x.writes.any fun w => w.st == .ok && w.addr / 256 == vecAddr a.d e / 256 then 2 ^ i else 0).sum

/-- Bits set in a 16-bit value. -/
def popCount (m : Nat) : Nat := ((List.range 16).filter m.testBit).length

/-- The elements of an OK VGATHER (R242). -/
def vecData (a : Acc) : List Byte :=
  (vecGot a).flatMap fun e => (List.range a.d.w).map fun j => match hostByte a.x 3 (vecAddr a.d e + j) with
    | .ok b _ => b
    | _ => 0#8

/-- FAULT_VALUE comes from a row ID that is poisoned or whose staging word has a parity error (R239, R487). -/
def faultPsn (a : Acc) : Bool := !a.x.step3 && a.x.iflt.any fun f => f.cause ≠ 0 && ((vecGot a)[f.idx]?).any fun e => e.tag || e.par

/-- The group frame (R242): the status, CAUSE and DETAIL of the record, and the element outcome. -/
def groupFrame (a : Acc) (status cause detail : Nat) : List Byte :=
  let e := match a.x.iflt with
    | some f => (f.cause, f.detail)
    | none => (0, 0)
  leBytes 1 status ++ leBytes 1 cause ++ leBytes 1 e.1 ++ leBytes 1 0 ++ leBytes 2 detail ++ leBytes 2 (doneMask a) ++ leBytes 8 e.2
    ++ (if a.d.op = 0x18 && status = 0 then vecData a else [])

/-- The descriptor sends a group frame (R242, R244). R244 does not speak of a group that fails check 2 of R161, which is tested before check 3: it sends a frame, its opcode byte being a vector group's (DESIGN CHOICE, log 62). -/
def Acc.frames (a : Acc) : Bool :=
  a.d.isVec && !(a.d.op == 0x19 && bit (a.d.b 34) 0) && !a.subst && !a.tagF

end Sys2Proof.Machine
end

