-- ==== Sys2Proof/Machine/Pump.lean ====
section
/-! DEFINITION. The data path of a channel's started descriptors: the reads and writes they still want, the words they take from the host-in and link FIFOs, the faults they detect, and when they are executed and visible (R125, R174 to R190, R210, R236, R308 to R325, R478). -/

namespace Sys2Proof.Machine

/-! ## What a started descriptor wants -/

/-- The message bytes of a DIGEST and how its message would end: the DETAIL of R478 stands in the fault's detail. -/
def digestItem (d : Desc) (x : Exec) (k : Nat) (_ : Ev) : ItemR :=
  match sideByte x d.src 0 k with
  | .ok b p => if p then .fail 9 3 else .out [(k, b, false)] false false false true
  | .fail c _ => .fail 9 (if c = 1 then 4 else if c = 2 then 5 else 2)
  | .gap => .fail 9 2
  | .past => .fail 9 1
  | .pend => .pend

/-- The message bytes of a DIGEST that are in hand. -/
def digestEval (a : Acc) : Ev := evalGo (digestItem a.d a.x) a.d.len none (a.d.len + 1) {}

/-- The evaluation of a stream operation or a DIGEST. -/
def Acc.ev (a : Acc) : Ev := if a.d.op = 0x30 then digestEval a else evalOut a.d a.x

/-- The reads of a started descriptor in the order of issue. -/
def readsOf (a : Acc) : List RPlan :=
  let d := a.d
  if d.isVec then
    (if isLink d.a24 then [] else planRange 1 (d.a24 % 2 ^ 52) (16 * d.idw) fun _ => 0)
      ++ (if d.op = 0x19 && !isLink d.src then planRange 2 d.src (16 * d.w) fun _ => 0 else [])
      ++ (if d.op = 0x18 && a.x.step3 then vecReads a else [])
  else match d.op with
    | 0x28 =>
      if d.tupleIn then if isLink d.src then [] else planRange 0 d.src (d.len * d.tw) (· / d.tw)
      else merged (planRange 0 d.src (d.len * d.w) (· / d.w)) (planRange 2 d.a24 (d.len * d.wp) (· / d.wp))
    | 0x30 =>
      (if d.b 32 = 0 || isLink d.a24 then [] else planRange 1 (d.a24 % 2 ^ 52) (d.b 32) fun _ => 0)
        ++ (if isLink d.src then [] else planRange 0 d.src d.len id)
    | _ => if d.isStream then readPlan d a.x else []

/-- The writes of a started descriptor in the order of issue. -/
def writesOf (a : Acc) (bed : Option Bed) : List WPlan :=
  let d := a.d
  match d.op with
  | 0x19 => if a.x.step3 then vecWrites a else []
  | 0x28 => match bed with
    | some b => partWrites a b
    | none => []
  | 0x29 => match bed with
    | some b => closeWrites a b
    | none => []
  | _ => if d.isStream then writePlan d a.x else []

/-- The bytes of a write that lie below the lowest fault (R179, R223, R287). -/
def Acc.below (a : Acc) (cs : List Cell) : List Cell :=
  if a.d.isVec then cs else match a.x.flt with
    | some f => cs.filter fun c => c.idx < f.idx
    | none => cs

/-- A read lands in the host-in FIFO (R308, R346). -/
def hostIn (d : Desc) (stream : Nat) : Bool := !d.isVec && stream < 3

/-- A fault is found at an element: the lowest counts (R179, R223). -/
def Flt.min (o : Option Flt) (f : Flt) : Option Flt :=
  match o with
  | none => some f
  | some g => if f.idx < g.idx then some f else some g

/-- A fault of the input side. -/
def Exec.inFault (x : Exec) (f : Flt) : Exec := { x with iflt := Flt.min x.iflt f, flt := Flt.min x.flt f }

/-- The number of rows or bytes evaluated so far. -/
def Acc.evN (a : Acc) (bed : Option Bed) : Nat :=
  if a.d.op = 0x28 then match bed with
    | some b => (partEval a b).n
    | none => 0
  else a.ev.n

/-- A fault of the output side: no more input is taken (R179). -/
def Acc.outFault (a : Acc) (bed : Option Bed) (f : Flt) : Acc :=
  let k := max (a.evN bed) f.idx
  { a with x := { a.x with flt := Flt.min a.x.flt f, iflt := Flt.min a.x.iflt { f with idx := k } } }

/-! ## Room -/

/-- The output places that the writes issued so far cover, dropped ones included. -/
def issuedBytes (a : Acc) (bed : Option Bed) : Nat := (((writesOf a bed).take a.x.wi).map fun w => w.cells.length).sum

/-- The descriptor's destination words leave from the host-out FIFO: not those of a vector group, of the Parterre (from the combining slots), and of a LOCKED (R308). -/
def Desc.viaHout (d : Desc) : Bool := !d.isVec && !d.isParterre && d.op ≠ 0x31

/-- The words that posted writes hold in a queue's host-out FIFO (R309). -/
def Que.houtHeld (u : Que) : Nat := (u.hout.map HOut.words).sum

/-- The 64-byte words that hold a written byte of a run of output, in order (R305, R308). -/
def runWords (r : List Cell) : List Nat := columnTx.distinct ((enabled r).map fun c => c.pos / 64)

/-- The runs of output of a started stream operation that no write has taken yet (R174, R308). The values of a SCATTER stand in the reorder area instead. -/
def Acc.formed (a : Acc) (bed : Option Bed) : List (List Cell) :=
  if a.stage == .started && a.runs && a.d.viaHout && a.d.isStream && a.d.hostOut && a.d.op ≠ 0x13 then
    Machine.runs (fun c => c.pos / 256) (a.ev.cells.drop (issuedBytes a bed))
  else []

/-- The words of a descriptor's output that no write has taken yet (R308, R309). -/
def Acc.formedWords (a : Acc) (bed : Option Bed) : Nat := ((a.formed bed).map fun r => (runWords r).length).sum

/-- How many output places of runs fit in `room` words (R309). -/
def fitCells : Nat → List (List Cell) → Nat
  | _, [] => 0
  | room, r :: rs =>
    let ws := runWords r
    let k := (r.takeWhile fun c => !c.en || (ws.take room).contains (c.pos / 64)).length
    if k = r.length then k + fitCells (room - ws.length) rs else k

/-- The words that the host-out FIFO has for the output of `a` (R305, R309): 32 for the queue, less what posted writes and other descriptors hold. A descriptor behind another with host output leaves that one 8 words, so that no queue waits for itself (DESIGN CHOICE, log 25). -/
def Que.houtRoom (u : Que) (a : Acc) (bed : Option Bed) : Nat :=
  let behind := (u.before a.id).any fun y => y.stage == .started && y.runs && y.d.isStream && y.d.hostOut
  (if behind then 24 else 32) - (u.houtHeld + ((u.acc.filter fun y => y.id ≠ a.id).map fun y => y.formedWords bed).sum)

/-- The output places that have left, or have room beyond the operation unit: in the host-out FIFO, or as one DELIVER behind what was lost (R305, R308, R309, R707). -/
def Que.outPlaces (u : Que) (a : Acc) (bed : Option Bed) (dm : Nat) : Nat :=
  if a.d.linkOut then match (enabled a.ev.cells).find? fun c => c.pos ≥ a.x.outSent with
    | some c => max a.x.outSent (c.pos / 64 * 64) + dm
    | none => a.ev.outLen + dm
  else issuedBytes a bed + fitCells (u.houtRoom a bed) (a.formed bed)

/-- The last entry whose value is in hand, for a SCATTER, counted from 1 (R225). -/
def Acc.valuesIn (a : Acc) : Nat :=
  let d := a.d
  ((if isLink d.src then linLen a.x.lin else ((a.x.reads.filter fun r => r.stream == 0 && r.st == .taken).map fun r => r.addr + r.size - max r.addr d.src).sum) + d.w - 1) / d.w

/-- The windows that a GATHER or SCATTER has begun: those checked, and those of which a SCATTER has taken a value (R225). -/
def Acc.begunWindows (a : Acc) : Nat := if a.d.op = 0x13 then max a.x.chk (ceilDiv (min a.d.len a.valuesIn) 256) else a.x.chk

/-- The window buffers that a GATHER or SCATTER has emptied: a GATHER's once its elements have room in the output, a SCATTER's once the window's writes are posted; all that lie behind the end of its input (R214, R219, R225). -/
def Que.freed (u : Que) (a : Acc) (bed : Option Bed) (dm : Nat) : Nat :=
  let d := a.d
  let e := a.ev
  if d.op = 0x12 then
    let k := min e.n (u.outPlaces a bed dm / d.w)
    if k ≥ e.n && e.why ≠ .more then a.begunWindows else k / 256
  else
    let ws := writesOf a bed
    (List.range a.begunWindows).countP fun k =>
      let mine (w : WPlan) : Bool := w.cells.any fun c => c.idx / 256 == k
      (ws.take a.x.wi).countP mine ≥ ws.countP mine && (e.why ≠ .more || e.n ≥ min d.len (256 * (k + 1)))

/-- A window buffer of the operation in units of 16 KiB halves: W of 64 bytes takes the whole reorder area (R225). -/
def Desc.bufs (d : Desc) : Nat := if d.w = 64 then 2 else 1

/-- The window buffers that a GATHER or SCATTER holds, in halves of the reorder area (R214, R225, R226). -/
def Que.windows (u : Que) (a : Acc) (bed : Option Bed) (dm : Nat) : Nat :=
  if a.stage ≠ .started || !(a.d.op = 0x12 || a.d.op = 0x13) then 0 else a.d.bufs * (a.begunWindows - u.freed a bed dm)

/-- The window buffers that the other descriptors of a queue leave to `a`. -/
def Que.bufRoom (u : Que) (a : Acc) (bed : Option Bed) (dm : Nat) : Nat :=
  (2 - ((u.acc.filter fun y => y.id ≠ a.id).map fun y => u.windows y bed dm).sum) / a.d.bufs

/-- Every earlier GATHER or SCATTER of the queue has taken the window buffers that it needs: its input has ended, or every window is checked (R219, R226). -/
def Que.windowTurn (u : Que) (a : Acc) : Bool :=
  (u.before a.id).all fun y => !(y.d.op = 0x12 || y.d.op = 0x13) || !y.runs || y.ev.why ≠ .more || 256 * y.x.chk ≥ serveEnd y.d y.x

/-- The row IDs of the window to be checked next, and of all before it, are in hand: the coalescer's registers take no more (R226). -/
def Acc.listFull (a : Acc) : Bool :=
  match rowId a.d a.x (min a.d.len (256 * (a.x.chk + 1)) - 1) with
  | .error .pend => false
  | _ => true

/-- The values of a SCATTER fill the window buffers that it may hold: those that it has emptied and those that are free, once its turn has come (R225, R226). -/
def Que.valuesFull (u : Que) (a : Acc) (bed : Option Bed) (dm : Nat) : Bool :=
  let j := min a.d.len (256 * (u.freed a bed dm + (if u.windowTurn a then u.bufRoom a bed dm else 0)))
  j = 0 || (match elemIn (sideByte a.x a.d.src 0) ((j - 1) * a.d.w) a.d.w with
    | .error .pend => false
    | _ => true)

/-! ## Taking words -/

/-- The consumer has no room for the next word of its input (R225, R305, R308, R309); one whose output has come to its end takes and discards. `list`: the word is of a row-ID list. -/
def Que.stalled (u : Que) (a : Acc) (bed : Option Bed) (dm : Nat) (list : Bool) : Bool :=
  let d := a.d
  if a.x.flt.isSome || a.x.linkErr.isSome || a.x.msgAbort then false
  else if d.op = 0x30 then a.ev.outLen ≥ a.x.outSent + dm
  else if d.op = 0x28 then (writesOf a bed).length ≥ a.x.wi + 32
  else if !d.isStream || a.ev.why == .short then false
  else if d.op = 0x12 then a.listFull
  else if d.op = 0x13 then if list then a.listFull else u.valuesFull a bed dm
  else if d.linkOut then a.ev.outLen ≥ u.outPlaces a bed dm
  else a.formedWords bed ≥ u.houtRoom a bed

/-- Update the entry of a queue with serial `id`. -/
def Que.modA (u : Que) (id : Nat) (f : Acc → Acc) : Que := { u with acc := updFirst (fun a => a.id == id) f u.acc }

/-- The consumer takes the words at the head of the host-in FIFO while it has room for their output (R309, R313). -/
def takeHost (dm : Nat) (bed : Option Bed) : Nat → Que → Que
  | 0, u => u
  | fuel + 1, u =>
    match u.hin with
    | [] => u
    | (id, k) :: rest =>
      match u.acc.find? fun a => a.id == id with
      | none => takeHost dm bed fuel { u with hin := rest }
      | some a =>
        match a.x.reads[k]? with
        | some r =>
          if r.st == .landed && !u.stalled a bed dm (r.stream == 1) then
            takeHost dm bed fuel (({ u with hin := rest, hinR := u.hinR + r.size / 64 } : Que).modA id fun a =>
              { a with x := { a.x with
                  reads := updAt k (fun r => { r with st := .taken }) a.x.reads
                  psnSeen := a.x.psnSeen || r.data.any RWord.psn } })
          else u
        | none => u

/-- The rest of the packet that carried the last declared byte is excess, counted in bytes; a marker in it stays (R186, R189). -/
def dropPacket : List LEnt → List LEnt × Nat
  | [] => ([], 0)
  | .word bs _ :: l => let r := dropPacket l; (r.1, r.2 + bs.length)
  | .gap n b m :: l => let r := dropPacket l; (.gap n b m :: r.1, r.2)
  | .eop _ :: l => (l, 0)
  | .last :: l => let r := dropPacket l; (.last :: r.1, r.2)

/-- What remains of a marker's `n` words after `k` (R189). -/
def gapRest (n k : Nat) (b : Bool) (m : Nat) : List LEnt := if n > k then [.gap (n - k) b m] else []

/-- A gap marker stands among entries taken. -/
def gapIn (e : List LEnt) : Bool := e.any fun y => match y with
  | .gap _ _ _ => true
  | .word _ _ | .eop _ | .last => false

/-- One entry of the link FIFO goes to the descriptor `a`, whose input lacks `rem` bytes (R186 to R189). R189 does not speak of data words that follow, in the same packet, a marker that reaches LENGTH: they are excess, and what remains of the marker stays for the next descriptor (DESIGN CHOICE, log 62). The end of a packet or a LAST brings no DELIVER data by itself (R104). -/
def feedOne (u : Que) (a : Acc) (rem : Nat) : Que :=
  let put (u : Que) (l : List LEnt) (e : List LEnt) (fin : Bool) (exc : Nat) (p : Bool) : Que :=
    ({ u with link := l } : Que).modA a.id fun a => { a with dataIn := a.dataIn || !e.isEmpty, x := { a.x with
        lin := a.x.lin ++ e, linEnd := fin, excess := a.x.excess + exc, psnSeen := a.x.psnSeen || p, gapSeen := a.x.gapSeen || gapIn e } }
  match u.link with
  | [] => u
  | .word bs p :: l =>
    if bs.length < rem then put u l [.word bs p] false 0 p
    else
      let (l', exc) := dropPacket l
      put u l' [.word (bs.take rem) p] true (bs.length - rem + exc) p
  | .gap n b m :: l =>
    if 64 * n < rem then put u l [.gap n b m] false 0 false
    else
      let k := ceilDiv rem 64
      let (l', exc) := dropPacket l
      put u (gapRest n k b m ++ l') [.gap k b m] true exc false
  | .eop f :: l => put u l [] f 0 false
  | .last :: l => put u l [] true 0 false

/-- The input of a faulted, retired descriptor is taken and discarded (R706). -/
def dropOne (u : Que) (rem : Nat) (rest : List Nat) : Que :=
  match u.link with
  | [] => u
  | .word bs _ :: l =>
    if bs.length < rem then { u with link := l, toDrop := (rem - bs.length) :: rest }
    else { u with link := (dropPacket l).1, toDrop := rest }
  | .gap n b m :: l =>
    if 64 * n < rem then { u with link := l, toDrop := (rem - 64 * n) :: rest }
    else { u with link := gapRest n (ceilDiv rem 64) b m ++ (dropPacket l).1, toDrop := rest }
  | .eop f :: l => { u with link := l, toDrop := if f then rest else rem :: rest }
  | .last :: l => { u with link := l, toDrop := rest }

/-- The descriptor that inbound DELIVER data feeds (R164): the earliest that takes it and whose input has not ended. -/
def Que.feeds (u : Que) : Option Acc := u.acc.find? fun a => a.runs && a.d.takesDeliver && !a.x.linEnd

/-- Link words go to the descriptor they feed while it has room for their output. -/
def feedLink (dm : Nat) (bed : Option Bed) : Nat → Que → Que
  | 0, u => u
  | fuel + 1, u =>
    match u.toDrop with
    | rem :: rest => if u.link.isEmpty then u else feedLink dm bed fuel (dropOne u rem rest)
    | [] => match u.feeds with
      | none => u
      | some a =>
        if a.stage ≠ .started then u
        else match declaredIn a.d a.x with
          | none => u
          | some n =>
            if n ≤ linLen a.x.lin then feedLink dm bed fuel (u.modA a.id fun a => { a with x := { a.x with linEnd := true } })
            else if u.link.isEmpty || u.stalled a bed dm (isLink a.d.a24) then u
            else feedLink dm bed fuel (feedOne u a (n - linLen a.x.lin))

/-- The first entry of its CMD payload goes to an INLINE, up to LENGTH; bytes beyond are excess (R185, R187, R189). -/
def Acc.takePay (a : Acc) : Acc :=
  let rem := a.d.len - linLen a.x.lin
  let put (l e : List LEnt) (exc : Nat) (p : Bool) : Acc :=
    { a with payload := l, x := { a.x with lin := a.x.lin ++ e, excess := a.x.excess + exc, psnSeen := a.x.psnSeen || p, gapSeen := a.x.gapSeen || gapIn e } }
  match a.payload with
  | [] => { a with x := { a.x with linEnd := true } }
  | .word bs p :: l => if rem = 0 then put l [] bs.length false else put l [.word (bs.take rem) p] (bs.length - rem) p
  | .gap n b m :: l => let k := min n (ceilDiv rem 64); put l (if k = 0 then [] else [.gap k b m]) 0 false
  | .eop _ :: l | .last :: l => put l [] 0 false

/-- A started INLINE takes its payload from the link FIFO while its output has room (R185, R318). -/
def feedInline (dm : Nat) (bed : Option Bed) (id : Nat) : Nat → Que → Que
  | 0, u => u
  | fuel + 1, u =>
    match u.acc.find? fun a => a.id == id with
    | some a =>
      if a.d.op ≠ 0x04 || a.stage == .accepted || !a.runs || a.x.linEnd || u.stalled a bed dm false then u
      else feedInline dm bed id fuel (u.modA id Acc.takePay)
    | none => u

/-- The link FIFO's words go to the descriptors that take them (R164, R318); what they leave is released. -/
def Que.takeLink (u : Que) (dm : Nat) (bed : Option Bed) : Que :=
  let v := feedLink dm bed (2 * u.link.length + u.acc.length + u.toDrop.length + 1) u
  u.freedTo (u.acc.foldl (fun v a => feedInline dm bed a.id (a.payload.length + 1) v) v)

/-! ## Detecting -/

/-- The number of marked rows of an EXPAND, once every bitmap bit is in hand (R202, R218); a failing bitmap bit is a fault of its row. -/
def markRows (a : Acc) : Acc :=
  if a.d.op ≠ 0x11 || a.x.marked.isSome || a.x.iflt.isSome then a
  else
    let bs := (List.range a.d.len).map (rowBit a.d a.x)
    match (bs.zipIdx.find? fun b => match b.1 with
        | .ok _ => false
        | .error _ => true) with
    | none => { a with x := { a.x with marked := some (bs.filter fun b => match b with
        | .ok m => m
        | .error _ => false).length } }
    | some (.error (.fail c t), i) => { a with x := a.x.inFault ⟨i, c, t⟩ }
    | some _ => a

/-- Fold region checks: the entries of the transactions that fail, with the failures counted (R210, R538). -/
def State.checkTx (s : State) (n : Log) (q : Qn) (k : Kind) (tx : List (Nat × Nat × List Nat)) : State × List Nat :=
  tx.foldl (fun (s, bad) (a, _, es) =>
    if s.regionOk (s.que n q).cfg.dom k a then (s, bad) else (s.regionFail n q k a, bad ++ es)) (s, [])

/-- Update an entry of a queue. -/
def State.modA (s : State) (n : Log) (q : Qn) (id : Nat) (f : Acc → Acc) : State := s.modQ n q fun u => u.modA id f

/-- The entry of a queue with serial `id`. -/
def State.acc (s : State) (n : Log) (q : Qn) (id : Nat) : Option Acc := (s.que n q).acc.find? fun a => a.id == id

/-- Check the next windows of a GATHER or SCATTER while buffers are free (R210, R225, R226). -/
def checkWindows (n : Log) (q : Qn) (id : Nat) : Nat → State → State
  | 0, s => s
  | fuel + 1, s =>
    match s.acc n q id with
    | none => s
    | some a =>
      let u := s.que n q
      let d := a.d
      let bed := s.lch[n].bed
      let dm := s.lch[n].port.dmax
      let held := (u.acc.map fun y => u.windows y bed dm).sum
      let new := if a.x.chk < a.begunWindows then 0 else d.bufs
      if a.ev.why ≠ .more || 256 * a.x.chk ≥ serveEnd d a.x || held + new > 2 || !u.windowTurn a then s
      else match winIds d a.x a.x.chk with
        | none => s
        | some (ids, bad) =>
          let (t, es) := s.checkTx n q (if d.op = 0x12 then .read else .write) (columnTx (if d.op = 0x12 then d.src else d.dst) d.w ids)
          let f1 : Option Flt := (lowest es).map fun j => ⟨j, 1, 0⟩
          let f2 : Option Flt := match bad with
            | some (j, c, t) => if c = 0 then f1 else Flt.min f1 ⟨j, c, t⟩
            | none => f1
          checkWindows n q id fuel (t.modA n q id fun a =>
            let x := { a.x with chk := a.x.chk + 1, wlim := a.x.wlim ++ [serveEnd d a.x] }
            { a with x := match f2 with
                | some f => x.inFault f
                | none => x })

/-- Phase 2 of a vector group, once its input is in hand, and its conclusion once phase 3 has settled (R236 to R239). -/
def State.vecStep (s : State) (n : Log) (q : Qn) (a : Acc) : State :=
  if a.x.flt.isSome || a.x.chk = 1 then s
  else if !a.x.step3 then
    match vecEls a with
    | .error _ => s
    | .ok _ =>
      let k : Kind := if a.d.op = 0x19 then .write else .read
      let ok := fun b => s.regionOk (s.que n q).cfg.dom k (256 * b)
      let t := (s.checkTx n q k (columnTx (vecCol a.d) a.d.w ((vecIds a).filter fun x => x.2 < a.d.idLimit))).1
      t.modA n q a.id fun a => match vecFail2 a ok with
        | some f => { a with x := { a.x with iflt := some f, flt := some ⟨f.idx, 5, f.idx⟩, psnSeen := a.x.psnSeen || f.cause == 4 } }
        | none => { a with x := { a.x with step3 := true } }
  else
    let doneR := a.d.op = 0x19 || (a.x.ri ≥ (readsOf a).length && a.x.reads.all fun r => r.st ≠ .posted)
    let doneW := a.d.op = 0x18 || (a.x.wi ≥ (vecWrites a).length && a.x.writes.all fun w => w.st ≠ .posted)
    if doneR && doneW then
      s.modA n q a.id fun a =>
        let x := { a.x with chk := 1 }
        match vecFail3 a with
        | some f => { a with x := { x with iflt := some f, flt := some ⟨f.idx, 5, f.idx⟩, psnSeen := x.psnSeen || f.cause == 4 } }
        | none => { a with x }
    else s

/-- The expected digest of a DIGEST is in hand: its bytes, or the failure of its read (R477, R480). -/
def expDigest (a : Acc) : Except In (List (Byte × Bool)) :=
  let d := a.d
  elemIn (fun k => if isLink d.a24 then payByte a k else hostByte a.x 1 (d.a24 + k)) 0 (d.b 32)

/-- Every issued transaction has its response (R179, R223, R238). -/
def Acc.answered (a : Acc) : Bool :=
  a.x.reads.all (fun r => r.st ≠ .posted && r.st ≠ .flushed) && a.x.writes.all (fun w => w.st ≠ .posted)

/-- A fault that the evaluation of the input meets (R222, R286, R322, R478). -/
def evalFault (a : Acc) (bed : Option Bed) : Option Flt :=
  let w : Why := if a.d.op = 0x28 then (match bed with
      | some b => (partEval a b).why
      | none => .more)
    else if a.d.isStream || a.d.op = 0x30 then a.ev.why else .more
  match w with
  | .fault f => some f
  | _ => none

/-- The descriptor retires FAULT LINK_ERR from output offset `off` on (R106, R108, R463). -/
def Acc.linkFail (a : Acc) (bed : Option Bed) (off : Nat) : Acc :=
  let b := { a with x := { a.x with linkErr := some off, creditA := none } }
  if a.d.isVec || a.d.op = 0x30 || a.d.op = 0x31 then b
  else b.outFault bed ⟨match a.ev.cells.find? fun c => c.pos ≥ off with
    | some c => c.idx
    | none => a.ev.n, 0x0C, 0⟩

/-- A report of an earlier execution's packet takes effect once the output below it has left again (R108); that of a group's frame, once the group's outcome is decided (R247). -/
def Acc.reported (a : Acc) (bed : Option Bed) : Acc :=
  match a.failAt with
  | some off =>
    if a.stage == .started && a.runs && a.x.linkErr.isNone && off ≤ a.x.outSent && (!a.d.isVec || a.x.chk = 1 || (a.x.flt.isSome && a.answered)) then a.linkFail bed off else a
  | none => a

/-- What a started descriptor finds in its input. The spec gives no outcome for an expected digest whose host read a FLUSH took: the DIGEST fails as for a poisoned one (DESIGN CHOICE, log 62). After a fault the evaluation goes on below it, and a lower failure takes its place (R179, R223, R259). -/
def detect (bed : Option Bed) (a : Acc) : Acc :=
  if a.stage ≠ .started || (a.x.flt.isSome && !a.d.isStream && a.d.op ≠ 0x28) then a
  else
    let a := markRows a
    if a.d.op = 0x30 && a.x.chk = 0 then
      match expDigest a with
      | .error (.fail c _) => { a with x := { a.x with chk := 2, iflt := some ⟨0, c, 0⟩, flt := some ⟨0, c, 0⟩ } }
      | .error .gap => { a with x := { a.x with chk := 2, iflt := some ⟨0, 5, 0x10⟩, flt := some ⟨0, 5, 0x10⟩ } }
      | .error _ => a
      | .ok l => if l.any Prod.snd then { a with x := { a.x with chk := 2, psnSeen := true, iflt := some ⟨0, 5, 0x10⟩, flt := some ⟨0, 5, 0x10⟩ } }
          else { a with x := { a.x with chk := 1 } }
    else match evalFault a bed with
      | some f => { a with x := a.x.inFault f }
      | none => a

/-- One round of the data path of a queue. -/
def State.pumpOnce (s : State) (n : Log) (q : Qn) : State :=
  let dm := s.lch[n].port.dmax
  let bed := s.lch[n].bed
  let s := s.modQ n q fun u =>
    let r := u.hinR
    let u := takeHost dm bed u.hin.length u
    let u := { u with hinRec := if u.hinR = r then u.hinRec else (s.hclk, u.hinR - r) :: u.hinRec.filter fun x => x.1 + 3 > s.hclk }
    let u := { u with acc := u.acc.map fun (a : Acc) => detect bed (a.reported bed) }
    let u := u.takeLink dm bed
    { u with acc := u.acc.map (detect bed) }
  (s.que n q).acc.foldl (fun s a =>
    if a.stage ≠ .started || !a.runs then s
    else if a.d.op = 0x12 || a.d.op = 0x13 then checkWindows n q a.id 3 s
    else if a.d.isVec then match s.acc n q a.id with
      | some a => s.vecStep n q a
      | none => s
    else s) s

/-- The data path of a queue runs as far as it can. -/
def State.pump (s : State) (n : Log) (q : Qn) : State := (s.pumpOnce n q).pumpOnce n q

/-! ## Executed and visible -/

/-- The input side has come to its end: all elements, a short end or a fault. -/
def Acc.inputDone (a : Acc) (bed : Option Bed) : Bool :=
  let d := a.d
  match d.op with
  | 0x28 => match bed with
    | some b => (partEval a b).why ≠ .more
    | none => a.x.flt.isSome
  | 0x29 => true
  | _ => a.ev.why ≠ .more

/-- Every planned read of a stream operation that came to its own end is issued, repeated ones of a STRIDE included (R125, R174). -/
def Acc.readsIssued (a : Acc) : Bool := a.ev.why ≠ .done || a.x.ri ≥ (readsOf a).length

/-- Every write that carries output below the lowest fault is issued (R179); under the pacing of R101 no output waits for a request. -/
def Acc.writesIssued (a : Acc) (bed : Option Bed) : Bool :=
  (((writesOf a bed).drop a.x.wi).all fun w => (enabled (a.below w.cells)).isEmpty)
    && (match a.x.allow with
      | some l => !a.d.isStream || a.d.op = 0x13 || (enabled (a.below (a.ev.cells.drop (l.getLast?.getD 0)))).isEmpty
      | none => true)

/-- A started stream operation, PARTITION or BEDCLOSE has reached executed (R125): its source data is read, its writes are issued, and its DELIVER packets are handed to the endpoint. -/
def Acc.executed (a : Acc) (bed : Option Bed) : Bool :=
  match a.d.op with
  | 0x29 => a.writesIssued bed && (a.x.flt.isSome || (match bed with
      | some b => a.x.wi ≥ (closeWrites1 a.d b).length + (closeWrites2 a.d b).length
      | none => false))
  | 0x28 => a.inputDone bed && a.writesIssued bed && a.x.pool = 0 && !(bed.any fun b => b.takes.any fun t => t.out == .open_)
  | _ => a.inputDone bed && a.readsIssued && (if a.d.linkOut then a.x.finSent || a.x.linkErr.isSome else a.writesIssued bed)

/-- A started descriptor has reached visible (R125): its writes have responses, its link output has left, and its wait is over. -/
def Acc.settled (a : Acc) (bed : Option Bed) : Bool :=
  let d := a.d
  if a.pre.isSome then true
  else if d.isVec then
    (if a.x.flt.isSome then a.answered else a.x.chk = 1 && a.answered) && (!a.frames || a.x.finSent || a.x.linkErr.isSome)
  else match d.op with
    | 0x30 =>
      a.answered && ((a.x.chk = 2 && a.x.flt.isSome) || a.x.msgAbort || (a.x.linkErr.isSome && (!a.x.began || a.x.finSent)) || (a.x.finSent && a.verdict.isSome))
    | 0x31 => (match a.lk with
        | .none | .intent => false
        | _ => true) && (!d.linkOut || a.x.finSent || a.x.linkErr.isSome)
    | 0x38 => a.satA.isSome || a.timedOut
    | 0x39 | 0x3F => true
    | _ => a.answered && a.executed bed

end Sys2Proof.Machine
end

