-- ==== Sys2Proof/Machine/Records.lean ====
section
/-! DEFINITION. What a descriptor reports: STATUS, CAUSE, COUNT and DETAIL by operation (R172, R179, R187, R193, R230, R245, R260, R289, R292, R465, R472, R480) and the completion record (R167 to R173). -/

namespace Sys2Proof.Machine

/-- STATUS, CAUSE, COUNT and DETAIL of a record. -/
structure Outc where
  status : Nat := 0
  cause : Nat := 0
  count : Nat := 0
  detail : Nat := 0
deriving DecidableEq, Repr

/-- A DETAIL saturates at 0xFFFF (R194, R230, R260, R289). -/
def sat16 (n : Nat) : Nat := min n 0xFFFF

/-- FAULT. -/
def faultOut (cause count detail : Nat) : Outc := ⟨0x10, cause, count, sat16 detail⟩

/-- The words dropped in front of a descriptor: gap markers, FLUSHed words and abandoned writes (R189, R317, R323). -/
def Exec.droppedWords (x : Exec) : Nat :=
  x.dropped + (x.lin.map fun e => match e with
    | .gap n _ _ => n
    | .word _ _ | .eop _ | .last => 0).sum

/-- The evaluation below the lowest fault. -/
def Acc.evBelow (a : Acc) : Ev :=
  match a.x.flt with
  | some f => evalGo (itemOf a.d a.x) a.d.len (some f) (a.d.len + 1) {}
  | none => a.ev

/-- The first output element that carries poison, or whose word had a parity error in the host-out FIFO (R326, R486); in a SCATTER only bytes that are written count (R221). -/
def firstPoison (a : Acc) : Option Nat :=
  let e := a.ev
  let out := a.x.badOut.map fun i => if a.d.op = 0x10 then ((e.cells.findIdx? fun c => c.idx = i).getD 0) / a.d.w else i
  lowest (out.toList ++ (inPoison e).toList)
where inPoison (e : Ev) : Option Nat :=
  if a.d.op = 0x13 then lowest ((((List.range (ceilDiv a.d.len 256)).flatMap fun k =>
    (scatterTx a.d a.x k e.cells).flatMap WPlan.cells).filter Cell.psn).map Cell.idx)
  else if a.d.op = 0x10 then (e.cells.findIdx? Cell.psn).map (· / a.d.w)
  else e.psn

/-- The partial trailing input of a short descriptor: bytes, or bits for UNPACK (R219, R230, R257, R260). -/
def partialTail (a : Acc) : Nat :=
  let d := a.d
  let r := linLen a.x.lin
  match d.op with
  | 0x10 | 0x11 => r % d.w
  | 0x12 => r % d.idw
  | 0x13 => if isLink d.src then r % d.w else r % d.idw
  | 0x20 => 8 * r - d.b 27 - a.ev.n * d.b 24
  | _ => 0

/-- COPY, STRIDE, FILL, INLINE, the sieve and the converters (R187, R193, R230, R260). -/
def streamOut (a : Acc) : Outc :=
  let d := a.d
  let e := a.ev
  let sieve := d.op = 0x12 || d.op = 0x13
  let full := if d.op = 0x10 then e.emitted else d.len
  match a.x.flt with
  | some f => faultOut f.cause f.idx (if d.op = 0x21 then a.evBelow.sats else f.detail)
  | none =>
    if e.why = .short then
      ⟨1, 0, if d.op = 0x10 then e.emitted else if d.op = 0x20 || d.op = 0x21 then e.n - e.lost else e.n, sat16 (if d.op = 0x21 then e.sats
        else if d.op < 0x10 then (if a.x.gapSeen then a.x.droppedWords else 0) else partialTail a)⟩
    else if a.x.excess > 0 then ⟨2, 0, full, sat16 a.x.excess⟩
    else match firstPoison a with
      | some i => ⟨3, 0, full, sat16 (if d.op = 0x21 then e.sats else if d.op < 0x10 then i / 64 else i)⟩
      | none => ⟨0, 0, full, sat16 (if d.op = 0x21 then e.sats else if sieve then e.skipped else if a.x.gapSeen then a.x.droppedWords else 0)⟩

/-- Vector groups (R241, R245). -/
def vecOut (a : Acc) : Outc :=
  let k := if a.d.op = 0x19 then popCount (doneMask a) else 0
  if a.x.linkErr.isSome then faultOut 0x0C k 0
  else match a.x.flt with
    | some f => faultOut f.cause (if f.cause = 5 then k else 0) f.detail
    | none => ⟨0, 0, 16, 0⟩

/-- PARTITION (R283, R289). -/
def partOut (a : Acc) (bed : Bed) : Outc :=
  let e := partEval a bed
  match a.x.flt with
  | some f => faultOut f.cause f.idx f.detail
  | none =>
    if e.why = .short then ⟨1, 0, e.placed + a.rows0, linLen a.x.lin % a.d.tw⟩
    else if a.x.excess > 0 then ⟨2, 0, a.d.len, sat16 a.x.excess⟩
    else match lowest ((partPsn a bed).toList ++ a.x.badRows.toList) with
      | some i => ⟨3, 0, e.placed + a.rows0, sat16 i⟩
      | none => ⟨0, 0, e.placed + a.rows0, sat16 (if a.x.gapSeen then a.x.droppedWords else 0)⟩

/-- BEDCLOSE (R291, R292, R294). -/
def closeOut (a : Acc) (bed : Bed) : Outc :=
  match a.x.flt with
  | some f => faultOut f.cause 0 f.detail
  | none => ⟨0, 0, (bed.cur.filter fun c => c.rows > 0).length, bed.reserve.length⟩

/-- DIGEST (R480). -/
def digestOut (a : Acc) : Outc :=
  let n := a.d.len
  if a.x.chk = 2 then match a.x.flt with
    | some f => faultOut f.cause 0 f.detail
    | none => faultOut 5 0 0x10
  else match a.x.linkErr with
    | some o => faultOut 0x0C o 0
    | none =>
      if a.x.msgAbort then faultOut 9 a.x.outSent (match a.ev.why with
        | .fault f => f.detail
        | _ => 1)
      else match a.verdict with
        | some 0 => if a.x.excess > 0 then ⟨2, 0, n, sat16 a.x.excess⟩ else ⟨0, 0, n, 0⟩
        | some 2 => if a.x.excess > 0 then ⟨2, 0, n, sat16 a.x.excess⟩ else ⟨0, 0, n, 2⟩
        | some 1 => faultOut 5 n 1
        | _ => faultOut 5 n 3

/-- LOCKED (R465). -/
def lockedOut (a : Acc) : Outc :=
  let c (o : Nat) := o % 2 ^ 32
  match a.lk with
  | .written o => if a.x.linkErr.isSome then faultOut 0x0C (c o) 0 else ⟨0, 0, c o, 0⟩
  | .noWrite o => if a.x.linkErr.isSome then faultOut 0x0C (c o) 1 else ⟨0, 0, c o, 1⟩
  | .region => faultOut 1 0 0
  | .errRead => faultOut 2 0 1
  | .errWrite o => faultOut 2 (c o) 2
  | .poisoned => faultOut 5 0 1
  | .operand => faultOut 5 0 3
  | .lost o => faultOut 8 (c o) 0
  | .intent | .none => ⟨0x11, 8, 0, 0⟩

/-- WAIT (R472). -/
def waitOut (a : Acc) : Outc :=
  match a.satA with
  | some t => ⟨0, 0, (t - a.startA) / 100, a.satGen⟩
  | none => faultOut 6 (field a.d 28 4) 0

/-- The outcome of a descriptor (R172); a vector group whose held frame the link watchdog ends is FAULT LINK_ERR, also where it failed its checks or does not run (R106, R244, R247). -/
def outcome (a : Acc) (bed : Option Bed) : Outc :=
  if a.d.isVec && a.x.linkErr.isSome then vecOut a
  else if a.notRun then ⟨0x12, 0, 0, 0⟩
  else match a.pre with
    | some (c, t) => faultOut c 0 t
    | none =>
      let b := bed.getD {}
      match a.d.op with
      | 0x18 | 0x19 => vecOut a
      | 0x28 => partOut a b
      | 0x29 => closeOut a b
      | 0x30 => digestOut a
      | 0x31 => lockedOut a
      | 0x38 => waitOut a
      | 0x39 => ⟨0, 0, a.d.len, 0⟩
      | 0x3F => ⟨0, 0, 0, 0⟩
      | _ => streamOut a

/-- A record with STATUS FAULT or INDETERMINATE (R483). -/
def Outc.isFault (o : Outc) : Bool := o.status == 0x10 || o.status == 0x11

/-- RFLAGS (R170). -/
def rflags (a : Acc) : Nat :=
  let sats := a.d.op = 0x21 && a.runs && a.ev.sats > 0
  b2n a.x.psnSeen + 2 * b2n sats + 4 * b2n a.x.gapSeen + 8 * b2n a.brokenLock + 16 * b2n a.replayed

/-- The completion record (R167). -/
def recordBytes (a : Acc) (o : Outc) : List Byte :=
  leBytes 2 (if a.tagF then 0xFFFF else a.d.tag) ++ leBytes 1 o.status ++ leBytes 1 o.cause ++ leBytes 4 o.count ++ leBytes 2 a.seq
    ++ leBytes 3 (slackField (if a.runs then a.deadline else none) a.visA) ++ leBytes 1 (rflags a) ++ leBytes 2 o.detail

/-- The record raises DONE (R173, R191). -/
def raisesDone (a : Acc) (o : Outc) : Bool := !a.tagF && (a.d.signal || (a.d.op == 0x39 && o.status == 0))
/-- The record raises GROUP (R246). -/
def raisesGroup (a : Acc) : Bool := a.d.isVec && !a.tagF && !a.subst

end Sys2Proof.Machine
end

