-- ==== Sys2Proof/Machine/Locked.lean ====
section
/-! DEFINITION. Locked sequences (R357 to R361, R458 to R466) and the Parterre's chunk takes (R269 to R274, R288, R297). -/

namespace Sys2Proof.Machine

/-! ## The slice lock -/

/-- The lock of a slice becomes free (R359). -/
def State.lockFree (s : State) (sl : SliceN) : State :=
  s.modS sl fun x => { x with lock := { broken := x.lock.broken, cause := x.lock.cause } }

/-- The lock of a slice breaks (R360): cause 1 incarnation change, 2 lease expiry, 3 hrst_n. -/
def State.lockBreak (s : State) (sl : SliceN) (cause : Nat) : State :=
  let k := s.slices[sl].lock
  if k.held then
    let t := s.modS sl fun x => { x with lock := { broken := true, cause } }
    ({ t with hpt := { t.hpt with lbreak := satAdd 0xFFFFFFFF t.hpt.lbreak 1 } } : State).post 0x17 1 sl (leBytes 1 k.owner ++ leBytes 1 k.inc ++ leBytes 1 cause)
  else s

/-- The channel sends its release: the slice lock that it holds becomes free, and its sequence ends (R357, R359). -/
def State.lockRelease (s : State) (p : Phys) (n : Log) : State :=
  let t := (fins 16).foldl (fun s sl =>
    let k := s.slices[sl].lock
    if k.held && k.owner = n.val && k.inc = s.inc n && k.phys = p.val then s.lockFree sl else s) s
  t.modP p fun c => { c with locked := none }

/-- The new value of a LOCKED operation (R459). -/
def lopNew (op w old x y : Nat) : Option Nat :=
  match op with
  | 0 => some x
  | 1 => if old = x then some y else none
  | 2 => some ((old + x) % 2 ^ (8 * w))
  | 3 => if old + x ≤ y then some (old + x) else none
  | 4 => some (old ||| x)
  | 5 => some (old &&& x)
  | 6 => some (max old x)
  | _ => some (min old x)

/-- The operands X and Y of a LOCKED (R458, R460). -/
def lockedXY (a : Acc) : Nat × Nat :=
  let w := a.d.opw
  if w ≤ 8 then (field a.d 32 8, field a.d 40 8)
  else
    let bs := (linBytes a.payload).map fun b => match b with
      | .ok v _ => v
      | _ => 0#8
    (field bs 0 w, field bs w w)

/-- The operand bytes of the block that a LOCK_READ returned. -/
def lockedOld (a : Acc) (w : RWord) : Nat := field w.bytes (a.d.dst % 64) a.d.opw

/-- The LOCK_WRITE of a LOCKED: the operand bytes of the new value (R462). -/
def lockedCells (a : Acc) (new : Nat) : List Cell :=
  (leBytes a.d.opw new).zipIdx.map fun (b, i) => ⟨a.d.dst + i, b, false, 0, true⟩

/-- The data of a LOCK_READ in the lock register. -/
def Exec.lockWord (x : Exec) : Option RWord :=
  (x.reads.reverse.find? fun r => r.stream == 6).bind fun r => r.data.head?

/-- The new value that a LOCKED writes, when it writes one. -/
def lockedNew (a : Acc) (w : RWord) : Option Nat :=
  let old := lockedOld a w
  let (x, y) := lockedXY a
  (lopNew (a.d.b 24) a.d.opw old x y).filter (· ≠ old)

/-- A LOCKED has its LOCK_READ response (R462): `none` is an ERR. -/
def State.lockedRead (s : State) (n : Log) (p : Phys) (q : Qn) (id : Nat) (w : Option RWord) (broken : Bool) : State :=
  let s := s.modA n q id fun a => { a with brokenLock := a.brokenLock || broken }
  match s.acc n q id, w with
  | some _, none => (s.modA n q id fun a => { a with lk := .errRead }).modP p fun c => { c with locked := none }
  | some a, some w =>
    if w.psn then (s.lockRelease p n).modA n q id fun a => { a with lk := .poisoned, x := { a.x with psnSeen := true } }
    else match lockedNew a w with
      | some _ => s.modA n q id fun a => { a with x := { a.x with lockPost := true } }
      | none => (s.lockRelease p n).modA n q id fun a => { a with lk := .noWrite (lockedOld a w) }
  | none, _ => s

/-- The end of a LOCK_WRITE: its response was OK, LOCK_LOST or ERR (R352). -/
inductive LwRsp where
  | ok | lost | err
deriving DecidableEq, Repr

/-- A LOCKED has its LOCK_WRITE response (R462). -/
def State.lockedWritten (s : State) (n : Log) (p : Phys) (q : Qn) (id : Nat) (r : LwRsp) : State :=
  (s.modP p fun c => { c with locked := none }).modA n q id fun a =>
    let old := match a.x.lockWord with
      | some w => lockedOld a w
      | none => 0
    { a with lk := match r with
        | .ok => .written old
        | .lost => .lost old
        | .err => .errWrite old }

/-! ## Chunk takes -/

/-- Earlier pool reads no longer serve a take. -/
def Exec.dropPool (x : Exec) : Exec := { x with reads := x.reads.map fun r => if 4 ≤ r.stream && r.stream ≤ 6 then { r with stream := 7 } else r }

/-- A pool wait ends: the deadline moves by it (R273, R274). -/
def Acc.endWait (a : Acc) (now : Nat) : Acc :=
  match a.x.poolA with
  | some t => { a with deadline := a.deadline.map (· + (now - t)), x := { a.x with poolA := none, poolUs := a.x.poolUs + (now - t) } }
  | none => a

/-- No take is in progress. -/
def Acc.takeOver (a : Acc) (now : Nat) : Acc :=
  let a := a.endWait now
  { a with x := { a.x with pool := 0, lockPost := false } }

/-- The open bed set of a logical channel. -/
def State.bedOf (s : State) (n : Log) : Bed := s.lch[n].bed.getD {}

/-- Update the open bed set. -/
def State.modBed (s : State) (n : Log) (f : Bed → Bed) : State := s.modL n fun l => { l with bed := l.bed.map f }

/-- The latest take of the bed set has an outcome. -/
def Bed.lastTake (b : Bed) (o : TkOut) : Bed :=
  { b with takes := match b.takes.reverse with
      | t :: ts => (({ t with out := o } : Take) :: ts).reverse
      | [] => [] }

/-- The take fails: a row that waits for it fails, and a take that no row waits for ends (R287, R288). -/
def State.takeFail (s : State) (n : Log) (q : Qn) (id cause detail : Nat) : State :=
  let b := s.bedOf n
  s.modA n q id fun a =>
    let e := partEval a b
    ({ a with x := if a.x.forRow then a.x.inFault ⟨e.n, cause, detail⟩ else a.x } : Acc).takeOver s.aclk

/-- A POOL_LEAK record for a take whose chunks cannot be used (R288, R297). -/
def State.leak (s : State) (n : Log) (t : Take) : State :=
  s.postCont 0x28 1 n (leBytes 7 (s.bedOf n).dst ++ leBytes 1 t.n) (leBytes 4 t.top ++ leBytes 4 t.ver)

/-- Why a take begins: a row needs a chunk or the pool header is not known (true), the reserve is low (false), or a replayed intent lacks its outcome (R270, R283, R297). -/
def takeWanted (a : Acc) (b : Bed) : Option Bool :=
  if b.takes.any fun t => t.out == .open_ then some false
  else if a.x.flt.isSome then none
  else
    let e := partEval a b
    if e.need || !b.opened then some true
    else if partReserve a b ≤ 16 then some false
    else none

/-- The pool header of the latest header read. -/
def Exec.header (x : Exec) : Option RTx := x.reads.find? fun r => r.stream == 4

/-- The poison of a read sets POISON_SEEN (R487). -/
def Exec.seePsn (x : Exec) : Exec :=
  { x with psnSeen := x.psnSeen || x.reads.any fun r => 4 ≤ r.stream && r.stream ≤ 6 && r.data.any RWord.psn }

/-- The header read of a take, or of an opening, has returned (R269, R283, R288, R297). -/
def State.headerDone (s : State) (n : Log) (q : Qn) (a : Acc) (r : RTx) : State :=
  let b := s.bedOf n
  let s := s.modA n q a.id fun a => { a with x := a.x.seePsn }
  let bad : Option (Nat × Nat) :=
    if r.st == .region then some (1, 4) else if r.st == .err then some (2, 4) else if r.data.any RWord.psn then some (5, 3) else none
  let h := poolOf ((r.data.map RWord.bytes).flatten)
  let record (s : State) : State := s.modBed n fun b => if b.opened then b else
    { b with base := h.base, pchunks := h.chunks, stack := h.stack, opened := true }
  match b.takes.find? fun t => t.out == .open_ with
  | some t =>
    let known := bad.isNone && h.ver = t.ver
    let s := s.modBed n fun b => { b with takes := b.takes.map fun y => if y.out == .open_ then { y with out := if known then .notTaken else .unknown } else y }
    let s := if bad.isNone then record s else s
    (if known then s else s.leak n t).modA n q a.id fun a => a.takeOver s.aclk
  | none => match bad with
    | some (c, d) => s.takeFail n q a.id c d
    | none =>
      if a.x.flt.isSome then s.modA n q a.id fun a => a.takeOver s.aclk
      else if a.opens && !b.opened then (record s).modA n q a.id fun a => a.takeOver s.aclk
      else if !h.fits b then s.takeFail n q a.id 5 3
      else
        let s := record s
        if h.top = 0 then
          if a.x.forRow then s.modA n q a.id fun a => { a with x := { a.x with pool := 5, poolA := some (a.x.poolA.getD s.aclk), poolR := s.aclk } }
          else s.takeFail n q a.id 0 0
        else s.modA n q a.id fun a => { a with x := { a.x with pool := 2 } }

/-- The stack reads of a take (R269). -/
def stackReads (a : Acc) (b : Bed) : List RPlan :=
  match a.x.header with
  | some r =>
    let h := poolOf ((r.data.map RWord.bytes).flatten)
    planRange 5 (b.stack + 4 * (h.top - h.batch)) (4 * h.batch) fun _ => 0
  | none => []

/-- The stack entries of a take are in hand: its intent is journaled (R269). -/
def State.stackDone (s : State) (n : Log) (q : Qn) (a : Acc) : State :=
  let b := s.bedOf n
  let rs := a.x.reads.filter fun r => r.stream == 5
  let s := s.modA n q a.id fun a => { a with x := a.x.seePsn }
  match a.x.header with
  | none => s
  | some r =>
    let h := poolOf ((r.data.map RWord.bytes).flatten)
    let at_ := b.stack + 4 * (h.top - h.batch)
    let bs := (List.range (4 * h.batch)).map fun k => match hostByte a.x 5 (at_ + k) with
      | .ok v _ => v
      | _ => 0#8
    if rs.any fun r => r.st == .region then s.takeFail n q a.id 1 4
    else if rs.any fun r => r.st == .err then s.takeFail n q a.id 2 4
    else if rs.any fun r => r.data.any RWord.psn then s.takeFail n q a.id 5 2
    else if a.x.flt.isSome then s.modA n q a.id fun a => a.takeOver s.aclk
    else
      (s.modBed n fun b => { b with takes := b.takes ++ [⟨h.top, h.ver, h.batch, stackIds h.batch bs, .open_⟩] }).modA n q a.id fun a =>
        { a with x := { a.x with pool := 3 } }

/-- The take did not happen and is repeated from its start, or given up after a fault (R269, R484). -/
def State.takeAgain (s : State) (n : Log) (q : Qn) (id : Nat) : State :=
  (s.modBed n fun b => b.lastTake .notTaken).modA n q id fun a =>
    if a.x.flt.isSome then a.takeOver s.aclk else { a with x := { a.x.dropPool with pool := 1, lockPost := false } }

/-- The LOCK_READ of a take has its response (R269, R288): `none` is an ERR. -/
def State.takeRead (s : State) (n : Log) (p : Phys) (q : Qn) (id : Nat) (w : Option RWord) (broken : Bool) : State :=
  let s := s.modA n q id fun a => { a with brokenLock := a.brokenLock || broken, x := a.x.seePsn }
  let drop (s : State) : State := s.modBed n fun b => b.lastTake .notTaken
  match w, (s.bedOf n).takes.getLast? with
  | none, _ => (drop (s.modP p fun c => { c with locked := none })).takeFail n q id 2 4
  | some w, some t =>
    let g := poolOf w.bytes
    if w.psn then (drop (s.lockRelease p n)).takeFail n q id 5 3
    else if (s.acc n q id).any (fun a => a.x.flt.isSome) || g.top ≠ t.top || g.ver ≠ t.ver then (s.lockRelease p n).takeAgain n q id
    else s.modA n q id fun a => { a with x := { a.x with pool := 4, lockPost := true } }
  | some _, none => s.lockRelease p n

/-- The LOCK_WRITE of a take: TOP and VER of the header (R269). -/
def takeCells (b : Bed) : List Cell :=
  match b.takes.getLast? with
  | some t => (leBytes 4 (t.top - t.n) ++ leBytes 8 (t.ver + 1)).zipIdx.map fun (v, i) => ⟨b.dst + 12 + i, v, false, 0, true⟩
  | none => []

/-- The LOCK_WRITE of a take has its response (R269, R288). -/
def State.takeWritten (s : State) (n : Log) (p : Phys) (q : Qn) (id : Nat) (r : LwRsp) : State :=
  let s := s.modP p fun c => { c with locked := none }
  let b := s.bedOf n
  match b.takes.getLast? with
  | none => s
  | some t => match r with
    | .lost => s.takeAgain n q id
    | .err => ((s.leak n t).modBed n fun b => b.lastTake .unknown).takeFail n q id 2 5
    | .ok =>
      if t.ids.any fun x => x ≥ b.pchunks || x ≥ 2 ^ 23 then ((s.leak n t).modBed n fun b => b.lastTake .unknown).takeFail n q id 5 2
      else (s.modBed n fun b => b.lastTake .taken).modA n q id fun a => a.takeOver s.aclk

/-- A take that still has something to post is given up once its descriptor has a fault (R287). -/
def State.takeTidy (s : State) (n : Log) (q : Qn) (a : Acc) : State :=
  let x := a.x
  let idle := x.reads.all fun r => !(4 ≤ r.stream && r.stream ≤ 6 && r.st == .posted)
  let replay := (s.bedOf n).takes.any (fun t => t.out == .open_) && x.pool ≤ 2
  if a.stage ≠ .started || a.d.op ≠ 0x28 || x.flt.isNone || x.pool = 0 || !idle || replay then s
  else if x.pool = 3 then (s.modBed n fun b => b.lastTake .notTaken).modA n q a.id fun a => a.takeOver s.aclk
  else if x.pool = 4 then
    if x.lockPost then match s.runP n with
      | some p => ((s.lockRelease p n).modBed n fun b => b.lastTake .notTaken).modA n q a.id fun a => a.takeOver s.aclk
      | none => s
    else s
  else s.modA n q a.id fun a => a.takeOver s.aclk

end Sys2Proof.Machine
end

