-- ==== Sys2Proof/Machine/LinkOut.lean ====
section
/-! DEFINITION. What the endpoint has to send for a descriptor (R85 to R90, R166, R242, R244, R463, R477, R478, R707): its next packet, which queue sends next, what is parked, and what waits for flit credit. -/

namespace Sys2Proof.Machine

/-- The next packet of a descriptor. -/
inductive OutKind where
  | deliver (final msg : Bool) (gap : Nat) (payload : List Byte) (psn : List Bool)
  | begin (exp : List Byte)
  | abort (reason : Nat)
deriving DecidableEq, Repr

/-- A packet that is ready: its OFFSET, the output sent after it, and its flits, header included. -/
structure OutPkt where
  k : OutKind
  off : Nat := 0
  next : Nat := 0
  flits : Nat := 0
deriving DecidableEq, Repr

/-- A DELIVER as a ready packet. -/
def deliverPkt (off gap : Nat) (bs : List (Byte × Bool)) (final msg : Bool) : OutPkt :=
  { k := .deliver final msg gap (bs.map Prod.fst) ((chunksOf (bs.length + 1) 64 bs).map fun w => w.any Prod.snd)
    off, next := off + bs.length, flits := 1 + ceilDiv bs.length 32 }

/-- The output bytes of a link destination up to the elements evaluated (R166, R707). -/
def outTotal (d : Desc) (e : Ev) : Nat :=
  match d.op with
  | 0x10 => e.emitted * d.w
  | 0x11 | 0x12 => e.n * d.w
  | 0x20 => e.n * d.lane
  | 0x21 => e.n * d.wout
  | _ => e.n

/-- `k` output bytes from `p` on; bytes that no cell holds are 0 (R707). -/
def fillBytes : Nat → Nat → List Cell → List (Byte × Bool)
  | 0, _, _ => []
  | k + 1, p, c :: cs => if c.pos = p then (c.val, c.psn) :: fillBytes k (p + 1) cs else (0, false) :: fillBytes k (p + 1) (c :: cs)
  | k + 1, p, [] => (0, false) :: fillBytes k (p + 1) []

/-- The length of the run of 64-byte words from `p` on that hold a written byte and lie within `k` words (R707). -/
def wordRun : Nat → Nat → List Cell → Nat
  | 0, _, _ => 0
  | k + 1, p, cs =>
    match cs with
    | c :: _ => if c.pos < p + 64 then 1 + wordRun k (p + 64) (cs.dropWhile fun c => c.pos < p + 64) else 0
    | [] => 0

/-- The next DELIVER of a stream operation: DELIVER_MAX bytes, what a request allows, or the rest (R85, R101, R707). R99 does not say whether a word that a FLUSH took counts against a request: it does, so a SINGLE whose 64 bytes are all lost sends nothing (DESIGN CHOICE, log 62). -/
def streamPkt (dm : Nat) (a : Acc) : Option OutPkt :=
  let d := a.d
  let e := a.ev
  let fin := match a.x.flt with
    | some f => e.n ≥ f.idx || e.why ≠ .more
    | none => e.why ≠ .more
  let total := outTotal d (if a.x.flt.isSome then a.evBelow else e)
  let off := a.x.outSent
  match (enabled (a.below e.cells)).dropWhile fun c => c.pos < off with
  | [] =>
    if fin then some { deliverPkt (max off total) (ceilDiv (total - off) 64) [] true false with off := max off total } else none
  | c :: cs =>
    let o := max off (c.pos / 64 * 64)
    let room := match a.x.allow with
      | some l => ((l.find? fun c => c > o).map fun c => c - o).getD 0
      | none => dm
    let lim := o + min dm room
    let stop := min (o + 64 * wordRun (dm / 64) o (c :: cs)) (min lim total)
    if room = 0 then none
    else if stop = lim || fin || stop + 64 ≤ total then
      some (deliverPkt o ((o - off) / 64) (fillBytes (stop - o) o (c :: cs)) (fin && stop ≥ total) false)
    else none

/-- The bytes of the expected digest (R477). -/
def expBytes (a : Acc) : List Byte := match expDigest a with
  | .ok l => l.map Prod.fst
  | .error _ => []

/-- The next packet of a DIGEST (R477, R478); one that fails on the link while its message is open aborts it (R87, R108). -/
def digestPkt (dm : Nat) (a : Acc) : Option OutPkt :=
  let d := a.d
  let e := a.ev
  if a.x.chk ≠ 1 then none
  else if !a.x.began then some { k := .begin (expBytes a), flits := 1 + ceilDiv (d.b 32) 32 }
  else if a.x.linkErr.isSome then some { k := .abort 2, off := a.x.outSent, next := a.x.outSent }
  else
    let off := a.x.outSent
    let stop := min (off + dm) d.len
    if e.outLen ≥ stop then some (deliverPkt off 0 (fillBytes (stop - off) off (e.cells.drop off)) (stop = d.len) true)
    else match e.why with
      | .short => some { k := .abort 1, off, next := off }
      | .fault f => some { k := .abort (if f.detail = 1 then 1 else 2), off, next := off }
      | .more | .done => none

/-- The DELIVER of a LOCKED with RET_LINK (R463). -/
def lockedPkt (a : Acc) : Option OutPkt :=
  let old (o : Nat) : Option OutPkt := some (deliverPkt 0 0 ((leBytes a.d.opw o).map fun b => (b, false)) true false)
  match a.lk with
  | .none | .intent => none
  | .written o | .noWrite o | .lost o | .errWrite o => old o
  | .errRead | .poisoned | .region | .operand => some (deliverPkt 0 0 [] true false)

/-- The group frame, once the group's outcome is decided (R242, R244). -/
def framePkt (a : Acc) (bed : Option Bed) : Option OutPkt :=
  let o := outcome a bed
  if a.stage == .accepted || (if a.x.flt.isSome then a.answered else a.x.chk = 1 && a.answered) then
    some (deliverPkt 0 0 ((groupFrame a o.status o.cause o.detail).zipIdx.map fun (b, i) => (b, faultPsn a && 8 ≤ i && i < 16)) true false)
  else none

/-- A descriptor that sends packets. -/
def Acc.sends (a : Acc) : Bool := (a.runs && a.d.linkOut && !a.d.isVec) || a.frames

/-- A descriptor that has sent all it will. -/
def Acc.sentAll (a : Acc) : Bool :=
  a.stage == .visible || a.x.finSent || (a.x.linkErr.isSome && !(a.d.op == 0x30 && a.x.began)) || a.x.msgAbort || (a.d.op == 0x30 && a.x.chk = 2)

/-- The next packet of a descriptor, when it is ready. R99 does not say whether the packets of a DIGEST, a vector group or a LOCKED on REQ_QUEUE are paced: they are not, and they serve no request (DESIGN CHOICE, log 62). -/
def Acc.nextPkt (dm : Nat) (bed : Option Bed) (a : Acc) : Option OutPkt :=
  if a.frames then (if a.stage == .accepted && a.runs then none else framePkt a bed)
  else if a.stage ≠ .started then none
  else match a.d.op with
    | 0x30 => digestPkt dm a
    | 0x31 => lockedPkt a
    | _ => streamPkt dm a

/-- The descriptor whose packets leave next on a queue (R85); the frame of a group that did not start waits for what still enters the queue before it (R150, R244, R502). -/
def Que.sender (u : Que) : Option Acc := (u.acc.find? fun a => a.sends && !a.sentAll).filter fun a => a.stage ≠ .accepted || a.runs || u.placed a

/-- The next packet of a queue. -/
def LCh.ready (l : LCh) (q : Qn) : Option (Acc × OutPkt) :=
  (l.qs[q].sender).bind fun a => (a.nextPkt l.port.dmax l.bed).map fun k => (a, k)

/-- On a port with a promised queue, a MSG_BEGIN waits for the promised link output accepted before it (R412). -/
def LCh.mayBegin (l : LCh) (a : Acc) : Bool :=
  l.qs.toList.all fun u => u.cfg.res = 0 || u.acc.all fun b => !(b.id < a.id && b.sends && !b.sentAll)

/-- The queue's next packet waits behind an open message, or its message may not begin (R87, R90, R477). R90 does not say whether a later descriptor of the message's own queue counts as parked: it does not, only the first sender of each queue does (DESIGN CHOICE, log 62). -/
def LCh.parked (l : LCh) (q : Qn) (r : Acc × OutPkt) : Bool :=
  match r.2.k with
  | .abort _ => false
  | .begin _ => l.msg.isSome || !l.mayBegin r.1
  | .deliver _ _ _ _ _ => match l.msg with
    | some m => m ≠ (q, r.1.id)
    | none => false

/-- The queue can send now, the consumer's sleep and the interleave apart (R61, R87). -/
def LCh.sendable (l : LCh) (q : Qn) : Bool :=
  match l.ready q with
  | some r => !l.parked q r && r.2.flits ≤ l.qs[q].flitCr
  | none => false

/-- A started descriptor's wait for flit credit begins or ends (R65, R106). -/
def State.linkWait (s : State) (n : Log) (q : Qn) : State :=
  let l := s.lch[n]
  match l.ready q with
  | none => s
  | some r =>
    if !l.asleep && !l.parked q r && r.2.flits > l.qs[q].flitCr && r.1.stage == .started then
      if r.1.x.creditA.isSome then s else s.modA n q r.1.id fun a => { a with credit := true, x := { a.x with creditA := some s.aclk } }
    else if r.1.x.creditA.isNone then s
    else s.modA n q r.1.id fun a => { a with x := { a.x with creditA := none } }

end Sys2Proof.Machine
end

