-- ==== Sys2Proof/Machine/Deadline.lean ====
section
/-! DEFINITION. Missed promises (R421 to R423): what a promised descriptor was seen to wait for, and DEADLINE_MISS. A condition of R422 counts once its bound has passed, whether or not what was late has come. -/

namespace Sys2Proof.Machine

/-- A response came more than HOST_LAT ns after its presentation (R422). -/
def State.late (s : State) (t : Txn) : Bool := (s.aclk - t.presA) * 10 > s.sun.hostLat

/-- Link FIFO entries against the descriptors that take them, each with the bytes its input still lacks: those whose input does not end in the FIFO. `skip` drops the rest of a packet (R186, R189). -/
def inputLeft : List LEnt → List (Option Nat × Nat) → Bool → List (Option Nat × Nat)
  | [], cs, _ => cs
  | .eop f :: l, cs, skip => inputLeft l (if f && !skip then cs.drop 1 else cs) false
  | .last :: l, cs, skip => inputLeft l (cs.drop 1) skip
  | .word _ _ :: l, [], skip => inputLeft l [] skip
  | .gap _ _ _ :: l, [], skip => inputLeft l [] skip
  | .word bs _ :: l, (i, r) :: cs, skip =>
    if skip then inputLeft l ((i, r) :: cs) true
    else if bs.length < r then inputLeft l ((i, r - bs.length) :: cs) false else inputLeft l cs true
  | .gap n _ _ :: l, (i, r) :: cs, skip => if 64 * n < r then inputLeft l ((i, r - 64 * n) :: cs) skip else inputLeft l cs true

/-- The link-source descriptors of a queue whose input has not all come. -/
def Que.inputOpen (u : Que) : List Nat :=
  let wants := u.acc.filterMap fun a =>
    if a.runs && a.d.takesDeliver && !a.x.linEnd then some (some a.id, (declaredIn a.d a.x).getD 1 - linLen a.x.lin) else none
  (inputLeft u.link (u.toDrop.map (fun r => (none, r)) ++ wants) false).filterMap Prod.fst

/-- The bound of R409 on the link input of a promised descriptor has passed. -/
def Acc.inputDue (a : Acc) (now : Nat) : Bool := a.anchor.any fun t => now > t + 80 + a.term

/-- Link input arrives: the promised descriptors that still lack some beyond the bound of R409 note it (R422). -/
def State.noteInput (s : State) (n : Log) (q : Qn) : State :=
  let ids := (s.que n q).inputOpen
  s.modQ n q fun u => { u with acc := u.acc.map fun a => if a.inputDue s.aclk && ids.contains a.id then { a with input := true } else a }

/-- A transaction of descriptor `a`, its read at NEXT included (R406), is presented and has waited longer than HOST_LAT for its response (R350, R422). -/
def State.hostWaits (s : State) (n : Log) (q : Qn) (a : Acc) : Bool :=
  s.slices.toList.any fun x => x.out.any fun t => t.log == n && t.q == q && s.late t && (match t.own with
    | .rd id _ | .wr id _ => id == a.id
    | .chain => (s.que n q).chain.any fun f => f.after == a.id && !f.exempt
    | _ => false)

/-- A consumer has not answered descriptor `a` within CONSUMER_WAKE (R96, R422, R479). -/
def State.consumerWaits (s : State) (n : Log) (q : Qn) (a : Acc) : Bool :=
  let l := s.lch[n]
  let tooLong (t : Option Nat) : Bool := t.any fun t => s.aclk - t > l.port.cwake
  (l.asleep && tooLong l.wakeReq && ((l.ready q).any fun r => r.1.id == a.id))
    || (a.stage == .started && a.verdict.isNone && tooLong a.x.finA)

/-- The miss kind of R422: the first condition of its table that was observed. -/
def missKind (s : State) (n : Log) (q : Qn) (a : Acc) : Nat :=
  if a.unserved || (s.servP n).isNone then 1
  else if a.hostLate || s.hostWaits n q a then 2
  else if a.credit then 3
  else if a.input || (a.inputDue s.aclk && (s.que n q).inputOpen.contains a.id) then 4
  else if a.consumer || s.consumerWaits n q a then 5
  else if a.lockHeld then 7 else 6

/-- DEADLINE_MISS (R421 to R423): the deadline of a promised descriptor passed before it reached visible; the command may come after the descriptor did so late. -/
def execDeadlineMiss (n : Log) (q : Qn) (id : Nat) (s : State) : Res :=
  let u := s.que n q
  match u.acc.find? fun a => a.id == id with
  | some a => match a.due s.aclk with
    | some dl =>
      when (s.aclk > dl && (a.stage ≠ .visible || a.visA > dl) && !a.missed) s
        (let t := s.modQ n q fun u => { u with acc := updFirst (fun a => a.id == id) (fun a => { a with missed := true }) u.acc }
         let t := { t with sun := { t.sun with misses := satAdd 0xFFFFFFFF t.sun.misses 1, miss := true } }
         t.post 0x20 0 n (leBytes 1 (missKind s n q a) ++ leBytes 1 0x0A ++ leBytes 2 a.seq
           ++ leBytes 2 (if a.tagF then 0xFFFF else a.d.tag) ++ leBytes 2 (dl % 65536)) q)
    | none => .next s
  | none => .next s

end Sys2Proof.Machine
end

