-- ==== Sys2Proof/Machine/Flags.lean ====
section
/-! DEFINITION. The two parts of W1C and RC fields (R11, R684), the interrupt sources (R682), and the summaries of GLB_IRQ (R673) and GLB_SEC (R550, R551). -/

namespace Sys2Proof.Machine

/-! ## W1C and RC fields

A field of the state proper holds what the block has set or counted since the latest aclk edge; `edge` holds what stood there before. An access of software acts on `edge` alone, so that a set or an advance of its own aclk outlives it (R11, R684). -/

/-- A W1C bit that stood at the latest aclk edge, after a write of `w` (R10). -/
def clr (old w : Bool) : Bool := old && !w
/-- A field of W1C bits that stood at the latest aclk edge, after a write of `w` (R10). -/
def clrBits {n : Nat} (old w : BitVec n) : BitVec n := old &&& ~~~w

/-- The value of a count that saturates at `m`: with (`rc`) or without its advances since the latest aclk edge. -/
def rcSum (rc : Bool) (m old new : Nat) : Nat := if rc then satAdd m old new else old

/-- The W1C and RC fields of a structure, from those at the latest edge (`e`) and what came since: `hold`; and a structure in which nothing came yet: `fresh`. -/
def Gate.hold (e x : Gate) : Gate :=
  { x with lockedWrite := e.lockedWrite || x.lockedWrite, denied := e.denied || x.denied, unmapped := e.unmapped || x.unmapped, dead := e.dead ||| x.dead }
def Gate.fresh (x : Gate) : Gate := { x with lockedWrite := false, denied := false, unmapped := false, dead := 0 }
def Svc.hold (e x : Svc) : Svc := { x with done := e.done || x.done, fail := e.fail || x.fail }
def Svc.fresh (x : Svc) : Svc := { x with done := false, fail := false }
def Ldg.hold (rc : Bool) (e x : Ldg) : Ldg :=
  { x with
    mismatch := e.mismatch || x.mismatch, lost := e.lost || x.lost
    lostCnt := rcSum rc 0xFFFFFFFF e.lostCnt x.lostCnt, written := rcSum rc 0xFFFFFFFF e.written x.written }
def Ldg.fresh (x : Ldg) : Ldg := { x with mismatch := false, lost := false, lostCnt := 0, written := 0 }
def Arb.hold (rc : Bool) (e x : Arb) : Arb :=
  { x with
    classRej := e.classRej || x.classRej, wdBite := e.wdBite || x.wdBite, starve := e.starve ||| x.starve
    starveCnt := rcSum rc 0xFFFFFFFF e.starveCnt x.starveCnt, preempt := rcSum rc 0xFFFFFFFF e.preempt x.preempt
    bites := rcSum rc 0xFFFFFFFF e.bites x.bites, maxwait := if rc then max e.maxwait x.maxwait else e.maxwait }
def Arb.fresh (x : Arb) : Arb := { x with classRej := false, wdBite := false, starve := 0, starveCnt := 0, preempt := 0, bites := 0, maxwait := 0 }
def Hpt.hold (rc : Bool) (e x : Hpt) : Hpt :=
  { x with
    defer := rcSum rc 0xFFFFFFFF e.defer x.defer, fenced := rcSum rc 0xFFFFFFFF e.fenced x.fenced
    lbreak := rcSum rc 0xFFFFFFFF e.lbreak x.lbreak, herr := rcSum rc 0xFFFFFFFF e.herr x.herr, stray := rcSum rc 0xFFFFFFFF e.stray x.stray }
def Hpt.fresh (x : Hpt) : Hpt := { x with defer := 0, fenced := 0, lbreak := 0, herr := 0, stray := 0 }
def Sun.hold (rc : Bool) (e x : Sun) : Sun :=
  { x with
    miss := e.miss || x.miss, strideBound := e.strideBound || x.strideBound
    misses := rcSum rc 0xFFFFFFFF e.misses x.misses, refuse := rcSum rc 0xFFFFFFFF e.refuse x.refuse }
def Sun.fresh (x : Sun) : Sun := { x with miss := false, strideBound := false, misses := 0, refuse := 0 }
def DomSt.hold (rc : Bool) (e x : DomSt) : DomSt := { x with rfault := rcSum rc 0xFFFFFFFF e.rfault x.rfault }
def DomSt.fresh (x : DomSt) : DomSt := { x with rfault := 0 }
def TerSt.hold (rc : Bool) (e x : TerSt) : TerSt :=
  { x with
    noRes := e.noRes || x.noRes, jue := e.jue || x.jue, sdone := e.sdone || x.sdone, sfail := e.sfail || x.sfail
    takeovers := rcSum rc 0xFFFFFFFF e.takeovers x.takeovers, revivals := rcSum rc 0xFFFFFFFF e.revivals x.revivals
    jecc := rcSum rc 0xFFFF e.jecc x.jecc, juec := rcSum rc 0xFFFF e.juec x.juec
    clkstops := rcSum rc 0xFFFFFFFF e.clkstops x.clkstops, stopUs := rcSum rc 0xFFFFFFFF e.stopUs x.stopUs }
def TerSt.fresh (x : TerSt) : TerSt :=
  { x with noRes := false, jue := false, sdone := false, sfail := false, takeovers := 0, revivals := 0, jecc := 0, juec := 0, clkstops := 0, stopUs := 0 }
def CCnt.hold (rc : Bool) (e x : CCnt) : CCnt :=
  { x with
    rewind := e.rewind ||| x.rewind, gapDrop := e.gapDrop ||| x.gapDrop, flushed := e.flushed ||| x.flushed
    reqOvr := e.reqOvr || x.reqOvr, creditOvf := e.creditOvf || x.creditOvf, wdCut := e.wdCut || x.wdCut
    parErr := rcSum rc 0xFFFF e.parErr x.parErr, gdrop := mapV x.gdrop fun q k => rcSum rc 0xFFFFFFFF e.gdrop[q] k
    faults := rcSum rc 0xFFFF e.faults x.faults, cringFails := rcSum rc 0xFFFF e.cringFails x.cringFails
    entries := rcSum rc 0xFFFF e.entries x.entries, abandons := rcSum rc 0xFFFF e.abandons x.abandons
    wakes := rcSum rc 0xFFFFFFFF e.wakes x.wakes, lerrs := rcSum rc 0xFFFF e.lerrs x.lerrs }
def CCnt.fresh (x : CCnt) : CCnt := { lastArea := x.lastArea, lkind := x.lkind }
def TIn.hold (rc : Bool) (e x : TIn) : TIn :=
  { x with
    overrun := e.overrun || x.overrun, loop := e.loop || x.loop
    merged := rcSum rc 255 e.merged x.merged, loops := rcSum rc 255 e.loops x.loops, acts := rcSum rc 0xFFFFFFFF e.acts x.acts }
def TIn.fresh (x : TIn) : TIn := { x with overrun := false, loop := false, merged := 0, loops := 0, acts := 0 }
def LCh.hold (rc : Bool) (e x : LCh) : LCh :=
  { x with
    qs := mapV x.qs fun q u => { u with ringErr := e.qs[q].ringErr || u.ringErr }
    ins := mapV x.ins fun i t => e.ins[i].hold rc t }
def LCh.fresh (x : LCh) : LCh := { x with qs := mapV x.qs fun _ u => { u with ringErr := false }, ins := mapV x.ins fun _ t => t.fresh }

/-- The state with the whole value of every W1C field, and of every RC field with (`rc`) or without its advances since the latest aclk edge. -/
def State.held (rc : Bool) (s : State) : State :=
  let e := s.edge
  { s with
    gate := e.gate.hold s.gate, ldg := e.ldg.hold rc s.ldg, svc := e.svc.hold s.svc, arb := e.arb.hold rc s.arb, hpt := e.hpt.hold rc s.hpt
    sun := e.sun.hold rc s.sun, doms := mapV s.doms fun d x => e.doms[d].hold rc x, ters := mapV s.ters fun t x => e.ters[t].hold rc x
    phys := mapV s.phys fun p c => { c with c := e.phys[p].hold rc c.c }, lch := mapV s.lch fun n l => e.lch[n].hold rc l }

/-- The state as software sees it: its registers with all that was set or counted. -/
def State.whole (s : State) : State := s.held true

/-- The fields at an aclk edge: what came in the aclk that ends joins what stood before. -/
def State.latch (s : State) : State :=
  let w := s.whole
  { s with
    edge := ⟨w.gate, w.ldg, w.svc, w.arb, w.hpt, w.sun, w.doms, w.ters, mapV (Vector.replicate 136 {}) fun p _ => w.phys[p].c, w.lch⟩
    gate := s.gate.fresh, ldg := s.ldg.fresh, svc := s.svc.fresh, arb := s.arb.fresh, hpt := s.hpt.fresh
    sun := s.sun.fresh, doms := mapV s.doms fun _ x => x.fresh, ters := mapV s.ters fun _ x => x.fresh
    phys := mapV s.phys fun _ c => { c with c := c.c.fresh }, lch := mapV s.lch fun _ l => l.fresh }

/-- Software clears fields that stood at the latest aclk edge. -/
def State.modE (s : State) (f : Edge → Edge) : State := { s with edge := f s.edge }

/-- Software clears fields of a terrace. -/
def State.modET (s : State) (t : Ter) (f : TerSt → TerSt) : State := s.modE fun e => { e with ters := e.ters.set t (f e.ters[t]) }

/-- Software clears fields of a task input. -/
def State.modEI (s : State) (n : Log) (x : Fin 4) (f : TIn → TIn) : State :=
  s.modE fun e => { e with lch := e.lch.set n { e.lch[n] with ins := e.lch[n].ins.set x (f e.lch[n].ins[x]) } }

/-- The page of a physical channel starts anew: its counts and flags are 0 (R141, R155). -/
def State.newPage (s : State) (p : Phys) : State :=
  (s.modP p fun c => { c with c := {} }).modE fun e => { e with phys := e.phys.set p {} }

/-- A terrace has a fault source of TER_STAT (R530). -/
def TerSt.faulty (x : TerSt) : Bool := x.noRes || x.jue
/-- A terrace has a finished command to report (R658). -/
def TerSt.serviced (x : TerSt) : Bool := x.sdone || x.sfail

/-- A source of mg_irq_fault holds (R682). -/
def State.srcFault (s : State) : Bool :=
  s.gate.st == .failed || (s.sun.miss && s.sun.irqEn) || s.gate.dead ≠ 0 || s.ters.toList.any TerSt.faulty
/-- A source of mg_irq_starve holds (R682). -/
def State.srcStarve (s : State) : Bool := s.arb.starve ≠ 0 && s.arb.irqEn
/-- A source of mg_irq_ledger holds (R682). -/
def State.srcLedger (s : State) : Bool := s.ldg.irqEn && (s.ldg.mismatch || s.ldg.lost || s.ldg.keyErr)
/-- A source of mg_irq_service holds (R661, R682). -/
def State.srcService (s : State) : Bool := s.svc.done || s.svc.fail || s.ters.toList.any TerSt.serviced

/-- The sources of the four outputs, FAULT in bit 0 (R673). -/
def State.sources (s : State) : BitVec 4 :=
  BitVec.ofNat 4 (b2n s.srcFault + 2 * b2n s.srcStarve + 4 * b2n s.srcLedger + 8 * b2n s.srcService)

/-- A list of bits as a number, the first at bit 0. -/
def bitsOf : List Bool → Nat
  | [] => 0
  | b :: bs => b2n b + 2 * bitsOf bs

/-- GLB_IRQ (R673). -/
def State.glbIrq (s : State) : Nat :=
  s.irq.toNat + 2 ^ 8 * b2n (s.gate.st == .failed) + 2 ^ 9 * b2n (s.sun.miss && s.sun.irqEn)
    + 2 ^ 16 * bitsOf ((fins 8).map fun (t : Ter) => s.gate.dead.getLsbD t || (s.ters[t]).faulty)
    + 2 ^ 24 * bitsOf ((fins 8).map fun (t : Ter) => (s.ters[t]).serviced)

/-- GLB_SEC: 0 until image lock (R550, R551). -/
def State.glbSec (s : State) : Nat :=
  let g := s.gate
  if g.locked then b2n g.mode + 2 * b2n g.svcPath + 4 * b2n g.testOpen + 8 * b2n (!g.mode && !g.svcPath && !g.testOpen) else 0

end Sys2Proof.Machine
end

