-- ==== Sys2Proof/Machine/Start.lean ====
section
/-! DEFINITION. Starting a descriptor (R127, R128, R131, R264, R414) and reaching visible (R125): its slot, booking and chain fetch, what its operation finds at the start, and the credit of the link words it frees. -/

namespace Sys2Proof.Machine

/-- An outbound CREDIT returns the link words that are free: at least 8, or all once nothing is in flight (R63). A channel that does not serve sends none (R40, R514). -/
def State.creditOut (s : State) (n : Log) (q : Qn) : State :=
  let u := s.que n q
  if (s.runP n).isSome && (u.owed ≥ 8 || (u.owed > 0 && u.acc.all fun a => a.stage == .accepted)) then
    (s.modQ n q fun u => { u with wordCr := u.wordCr + u.owed, owed := 0 }).send n (.credit q u.owed)
  else s

/-- The data path of a queue runs and returns what it frees. -/
def State.flow (s : State) (n : Log) (q : Qn) : State :=
  let t := s.pump n q
  (((t.que n q).acc.foldl (fun t a => t.takeTidy n q a) t).creditOut n q).linkWait n q

/-- The 64-byte words of a payload in the link FIFO. -/
def payWords (l : List LEnt) : Nat := l.countP fun e => match e with
  | .word _ _ => true
  | .gap _ _ _ | .eop _ | .last => false

/-- A word of the list carries poison. -/
def anyPsn (l : List LEnt) : Bool := l.any fun e => match e with
  | .word _ p => p
  | .gap _ _ _ | .eop _ | .last => false

/-- A gap marker stands in the list. -/
def anyGap (l : List LEnt) : Bool := l.any fun e => match e with
  | .gap _ _ _ => true
  | .word _ _ | .eop _ | .last => false

/-- Requests pace the output of the descriptors of REQ_QUEUE that take no link input (R99 to R101). -/
def LCh.paces (l : LCh) (q : Qn) (d : Desc) : Bool :=
  l.port.reqQ == some q && !d.takesDeliver && (d.hostOut || d.linkOut)

/-- The execution state at a start. An INLINE takes its payload from the link FIFO as its output has room (R318); a LOCKED with a journaled outcome keeps the poison that it met (R466, R487). -/
def State.startX (s : State) (n : Log) (q : Qn) (a : Acc) : Exec :=
  { free := s.free
    allow := if s.lch[n].paces q a.d then some [] else none
    psnSeen := (a.d.op ≠ 0x04 && anyPsn a.payload) || (a.lk ≠ .none && a.x.psnSeen) }

/-- A WAIT is satisfied by an activation or latch of generation `g`: it is visible, and its promise is booked (R411, R469, R470). -/
def State.satisfy (s : State) (n : Log) (q : Qn) (id g : Nat) : State :=
  let u := s.que n q
  s.modA n q id fun a =>
    let a := { a with satA := some s.aclk, satGen := g, dg := max a.dg (g + 1), stage := .visible, visA := s.aclk }
    if u.cfg.res > 0 then s.bookAcc n a s.aclk else a

/-- The start of a WAIT (R469): one that finds the latch set clears it, and with CLEAR waits on; another that starts in the same aclk finds it set too. -/
def State.startWait (s : State) (n : Log) (q : Qn) (a : Acc) : State :=
  let x : Fin 4 := Fin.ofNat 4 (a.d.b 24)
  let t := s.tin n x
  if bit (a.d.b 25) 0 then s.modI n x fun t => { t with latch := none, spent := (t.latch.map fun g => (s.aclk, g)).orElse fun _ => t.spent }
  else match t.latch with
    | some g => (s.modI n x fun t => { t with latch := none, spent := some (s.aclk, g) }).satisfy n q a.id g
    | none => match t.spent with
      | some (k, g) => if k = s.aclk then s.satisfy n q a.id g else s
      | none => s

/-- The start of a PARTITION or BEDCLOSE (R283, R291); a replay restores the bed set as it stood at the first start (R297). -/
def State.startBed (s : State) (n : Log) (q : Qn) (a : Acc) : State :=
  let bed := (s.lch[n].bed).filter fun b => !(a.replayed && b.opener == some a.id)
  match startFail q a bed with
  | some t => s.modA n q a.id fun a => { a with x := { a.x with flt := some ⟨0, 3, t⟩, iflt := some ⟨0, 3, t⟩ } }
  | none =>
    if a.d.op = 0x28 then
      if a.opens then
        let old := ((s.lch[n].bed).map Bed.takes).getD []
        let b := { openBed q a.d a.id with takes := if a.replayed then old else [] }
        (s.modL n fun l => { l with bed := some b }).modA n q a.id fun a => { a with x := { a.x with pool := 1, forRow := true } }
      else if a.replayed then s
      else s.modL n fun l => { l with bed := l.bed.map fun b => { b with takes := [] } }
    else s

/-- The start of a LOCKED: a poisoned operand or a failed region check ends it before any transaction (R460, R462). -/
def State.startLocked (s : State) (n : Log) (q : Qn) (a : Acc) : State :=
  let blk := a.d.dst / 64 * 64
  if a.lk ≠ .none then s
  else if anyPsn a.payload then s.modA n q a.id fun a => { a with lk := .operand }
  else if s.regionOk (s.que n q).cfg.dom .lockRead blk then s
  else (s.regionFail n q .lockRead blk).modA n q a.id fun a => { a with lk := .region }

/-- A started LINKED descriptor has its member fetched, or a substitute in its place beyond CHAIN_MAX (R119, R121, R122). -/
def State.startChain (s : State) (n : Log) (q : Qn) (a : Acc) : State :=
  let u := s.que n q
  let nx := a.d.next % 2 ^ 52
  if !a.d.linked || a.fetched then s
  else if a.member + 1 > u.cfg.chainMax then
    let sub := { substitute a.seq (a.member + 1) a.dg 0x0D (.chain nx) with id := s.nextId, exempt := a.isWait }
    { (s.modQ n q fun u => { u with acc := insertAcc (u.late sub) (some a.id) (u.acc.map fun y => if y.id = a.id then { y with fetched := true } else y) }) with
      nextId := s.nextId + 1 }
  else
    let f : Fetch := { id := s.nextId, addr := nx, dg := a.dg, seq := a.seq, member := a.member + 1, after := a.id, exempt := a.isWait }
    { ((s.modQ n q fun u => { u with chain := some f }).modA n q a.id fun a => { a with fetched := true }) with nextId := s.nextId + 1 }

/-- The descriptor takes its slot: it is booked when its anchor is its start, a kick is consumed, and its payload words leave the link FIFO (R128, R131, R411, R414). -/
def State.takeSlot (s : State) (n : Log) (q : Qn) (a : Acc) (own : Bool) : State :=
  let u := s.que n q
  let fresh := a.retry || a.d.op == 0x29
  let a := if fresh then
      let k := u.recNo (u.before a.id).length
      { a with term := transferTerm s n q a.d k, safe := replaySafe s n q a.d k }
    else a
  let book := u.cfg.res > 0 && a.anchored && !a.isWait
  let touch := book && !recordOnly a.d (bedBits s n q a.d)
  let a := if book then { s.bookAcc n a s.aclk with anchored := false } else a
  let b := { a with stage := .started, own2 := own, startA := s.aclk, x := s.startX n q a }
  let t := (if fresh then s.charge n q a.d else s).modQ n q fun u =>
    let u := u.freedTo (u.modA a.id fun _ => b)
    let u := { u with kicks := if a.d.hold && !a.replayed then u.kicks - 1 else u.kicks }
    if touch then u.touchF b else u
  { (if own then t else t.modL n fun l => { l with rrSlot := (q + 1) % 4 }) with free := s.free + 1 }

/-- An error in the descriptor's words of the store (R326): it fails instead of starting. -/
def State.areaUpset (s : State) (n : Log) (p : Phys) (q : Qn) (id : Nat) : State :=
  (s.parErr p 4 1).modA n q id fun a =>
    { a with pre := some (0x0B, 0xFFFF), tagF := true, deadline := none }

/-- Elements of a vector group that its CMD payload put into the staging buffer with a parity error (R238, R326). -/
def State.groupUpset (s : State) (n : Log) (p : Phys) (q : Qn) (a : Acc) (bad : List (Fin 16)) : State :=
  if bad.isEmpty || !a.d.isVec || !(isLink a.d.a24 || (a.d.op = 0x19 && isLink a.d.src)) then s
  else (s.parErr p 3 bad.length).modA n q a.id fun a => { a with x := { a.x with badEls := a.x.badEls ++ bad.map Fin.val } }

/-- DESCRIPTOR_START (R127, R128): the head of the queue's start order starts. `upset.area`: its descriptor area has a parity error; `upset.bad`: elements that its CMD payload puts into the group staging buffer have one. -/
def execDescriptorStart (n : Log) (q : Qn) (upset : StartUpset) (s : State) : Res :=
  .next (s.withAwake n fun p =>
    match (s.que n q).head, s.slotFor n q with
    | some a, some own =>
      if !s.ready n q a then s
      else if upset.area then s.areaUpset n p q a.id
      else
        let t := s.takeSlot n q a own
        let t := match t.acc n q a.id with
          | none => t
          | some b =>
            let t := (t.startChain n q b).groupUpset n p q b upset.bad
            match b.d.op with
            | 0x28 | 0x29 => t.startBed n q b
            | 0x31 => t.startLocked n q b
            | 0x38 => t.startWait n q b
            | _ => t
        t.flow n q
    | _, _ => s)

/-- DESCRIPTOR_VISIBLE (R125): the descriptor has settled; the horizon falls when it was the last booked one (R416). -/
def execDescriptorVisible (n : Log) (q : Qn) (id : Nat) (s : State) : Res :=
  .next (s.withAwake n fun _ =>
    match s.acc n q id with
    | some a =>
      if a.stage == .started && a.settled s.lch[n].bed then
        s.modQ n q fun u => (u.modA id fun a => { a with stage := .visible, visA := s.aclk }).release id s.aclk
      else s
    | none => s)

end Sys2Proof.Machine
end

