-- ==== Sys2Proof/Machine/Retire.lean ====
section
/-! DEFINITION. Retirement (R120, R125, R130, R489 to R492): the record that is issued, what halts the queue, and the drain of queues and channels (R137 to R139, R643). -/

namespace Sys2Proof.Machine

/-- The event outputs in the order of R430. -/
abbrev OutN := Fin 4

/-- Events that output `e` of a logical channel has raised and not sent, and those its issued records owe (R431). -/
def LCh.backlog (l : LCh) (e : OutN) : Nat :=
  l.outs[e].length + (l.qs.toList.map fun u => u.recs.countP fun r => match e with
    | 0 => r.done
    | 1 => r.fault
    | 2 => r.group
    | 3 => false).sum

/-- The submission goes on after this descriptor: it started and is LINKED (R119 to R121). -/
def Acc.goesOn (a : Acc) : Bool := a.stage ≠ .accepted && a.runs && a.d.linked

/-- The head of the queue may retire: it is visible, or it retires unrun at its place (R125, R130, R244, R491). -/
def Que.mayRetire (u : Que) (a : Acc) : Bool :=
  a.stage == .visible || (a.stage == .accepted && !a.runs && (!a.frames || a.x.finSent || a.x.linkErr.isSome) && u.placed a)

/-- The issued record with the events and the acknowledgement that it owes (R69, R136, R173, R246). -/
def Que.mkRec (u : Que) (a : Acc) (o : Outc) (ack : Bool) (ord : Nat) : Rec :=
  { ord, n := u.rcnt, bytes := recordBytes a o, seq := a.seq, dg := a.dg, done := raisesDone a o, fault := o.isFault, group := raisesGroup a, ack }

/-- The retry position of a halt (R491, R493, R497). -/
def haltOf (a : Acc) (o : Outc) : Halt :=
  { seq := a.seq, bytes := a.bytes, tagF := a.tagF, cause := o.cause, indet := o.status == 0x11, dg := a.dg, origin := a.origin, member := a.member
    noRetry := !a.tagF && a.d.takesDeliver, dataIn := a.dataIn, loop := a.subst && o.cause == 0x0D
    rows := if a.d.op = 0x28 && a.runs then o.count else 0
    opened := a.d.op == 0x28 && a.runs && (a.reopen || bit (a.d.b 37) 0) && o.cause ≠ 3, fetched := a.fetched, exempt := a.exempt }

/-- The queue halts: its retry position is placed and STATUS HALTED is sent (R140, R417, R489 to R491). -/
def State.halt (s : State) (n : Log) (q : Qn) (a : Acc) (o : Outc) : State :=
  (s.modQ n q fun u => { u with
    st := .halted, halt := some (haltOf a o), fetches := []
    acc := u.acc.map fun y => if y.begun then y else { y with deadline := none } }).send n (.status q 2 a.seq o.cause)

/-- The fault policy after a record (R137, R488, R489). -/
def State.policy (s : State) (n : Log) (q : Qn) (a : Acc) (o : Outc) : State :=
  let u := s.que n q
  if !o.isFault || u.cfg.skip then s
  else match u.st with
    | .active => if u.halt.isNone then s.halt n q a o else s
    | .draining => s.modQ n q fun u => ({ u with fltDet := true } : Que).skipUnstarted
    | .disabled | .halted => s

/-- DATA_RETIRED acknowledgements leave in retirement order, held back while a retry position stands (R104, R499). -/
def State.dataRetired (s : State) (n : Log) (q : Qn) : State :=
  let u := s.que n q
  if u.halt.isSome then s
  else (s.modQ n q fun u => { u with dataAcks := [] }).over u.dataAcks fun s k => s.send n (.ack q k.1 2)

/-- The bed set that a Parterre descriptor leaves (R278, R287, R292, R296). -/
def bedAfter (a : Acc) (o : Outc) (bed : Option Bed) : Option Bed :=
  if !a.runs || a.stage == .accepted || a.x.flt.any (fun f => f.cause == 3) then bed
  else if a.d.op = 0x28 then bed.map (partCommit a)
  else if a.d.op = 0x29 && o.status = 0 then none
  else bed

/-- The rest of the declared input of a link-source descriptor that faulted while it executed (R706). -/
def Acc.leftover (a : Acc) (o : Outc) : List Nat :=
  if a.stage ≠ .accepted && a.runs && o.isFault && a.d.takesDeliver && !a.x.linEnd then
    [((declaredIn a.d a.x).getD 0) - linLen a.x.lin]
  else []

/-- The queue's counts after its head retires, with the link FIFO words of a payload that nothing took (R63, R120, R123, R491, R507). -/
def Que.retired (u : Que) (a : Acc) (o : Outc) (now ord : Nat) : Que :=
  let fresh := !a.retry && seqAfter a.seq u.lastRet
  let last := fresh && !a.goesOn
  let u := if a.stage == .visible then u else u.release a.id now
  { (u.freedTo { u with acc := u.acc.drop 1 }) with
    recs := u.recs ++ [u.mkRec a o (last && !u.cfg.ring) ord]
    rcnt := (u.rcnt + 1) % 2 ^ 32
    lastRet := if last then a.seq else u.lastRet
    members := if last then 0 else if fresh then u.members + 1 else u.members
    halt := if a.retry then none else u.halt
    qSeq := if o.isFault then a.seq else u.qSeq
    qCause := if o.isFault then o.cause else u.qCause
    qIndet := if o.isFault then o.status == 0x11 else u.qIndet
    dataAcks := if a.dataIn && !u.cfg.stream then u.dataAcks ++ [(a.seq, (declaredIn a.d a.x).getD (linLen a.x.lin))] else u.dataAcks
    hin := u.hin.filter fun h => h.1 ≠ a.id
    toDrop := u.toDrop ++ a.leftover o }

/-- The descriptors of a queue that are accepted and not retired; a retry position counts until it retires (R136, R491). -/
def Que.unretired (u : Que) : Nat := max u.acc.length (b2n u.halt.isSome)

/-- The channel's state once the head of a queue retires with outcome `o` and the fault policy has acted, its IDLE output aside (R130, R489 to R491). -/
def State.retireCore (s : State) (n : Log) (p : Phys) (q : Qn) (a : Acc) (o : Outc) : State :=
  let t := s.modL n fun l => { l with bed := bedAfter a o l.bed, retN := l.retN + 1 }
  let t := if a.d.isVec && a.stage ≠ .accepted then t.scrubPart n 4 false else t
  let t := if s.lch[n].bed.isSome && (bedAfter a o s.lch[n].bed).isNone then t.scrubPart n 320 true else t
  let t := t.modQ n q fun u => u.retired a o s.aclk s.lch[n].retN
  let t := if o.isFault then t.modC p fun c => { c with faults := satAdd 0xFFFF c.faults 1 } else t
  t.policy n q a o

/-- No queue of the logical channel holds an accepted, unretired descriptor (R136). -/
def LCh.drained (l : LCh) : Bool := l.qs.toList.all fun u => u.unretired = 0

/-- Room in the backlog of every output to which the retirement adds an event (R431); `t` is the state it leaves. -/
def State.roomToRetire (s : State) (n : Log) (a : Acc) (o : Outc) (t : State) : Bool :=
  let l := s.lch[n]
  (!raisesDone a o || l.backlog 0 < 64) && (!o.isFault || l.backlog 1 < 64) && (!raisesGroup a || l.backlog 2 < 64)
    && (!t.lch[n].drained || l.backlog 3 < 64)

/-- The head of a queue has retired, and IDLE is raised when nothing is left (R130, R136). -/
def State.retireEnd (s : State) (n : Log) (q : Qn) (a : Acc) : State :=
  let t := if s.lch[n].drained then s.modL n fun l => { l with outs := l.outs.set 3 (insertEvt ⟨a.dg, s.aclk, l.retN⟩ l.outs[3]) } else s
  (t.dataRetired n q).flow n q

/-- Parity errors in the verification of the scrubs of a group's staging buffer, or of the combining slots and the cursor table, that a retirement or a drain brings (R326, R333). -/
def State.partUpset (s : State) (p : Phys) (group bed : Bool) (upset : List (BitVec 11)) : State :=
  s.scrubUpset p (upset.filter fun w => (group && areaOf w.toNat = 3) || (bed && (areaOf w.toNat = 1 || areaOf w.toNat = 2)))

/-- DESCRIPTOR_RETIRE (R130): the head of the queue retires and its record is issued. `r.upset` are words that the scrub of the part of the store that it leaves verifies with a parity error (R326, R333). -/
def execDescriptorRetire (n : Log) (r : RetireOf) (s : State) : Res :=
  .next (s.withAwake n fun p =>
    let q := r.q
    let u := s.que n q
    match u.acc.head? with
    | some a =>
      let o := outcome a s.lch[n].bed
      let t := s.retireCore n p q a o
      if u.mayRetire a && s.roomToRetire n a o t then
        (t.retireEnd n q a).partUpset p (a.d.isVec && a.stage ≠ .accepted) (s.lch[n].bed.isSome && t.lch[n].bed.isNone) r.upset
      else s
    | none => s)

/-! ## Drains -/

/-- An enable event (R137): in a channel that leaves service or is out of it, a DISABLED queue latches it (R642, R644). -/
def State.enableQ (s : State) (n : Log) (q : Qn) (dg : Nat) : State :=
  let leaving := s.lch[n].oos || (match s.servP n with
    | some p => s.phys[p].st == .draining || s.phys[p].toDrain
    | none => false)
  s.modQ n q fun u =>
    if leaving && u.st == .disabled then if u.cfg.valid then { u with enp := true, enDg := max u.enDg dg } else u
    else u.enable dg

/-- The channel that serves `n` holds its queues' states: it runs, or it is DORMANT or wakes from there, where the control plane holds them (R445). -/
def State.heldP (s : State) (n : Log) : Option Phys :=
  (s.servP n).filter fun p => s.hrstN && s.vddCore && (s.phys[p].st ≠ .waking || s.phys[p].wakeFor == .dormant)

/-- QUEUE_DRAIN_COMPLETE (R138, R139, R445, R642): the first aclk after the drain began in which nothing accepted is left. -/
def execQueueDrainComplete (n : Log) (r : RetireOf) (s : State) : Res :=
  .next (match s.heldP n with
  | none => s
  | some p =>
    let q := r.q
    let u := s.que n q
    let off (t : State) : State := t.partUpset p false (s.lch[n].bed.isSome && t.lch[n].bed.isNone) r.upset
    if u.st == .draining && u.acc.isEmpty && u.chain.isNone && s.aclk > u.drainA then
      if s.phys[p].st == .draining then off ((s.disable n q).modQ n q fun v => { v with enp := u.enp, enDg := u.enDg })
      else if u.enp then s.modQ n q fun u => u.activate u.enDg
      else off (s.disable n q)
    else s)

/-- Every transaction that the channel posted has been answered or withdrawn (R643). -/
def State.quietHost (s : State) (p : Phys) : Bool :=
  s.phys[p].pend.isEmpty && s.slices.toList.all fun x =>
    x.out.all (·.phys ≠ p) && x.issue.all (·.phys ≠ p) && x.hold.all fun h => h.t.phys ≠ p

/-- The event backlogs of a logical channel are empty, and its records are visible (R643). -/
def LCh.noEvents (l : LCh) : Bool := ((fins 4).all fun e => l.backlog e = 0) && l.qs.toList.all fun u => u.recs.isEmpty

/-- The running command of a terrace ends (R658). -/
def State.svcEnd (s : State) (t : Ter) (ok : Bool) (result : Nat) : State :=
  s.modT t fun x => { x with cmd := none, sdone := x.sdone || ok, sfail := x.sfail || !ok, result }

/-- The running command `op` is done with logical channel `n`; it ends with the last one (R643). -/
def State.svcDone (s : State) (op : Nat) (n : Log) : State :=
  match s.ters[terL n].cmd with
  | some c =>
    if c.op = op && c.logs.contains n.val then
      let r := c.logs.filter (· ≠ n.val)
      if r.isEmpty then s.svcEnd (terL n) true 0 else s.modT (terL n) fun x => { x with cmd := some { c with logs := r } }
    else s
  | none => s

/-- The FIFOs of a queue whose store has been scrubbed: nothing is left in them (R111, R333, R548). -/
def Que.emptied (u : Que) : Que :=
  { u with link := [], mark := none, dropPkt := false, toDrop := [], hin := [], hinR := 0, hinRec := [], hout := [], houtR := 0, linkR := 0 }

/-- CHANNEL_DRAIN_COMPLETE (R145, R643): the channel returns to ACTIVE under ENABLE_PENDING; otherwise its store is scrubbed, link FIFO data that nothing took included, and it goes OFF. Parity errors of that scrub's verification would be counted in a page that the channel then loses (R326, R679). -/
def execChannelDrainComplete (p : Phys) (s : State) : Res :=
  let c := s.phys[p]
  match s.logOf p with
  | none => .next s
  | some n =>
    let l := s.lch[n]
    let drained := (fins 4).all fun q => (s.que n q).st == .disabled
    if c.st ≠ .draining || !drained || !s.hrstN || !s.vddCore then .next s
    else if c.chEnp then
      let t := ((s.modP p fun c => { c with st := .active, chEnp := false }).modL n fun l => { l with drain := false, outReq := none }).over (fins 4) fun s q => s.modQ n q fun u =>
        let v := { u with wasOn := false, enp := false, enDg := 0 }
        if u.cfg.valid && (u.wasOn || u.enp) then v.activate u.enDg else v
      .next (if (t.ters[terL n].cmd.any fun c => c.op == 1 && c.logs.contains n.val) then t.svcEnd (terL n) false 10 else t)
    else if s.quietHost p && l.noEvents && l.msg.isNone then
      let t := (s.newPage p).modP p fun c => { c with st := .off, scrub := false, scrubbed := true, quiet := 0 }
      let t := t.modL n fun l => { l with oos := true, reloaded := false, drain := false, outReq := none, qs := mapV l.qs fun _ u => u.emptied }
      let (a, all) := l.outReq.getD (s.aclk, false)
      let t := t.post 0x30 2 n (leBytes 1 p ++ leBytes 1 (b2n all) ++ leBytes 2 0 ++ leBytes 4 ((s.aclk - a) / 100))
      .next (t.svcDone 1 n)
    else .next s

end Sys2Proof.Machine
end

