-- ==== Sys2Proof/Machine/Rings.lean ====
section
/-! DEFINITION. Descriptor rings and chains (R113 to R119, R122): the producer index, the entries and members that return, and the wait after a refusal. -/

namespace Sys2Proof.Machine

/-- How far ring index `i` lies beyond FIDX. -/
def Que.off (u : Que) (i : Nat) : Nat := (i + 2 ^ 32 - u.fidx) % 2 ^ 32

/-- The generation of the PIDX read that first found entry `i` (R433). -/
def Que.foundDg (u : Que) (i : Nat) : Nat := ((u.found.find? fun r => u.off i < u.off r.1).map Prod.snd).getD 0

/-- How many entries from FIDX on the latest PIDX covers (R115). -/
def Que.shown (u : Que) : Nat := match u.found.getLast? with
  | some r => u.off r.1
  | none => 0

/-- A valid PIDX governs what is fetched: entries found before keep the generation of the read that found them (R115, R433). -/
def Que.show (u : Que) (v dg : Nat) : Que :=
  let keep := u.found.filter fun r => u.off r.1 < u.off v
  let g := ((u.found.find? fun r => u.off v ≤ u.off r.1).map Prod.snd).getD dg
  { u with found := if v = u.fidx then [] else keep ++ [(v, g)], fetches := u.fetches.filter fun f => u.off f.idx < u.off v }

/-- The next PIDX read, when a trigger waits for it (R114). -/
def PRd.next (r : PRd) : PRd := if r.want then { out := true, dg := r.wantDg } else {}

/-- PIDX_RETURN (R115, R116): a valid index governs what is fetched; any other sets RING_ERR and is posted. -/
def execPidxReturn (n : Log) (q : Qn) (s : State) : Res :=
  .next (s.withAwake n fun _ =>
    let u := s.que n q
    match u.prd.data with
    | none => s
    | some r =>
      let t := s.modQ n q fun u => { u with prd := u.prd.next }
      let v := r.getD 0xFFFFFFFF
      if r.isSome && u.off v ≤ 2 ^ u.cfg.ringLog then t.modQ n q fun w => w.show v u.prd.dg
      else
        (t.modQ n q fun w => { w with ringErr := true, found := [], fetches := [] }).post 0x23 1 n
          (leBytes 4 v ++ leBytes 4 u.fidx) q)

/-- What a fetch brought, as an entry of the queue's order: a checked descriptor, or a substitute (R122, R161). -/
def fetched (u : Que) (seq member dg : Nat) (o : Origin) (data : Option RWord × Nat) : Acc :=
  match data.1 with
  | none => substitute seq member dg data.2 o
  | some w =>
    if w.psn then substitute seq member dg 3 o
    else checked u { seq, member, dg, origin := o, bytes := w.bytes } false 0 false false

/-- A re-fetched descriptor of the queue's order has its bytes again (R493, R520). -/
def refilled (u : Que) (a : Acc) (data : Option RWord × Nat) : Acc :=
  let b := fetched u a.seq a.member a.dg a.origin data
  a.rerun { a with bytes := b.bytes, pre := b.pre, subst := b.subst, tagF := b.tagF, have_ := true }

/-- The first re-fetch of an origin that `ok` accepts has returned (R493). -/
def State.refill (s : State) (n : Log) (q : Qn) (ok : Origin → Bool) : Option State :=
  let u := s.que n q
  (u.refills.find? fun f => f.data.isSome && u.acc.any fun a => a.id == f.after && ok a.origin).map fun f =>
    (s.modQ n q fun u =>
      ({ u with refills := u.refills.filter fun g => g.id ≠ f.id } : Que).modA f.after fun a => refilled u a (f.data.getD (none, 2))).flow n q

/-- A ring origin. -/
def Origin.isRing : Origin → Bool
  | .ring _ => true
  | .cmd | .chain _ => false
/-- A chain origin. -/
def Origin.isChain : Origin → Bool
  | .chain _ => true
  | .cmd | .ring _ => false

/-- A refused copy is discarded and fetched again after the wait (R117). -/
def Fetch.again (f : Fetch) : Fetch := { f with posted := false, data := none }

/-- FIDX passes an accepted entry (R115). -/
def Que.passEntry (u : Que) (seq : Nat) : Que :=
  let i := (u.fidx + 1) % 2 ^ 32
  { u with fidx := i, lastAcc := seq, fetches := u.fetches.drop 1, found := u.found.filter fun r => r.1 ≠ i }

/-- RING_ENTRY_RETURN (R115, R117, R122): the next entry is accepted, refused, or becomes a substitute. -/
def execRingEntryReturn (n : Log) (q : Qn) (s : State) : Res :=
  .next (s.withAwake n fun _ =>
    match s.refill n q Origin.isRing with
    | some t => t
    | none =>
      let u := s.que n q
      match u.fetches with
      | [] => s
      | f :: fs => match f.data with
        | none => s
        | some d =>
          if u.st ≠ .active || u.refetch.isSome then s
          else
            let a := fetched u (f.idx % 65536) 0 f.dg (.ring f.idx) d
            match s.accept n q a none with
            | .inl t => (t.modQ n q fun u => u.passEntry a.seq).flow n q
            | .inr w => (s.refuse n q a.d).modQ n q fun u => { u with fetches := f.again :: fs, refetch := some (s.aclk + w) })

/-- CHAIN_MEMBER_RETURN (R119, R122): the member follows its predecessor directly, is refused, or becomes a substitute. -/
def execChainMemberReturn (n : Log) (q : Qn) (s : State) : Res :=
  .next (s.withAwake n fun _ =>
    match s.refill n q Origin.isChain with
    | some t => t
    | none =>
      let u := s.que n q
      match u.chain with
      | none => s
      | some f => match f.data with
        | none => s
        | some d =>
          if u.rechain.isSome then s
          else
            let a := { fetched u f.seq f.member f.dg (.chain f.addr) d with exempt := f.exempt }
            match s.accept n q a (some f.after) with
            | .inl t => (t.modQ n q fun u => { u with chain := none }).flow n q
            | .inr w => (s.refuse n q a.d).modQ n q fun u => { u with chain := some f.again, rechain := some (s.aclk + w) })

/-- REFETCH_EXPIRY (R117, R119, R415): the wait of a refused entry or member is over, which is a wake demand (R624). -/
def execRefetchExpiry (n : Log) (q : Qn) (s : State) : Res :=
  let u := s.que n q
  let due (o : Option Nat) : Bool := o.any fun t => s.aclk ≥ t
  let rest (o : Option Nat) : Option Nat := o.filter fun t => s.aclk < t
  when ((due u.refetch || due u.rechain) && (s.servP n).isSome) s
    ((s.modQ n q fun u => { u with refetch := rest u.refetch, rechain := rest u.rechain }).wake n)

end Sys2Proof.Machine
end

