-- ==== Sys2Proof/Machine/Post.lean ====
section
/-! DEFINITION. Posting to the pending queue (R368, R369, R402, R523): what a channel posts next for its rings, its started descriptors and its records, with the region check before it (R39, R538). -/

namespace Sys2Proof.Machine

/-- Two transactions carry one tag of one tag space (R337). -/
def Txn.sameTag (t : Txn) (p : Phys) (inc : Nat) (wr : Bool) (tag : Nat) : Bool :=
  t.phys == p && t.inc == inc && t.kind.isWrite == wr && t.tag == tag

/-- A local tag is free (R337). -/
def State.tagFree (s : State) (p : Phys) (inc : Nat) (wr : Bool) (tag : Nat) : Bool :=
  (!wr || tag < 64) && s.phys[p].pend.all (fun t => !t.sameTag p inc wr tag)
    && s.slices.toList.all fun x =>
      x.issue.all (fun t => !t.sameTag p inc wr tag) && x.out.all (fun t => !t.sameTag p inc wr tag)
        && x.hold.all fun h => !h.t.sameTag p inc wr tag

/-- The promised queues of a channel (R128, R369). -/
def LCh.promised (l : LCh) (q : Qn) : Bool := l.qs[q].cfg.valid && l.qs[q].cfg.res > 0

/-- Queue `q` has `k` pending entries free: its own two first, then the shared ones (R369). -/
def entryRoom (l : LCh) (pend : List Txn) (q : Qn) (k : Nat) : Bool :=
  let cnt (x : Qn) : Nat := pend.countP (fun t => t.q == x) + (if x = q then k else 0)
  let shared := ((fins 4).map fun x => if l.promised x then cnt x - 2 else cnt x).sum
  (l.promised q && cnt q ≤ 2) || shared + 2 * ((fins 4).filter l.promised).length ≤ 8

/-- The replay band's allowance (R523). -/
def State.band (s : State) (b : Bal) : Nat := min 400 (b.v + (s.sun.tokens - s.sun.promised) * (s.aclk - b.at_))

/-- A transaction on its way to the pending queue. -/
structure Req where
  q : Qn
  kind : Kind
  addr : Nat
  size : Nat := 64
  own : Own
  cells : List Cell := []
  vec : Bool := false
  exempt : Bool := false
  rep : Bool := false
  acc : Option Nat := none
  entries : Nat := 1
deriving DecidableEq, Repr

/-- The balance index of a request. -/
def Req.ix (r : Req) : Fin 32 := balIx (sliceOf r.addr) r.kind.isWrite

/-- The posting conditions of R357, R368, R369 and R402. -/
def State.mayQueue (s : State) (p : Phys) (n : Log) (r : Req) (tag : Nat) : Bool :=
  let c := s.phys[p]
  c.gate && s.tagFree p (s.inc n) r.kind.isWrite tag && entryRoom s.lch[n] c.pend r.q r.entries
    && (r.kind == .lockWrite || c.locked.isNone)
    && (r.exempt || (s.que n r.q).canDraw r.rep s.aclk r.ix r.size)

/-- What a request takes from its queue's replay credit, and so from the band of its slice (R418, R523). -/
def State.bandDraw (s : State) (n : Log) (r : Req) : Nat :=
  let u := s.que n r.q
  if u.cfg.res = 0 || r.exempt then 0 else u.fromCredit r.rep r.ix r.size

/-- A queue in the round robin of a replay band. -/
def bandKey (n : Log) (q : Qn) : Nat := 4 * n.val + q.val

/-- The queue still waits for the band: it holds replay credit there, and its descriptor executes again. -/
def State.asking (s : State) (ix : Fin 32) (y : Ask) : Bool :=
  let n : Log := Fin.ofNat 128 (y.key / 4)
  let q : Qn := Fin.ofNat 4 y.key
  (s.que n q).credit[ix] > 0 && (s.acc n q y.id).any fun a => a.replayed && a.stage == .started

/-- The request's turn at the replay band of its slice: no other queue that waits for it comes before, cyclically from the queue that drew last (R523). -/
def State.bandTurn (s : State) (n : Log) (r : Req) : Bool :=
  let x := s.slices[sliceOf r.addr]
  let far (k : Nat) : Nat := (k + 1023 - (if r.kind.isWrite then x.lastW else x.lastR)) % 512
  x.asks.all fun y => y.wr ≠ r.kind.isWrite || !s.asking r.ix y || far (bandKey n r.q) ≤ far y.key

/-- The replay band of its slice allows the request (R523). -/
def State.bandOk (s : State) (n : Log) (r : Req) : Bool :=
  let x := s.slices[sliceOf r.addr]
  let cr := s.bandDraw n r
  cr = 0 || (cr ≤ s.band (if r.kind.isWrite then x.bandW else x.bandR) && s.bandTurn n r)

/-- The posting conditions of R357, R368, R369, R402 and R523. -/
def State.mayPost (s : State) (p : Phys) (n : Log) (r : Req) (tag : Nat) : Bool := s.mayQueue p n r tag && s.bandOk n r

/-- A request that only the replay band holds back waits for its turn there (R523). -/
def State.askBand (s : State) (p : Phys) (n : Log) (r : Req) (tag : Nat) : State :=
  match r.acc with
  | some id =>
    let y : Ask := ⟨bandKey n r.q, id, r.kind.isWrite⟩
    if s.mayQueue p n r tag && !s.bandOk n r && !(s.slices[sliceOf r.addr].asks.contains y) then
      s.modS (sliceOf r.addr) fun x => { x with asks := x.asks ++ [y] }
    else s
  | none => s

/-- Add `k` at index `i` of a list of 32 tallies. -/
def tally (l : List Nat) (i k : Nat) : List Nat := updAt i (· + k) (if l.isEmpty then List.replicate 32 0 else l)

/-- The transaction enters the pending queue and draws its tokens (R368, R402, R418, R523). -/
def State.enter (s : State) (p : Phys) (n : Log) (r : Req) (tag : Nat) : State :=
  let u := s.que n r.q
  let t : Txn :=
    { phys := p, log := n, inc := s.inc n, q := r.q, kind := r.kind, addr := r.addr, size := r.size, tag, own := r.own, cells := r.cells
      postH := s.hclk, postA := s.aclk, prom := u.cfg.res > 0, vec := r.vec }
  let cr := s.bandDraw n r
  let sl := sliceOf r.addr
  let key := bandKey n r.q
  let rest (x : Slice) : List Ask := x.asks.filter fun y => !(y.key == key && y.wr == r.kind.isWrite)
  let s := s.modP p fun c => { c with pend := c.pend ++ [t], quiet := 0, stirA := some s.aclk }
  let s := if r.exempt then s else s.modQ n r.q fun u => u.draw r.rep s.aclk r.ix r.size
  let s := if cr = 0 then s
    else if r.kind.isWrite then s.modS sl fun x => { x with bandW := { v := s.band x.bandW - cr, at_ := s.aclk }, lastW := key, asks := rest x }
    else s.modS sl fun x => { x with bandR := { v := s.band x.bandR - cr, at_ := s.aclk }, lastR := key, asks := rest x }
  match r.acc with
  | some id => if u.cfg.res = 0 || r.exempt then s else s.modA n r.q id fun a => { a with drawn := tally a.drawn r.ix (tokens r.size) }
  | none => s

/-! ## Rings and records -/

/-- The PIDX read (R114, R116). -/
def State.postPidx (s : State) (p : Phys) (n : Log) (q : Qn) (tag : Nat) : State :=
  let u := s.que n q
  let r : Req := { q, kind := .read, addr := u.cfg.pidxAddr / 64 * 64, own := .pidx }
  if !u.prd.out || u.prd.posted then s
  else if !s.regionOk u.cfg.dom .read u.cfg.pidxAddr then
    (s.regionFail n q .read (u.cfg.pidxAddr / 64 * 64)).modQ n q fun u => { u with prd := { u.prd with posted := true, data := some none } }
  else if s.mayPost p n r tag then (s.enter p n r tag).modQ n q fun u => { u with prd := { u.prd with posted := true } }
  else s

/-- Where a fetch stands. -/
inductive FPlace where
  | refills | ring | chain
deriving DecidableEq, Repr

/-- Update a fetch by its serial. -/
def Que.modF (u : Que) (id : Nat) (f : Fetch → Fetch) : Que :=
  let g := updFirst (fun (x : Fetch) => x.id == id) f
  { u with refills := g u.refills, fetches := g u.fetches, chain := u.chain.map fun x => if x.id = id then f x else x }

/-- Post a fetch that stands in the queue, or fail it (R119, R122); the fetch at NEXT of a descriptor that executes again draws its replay credit (R418). -/
def State.postFetch (s : State) (p : Phys) (n : Log) (q : Qn) (f : Fetch) (own : Own) (acc : Option Nat) (tag : Nat) : Option State :=
  let u := s.que n q
  let r : Req := { q, kind := .read, addr := f.addr, own, exempt := f.exempt, acc, rep := acc.any fun id => (s.acc n q id).any Acc.replayed }
  if !s.regionOk u.cfg.dom .read f.addr then
    some ((s.regionFail n q .read f.addr).modQ n q fun u => u.modF f.id fun f => { f with posted := true, data := some (none, 1) })
  else if s.mayPost p n r tag then some ((s.enter p n r tag).modQ n q fun u => u.modF f.id fun f => { f with posted := true })
  else if acc.isSome then some (s.askBand p n r tag)
  else none

/-- The address of ring entry `i` (R113). -/
def QCfg.ringAt (c : QCfg) (i : Nat) : Nat := c.ringBase + 64 * (i % 2 ^ c.ringLog)

/-- A descriptor of the queue's order that must be fetched again, with its address (R493, R519). -/
def Que.lacks (u : Que) (ok : Origin → Bool) : Option (Acc × Nat) :=
  (u.acc.find? fun a => !a.have_ && !a.notRun && ok a.origin && u.refills.all fun f => f.after ≠ a.id).map fun a =>
    (a, match a.origin with
      | .ring i => u.cfg.ringAt i
      | .chain x => x
      | .cmd => 0)

/-- Post the re-fetch of a descriptor (R493, R519); that of a member of a WAIT is outside the regulator, as its fetch was (R402). -/
def State.postRefill (s : State) (p : Phys) (n : Log) (q : Qn) (ok : Origin → Bool) (own : Nat → Own) (tag : Nat) : Option State :=
  ((s.que n q).lacks ok).bind fun (a, ad) =>
    let f : Fetch := { id := s.nextId, addr := ad, after := a.id, exempt := a.exempt }
    ({ (s.modQ n q fun u => { u with refills := u.refills ++ [f] }) with nextId := s.nextId + 1 } : State).postFetch p n q f (own f.id) none tag

/-- Accepted ring entries that have not started; a substitute counts as retired with its acceptance (R115, R125). -/
def Que.waiting (u : Que) : Nat := u.acc.countP fun a => a.stage == .accepted && !a.retry && !a.subst && a.member == 0 && a.origin.isRing

/-- The next ring entry's fetch (R115, R126). -/
def State.postRing (s : State) (p : Phys) (n : Log) (q : Qn) (tag : Nat) : State :=
  match s.postRefill p n q Origin.isRing .ring tag with
  | some t => t
  | none =>
    let u := s.que n q
    if u.st ≠ .active || u.refetch.isSome then s
    else match u.fetches.find? fun f => !f.posted with
      | some f => (s.postFetch p n q f (.ring f.id) none tag).getD s
      | none =>
        let k := u.fetches.length
        if k < u.shown && k + u.waiting < u.cfg.fetchAhead && u.subs + k < 16 then
          let i := (u.fidx + k) % 2 ^ 32
          let f : Fetch := { id := s.nextId, idx := i, addr := u.cfg.ringAt i, dg := u.foundDg i }
          (({ (s.modQ n q fun u => { u with fetches := u.fetches ++ [f] }) with nextId := s.nextId + 1 } : State).postFetch p n q f (.ring f.id) none tag).getD s
        else s

/-- The fetch of a chain member (R119). -/
def State.postChain (s : State) (p : Phys) (n : Log) (q : Qn) (tag : Nat) : State :=
  match s.postRefill p n q Origin.isChain .ring tag with
  | some t => t
  | none =>
    let u := s.que n q
    match u.chain with
    | some f => if f.posted || u.rechain.isSome then s else (s.postFetch p n q f .chain (some f.after) tag).getD s
    | none => s

/-- A record whose write fails counts as seen, and owes FAULT in place of DONE (R485). R246 does not say whether a group whose record so never becomes visible raises GROUP: the model raises it (DESIGN CHOICE, log 41). -/
def State.cringFail (s : State) (n : Log) (p : Phys) (q : Qn) (k : Nat) : State :=
  match (s.que n q).recs.find? fun r => r.n == k with
  | some r =>
    let t := s.modQ n q fun u => { u with recs := updFirst (fun r => r.n == k) (fun r => { r with posted := true, seen := true, done := false, fault := true }) u.recs }
    (t.modC p fun c => { c with cringFails := satAdd 0xFFFF c.cringFails 1 }).post 0x24 1 n
      (leBytes 2 r.seq ++ leBytes 1 (field r.bytes 2 1) ++ leBytes 1 (field r.bytes 3 1)) q
  | none => s

/-- The backlogs have room for the events that a record owes (R431). -/
def LCh.roomFor (l : LCh) (r : Rec) : Bool :=
  (!r.done || l.outs[0].length < 64) && (!r.fault || l.outs[1].length < 64) && (!r.group || l.outs[2].length < 64)

/-- Records that are visible, with all before them, raise what they owe, once the backlogs have room, and are acknowledged (R69, R136, R146, R246, R431). -/
def seenRecs (n : Log) (q : Qn) : Nat → State → State
  | 0, s => s
  | fuel + 1, s =>
    match (s.que n q).recs with
    | r :: rs =>
      if !r.seen || !s.lch[n].roomFor r then s
      else
        let t := s.modL n fun l =>
          let put (b : Bool) (e : Fin 4) (o : Vector (List Evt) 4) : Vector (List Evt) 4 := if b then o.set e (insertEvt ⟨r.dg, s.aclk, r.ord⟩ o[e]) else o
          { (l.modQ q fun u => { u with recs := rs }) with outs := put r.done 0 (put r.fault 1 (put r.group 2 l.outs)) }
        seenRecs n q fuel (if r.ack then t.send n (.ack q r.seq 1) else t)
    | [] => s

/-- What visible records of a queue do. -/
def State.seeRecs (s : State) (n : Log) (q : Qn) : State := seenRecs n q (s.que n q).recs.length s

/-- The next completion record (R123). -/
def State.postRecord (s : State) (p : Phys) (n : Log) (q : Qn) (tag : Nat) : State :=
  let u := s.que n q
  match u.recs.find? fun r => !r.posted with
  | none => s
  | some r =>
    let a := u.cfg.recAt r.n
    let cells := r.bytes.zipIdx.map fun (b, i) => (⟨a + i, b, false, 0, true⟩ : Cell)
    let rq : Req := { q, kind := .write, addr := a / 64 * 64, own := .rcd r.n, cells, exempt := true }
    if !s.regionOk u.cfg.dom .write a then ((s.regionFail n q .write (a / 64 * 64)).cringFail n p q r.n).seeRecs n q
    else if s.mayPost p n rq tag then
      (s.enter p n rq tag).modQ n q fun u => { u with recs := updFirst (fun x => x.n == r.n) (fun x => { x with posted := true }) u.recs }
    else s

/-! ## Reads of started descriptors -/

/-- A read of a started descriptor joins its list. -/
def State.addRead (s : State) (n : Log) (q : Qn) (id : Nat) (r : RTx) : State :=
  s.modA n q id fun a => { a with x := { a.x with reads := a.x.reads ++ [r] } }

/-- The fault of a read that failed its region check or was answered ERR (R179, R222, R241, R259); a DIGEST meets it in its message order (R478) and a PARTITION in its row order (R287). When several list or value transactions of one vector group fail, R241 does not say which gives CAUSE and FAULT_VALUE: the one that is seen last does (DESIGN CHOICE, log 62). -/
def Acc.readFault (a : Acc) (cause lo addr stream : Nat) : Acc :=
  if a.d.isVec then
    if stream = 3 then a else { a with x := { a.x with flt := some ⟨0, cause, 0xFFFF⟩, iflt := some ⟨0, 0, addr⟩ } }
  else if a.d.op = 0x30 || a.d.op = 0x28 || 4 ≤ stream && stream < 8 then a
  else { a with x := a.x.inFault ⟨lo, cause, 0⟩ }

/-- A read of descriptor `a`: its region check, then its post. `after` marks the state once it is issued or failed. -/
def State.postRead (s : State) (p : Phys) (n : Log) (q : Qn) (a : Acc) (r : RPlan) (kind : Kind) (entries tag : Nat)
    (after : State → State) : State :=
  let u := s.que n q
  let x : RTx := { stream := r.stream, addr := r.addr, size := r.size, lo := r.lo, kind, st := .posted, data := [] }
  let rq : Req := { q, kind, addr := r.addr, size := r.size, own := .rd a.id a.x.reads.length, vec := a.d.isVec, rep := a.replayed, acc := some a.id, entries }
  if !s.regionOk u.cfg.dom kind r.addr then
    after (((s.regionFail n q kind r.addr).addRead n q a.id { x with st := .region }).modA n q a.id fun a => a.readFault 1 r.lo r.addr r.stream)
  else if s.mayPost p n rq tag then
    after ((s.enter p n rq tag).addRead n q a.id x)
  else s.askBand p n rq tag

/-- A descriptor has issued the host reads that it will take in order from the host-in FIFO, or its input has ended. -/
def Acc.readsOut (a : Acc) (bed : Option Bed) : Bool :=
  a.stage ≠ .started || !a.runs || a.x.flt.isSome || a.inputDone bed
    || (a.x.ri ≥ (if a.d.op = 0x12 then basePlan a.d a.x else readsOf a).length && (a.d.op ≠ 0x11 || a.x.marked.isSome))

/-- The host-in reads of a descriptor that may have to wait for earlier ones (a GATHER, a SCATTER, or one that requests pace) follow the reads of those, so that no queue waits for itself (R226; DESIGN CHOICE, log 25). -/
def Que.readTurn (u : Que) (a : Acc) (bed : Option Bed) : Bool :=
  !(a.d.op = 0x12 || a.d.op = 0x13 || a.x.allow.isSome) || (u.before a.id).all fun y => y.readsOut bed

/-- The next data read of a descriptor and its place in the plan (R179, R223, R273, R309). -/
def nextRead (a : Acc) : Option (Nat × RPlan) :=
  let plan := ((readsOf a).zipIdx.map fun (r, i) => (i, r)).drop a.x.ri
  if a.x.poolA.isSome || a.x.linkErr.isSome then none
  else match a.x.flt with
    | none => match lowest ((a.x.reads.filter fun r => r.st == .region || r.st == .err).map RTx.lo) with
      | some m => if a.d.op = 0x30 then none else if a.d.op = 0x28 then plan.find? fun x => x.2.lo < m else plan.head?
      | none => plan.head?
    | some f => if 0x10 ≤ a.d.op && a.d.op ≤ 0x13 then plan.find? fun x => x.2.lo < f.idx else none

/-- The next data read is issued (R174, R201, R211, R236). -/
def State.postData (s : State) (p : Phys) (n : Log) (q : Qn) (a : Acc) (tag : Nat) : State :=
  match (nextRead a).filter fun _ => (s.que n q).readTurn a s.lch[n].bed with
  | none => s
  | some (i, r) =>
    let k := a.x.reads.length
    (s.postRead p n q a r .read 1 tag fun t =>
      let posted := (t.acc n q a.id).any fun b => (b.x.reads[k]?).any fun y => y.st == .posted
      let t := t.modA n q a.id fun a => { a with x := { a.x with ri := i + 1 } }
      if posted && hostIn a.d r.stream then t.modQ n q fun u => { u with hin := u.hin ++ [(a.id, k)] } else t).flow n q

/-- The lock sequence of `a` begins (R357, R463, R464). -/
def State.seqBegin (s : State) (p : Phys) (q : Qn) (id : Nat) : State := s.modP p fun c => { c with locked := some (q, id) }

/-- The LOCK_READ of a LOCKED, its intent journaled first (R462). -/
def State.postLockRead (s : State) (p : Phys) (n : Log) (q : Qn) (a : Acc) (tag : Nat) : State :=
  if a.lk ≠ .none then s
  else s.postRead p n q a ⟨6, a.d.dst / 64 * 64, 64, 0⟩ .lockRead 2 tag fun t =>
    (t.seqBegin p q a.id).modA n q a.id fun a => { a with lk := .intent }

/-- Stack reads of a take that failed or returned are all there is: the take goes on (R269). -/
def State.stackCheck (s : State) (n : Log) (q : Qn) (id : Nat) : State :=
  match s.acc n q id with
  | some a =>
    let rs := a.x.reads.filter fun r => r.stream == 5
    if a.x.pool = 2 && rs.all (fun r => r.st ≠ .posted)
        && (rs.any (fun r => r.st == .region) || rs.length ≥ (stackReads a (s.bedOf n)).length) then s.stackDone n q a
    else s
  | none => s

/-- The next read of a chunk take (R269, R273). -/
def State.postTake (s : State) (p : Phys) (n : Log) (q : Qn) (a : Acc) (tag : Nat) : Option State :=
  let b := s.bedOf n
  let x := a.x
  let header (s : State) (a : Acc) : State :=
    s.postRead p n q a ⟨4, b.dst, 64, 0⟩ .read 1 tag fun t =>
      match (t.acc n q a.id).bind fun a => (a.x.reads.find? fun r => r.stream == 4).map fun r => (a, r) with
      | some (a, r) => if r.st == .region then t.headerDone n q a r else t
      | none => t
  match x.pool with
  | 0 => (takeWanted a b).map fun row =>
      let t := s.modA n q a.id fun a => { a with x := { a.x.dropPool with pool := 1, forRow := row } }
      match t.acc n q a.id with
      | some a =>
        let t' := header t a
        if (t'.acc n q a.id).any fun b => b.x.reads.length > a.x.reads.length then t' else { s with slices := t'.slices }
      | none => s
  | 1 => if x.reads.any fun r => r.stream == 4 then none else some (header s a)
  | 2 =>
    let k := (x.reads.filter fun r => r.stream == 5).length
    if x.reads.any fun r => r.stream == 5 && r.st == .region then none
    else ((stackReads a b)[k]?).map fun r => s.postRead p n q a r .read 1 tag fun t => t.stackCheck n q a.id
  | 3 =>
    if x.reads.any fun r => r.stream == 6 then none
    else some (s.postRead p n q a ⟨6, b.dst, 64, 0⟩ .lockRead 2 tag fun t =>
      match (t.acc n q a.id).bind fun a => a.x.reads.find? fun r => r.stream == 6 with
      | some r =>
        if r.st == .region then (t.modBed n fun b => b.lastTake .notTaken).takeFail n q a.id 1 4 else t.seqBegin p q a.id
      | none => t)
  | _ => none

/-- The next read of a started descriptor. -/
def State.postRd (s : State) (p : Phys) (n : Log) (q : Qn) (id tag : Nat) : State :=
  match s.acc n q id with
  | some a =>
    if a.stage ≠ .started || !a.runs then s
    else if a.d.op = 0x31 then s.postLockRead p n q a tag
    else if a.d.op = 0x28 then match s.postTake p n q a tag with
      | some t => t.flow n q
      | none => s.postData p n q a tag
    else s.postData p n q a tag
  | none => s

/-! ## Writes of started descriptors -/

/-- The output bytes that the requests served so far allow (R101). -/
def Acc.allowed (a : Acc) : Option Nat := a.x.allow.map fun l => l.getLast?.getD 0

/-- The next row of a PARTITION is in hand (R101). -/
def Acc.rowWaits (a : Acc) (bed : Option Bed) : Bool :=
  bed.any fun b =>
    let e := partEval a b
    e.why = .more && e.n < a.d.len && (match rowTuple a.d a.x e.n with
      | .error .pend => false
      | _ => true)

/-- The output that has been written, or allowed so far, when the plan's next write would be issued whole: a SCATTER, VSCATTER or BEDCLOSE writes a block of its destination at once, and waits until its requests cover it (R101, R211, R237; DESIGN CHOICE, log 62). -/
def Acc.need (a : Acc) (bed : Option Bed) (x : Nat × WPlan) : Nat := (((writesOf a bed).take x.1).map fun w => w.cells.length).sum + x.2.cells.length

/-- The next write of a descriptor that carries output below its lowest fault, with its place in the plan and its enabled bytes (R179, R189, R223, R287). -/
def nextWrite (a : Acc) (bed : Option Bed) : Option (Nat × WPlan) :=
  (((writesOf a bed).zipIdx.drop a.x.wi).map fun (w, i) => (i, { w with cells := enabled (a.below w.cells) })).find? fun x => !x.2.cells.isEmpty

/-- The output that the requests served so far allow, `m` bytes, has left; what was lost counts with it (R101, R707). -/
def Acc.requestDone (a : Acc) (bed : Option Bed) (m : Nat) : Bool :=
  if a.d.op = 0x28 then ((bed.map fun b => (partEval a b).placed).getD 0) * a.d.tw ≥ m
  else if a.d.isStream && a.d.op ≠ 0x13 then
    a.ev.outLen ≥ m && (if a.d.linkOut then (enabled a.ev.cells).all fun c => c.pos < a.x.outSent || m ≤ c.pos
      else (enabled ((a.ev.cells.take m).drop (issuedBytes a bed))).isEmpty)
  else true

/-- More output stands ready than the requests served so far allow (R101). -/
def Acc.moreOut (a : Acc) (bed : Option Bed) (m : Nat) : Bool :=
  if a.d.op = 0x28 then a.rowWaits bed
  else if a.d.isStream && a.d.op ≠ 0x13 then a.ev.outLen > m
  else (nextWrite a bed).any fun x => a.need bed x > m

/-- A pending request is served once the output allowed so far has left and more stands ready (R101); a LAST among the requests ends the output there (R103). -/
def State.serveReq (s : State) (n : Log) (q : Qn) (a : Acc) : State :=
  let l := s.lch[n]
  let bed := l.bed
  match a.x.allow, l.reqs with
  | some cuts, r :: rs =>
    let m := cuts.getLast?.getD 0
    let stop := r = 0 || rs.head? == some 0
    if ((s.que n q).acc.head?.map Acc.id) = some a.id && a.requestDone bed m && (a.moreOut bed m || r = 0) then
      (s.modL n fun l => { l with reqs := if r ≠ 0 && stop then rs.drop 1 else rs }).modA n q a.id fun a =>
        { a with x := { a.x with allow := some (if r = 0 then cuts else cuts ++ [m + r]), endAt := if stop then some (m + r) else a.x.endAt } }
    else s
  | _, _ => s

/-- The write may be issued now: no earlier write of a SCATTER to its block is open, and a PARTITION holds at most 768 (R101, R213, R273, R281). -/
def Acc.writeOpen (a : Acc) (bed : Option Bed) (w : WPlan) : Bool :=
  let busy (y : WTx) : Bool := y.st == .posted
  a.x.poolA.isNone
    && !(a.d.op = 0x13 && a.x.writes.any fun y => busy y && y.addr / 256 == w.addr / 256)
    && !(a.d.op = 0x28 && a.x.writes.countP busy ≥ 768)
    && (a.d.isStream && a.d.op ≠ 0x13 || a.d.op = 0x28 || match a.allowed with
      | some m => (nextWrite a bed).any fun x => x.2 == w && a.need bed x ≤ m
      | none => true)

/-- The LOCK_WRITE that ends a locked sequence (R269, R462). -/
def State.postLockWrite (s : State) (p : Phys) (n : Log) (q : Qn) (a : Acc) (tag : Nat) : State :=
  let b := s.bedOf n
  let cells := if a.d.op = 0x28 then takeCells b else match a.x.lockWord.bind (lockedNew a) with
    | some v => lockedCells a v
    | none => []
  let addr := (if a.d.op = 0x28 then b.dst else a.d.dst) / 64 * 64
  let rq : Req := { q, kind := .lockWrite, addr, own := .wr a.id 0, cells, rep := a.replayed, acc := some a.id }
  if s.mayPost p n rq tag then (s.enter p n rq tag).modA n q a.id fun a => { a with x := { a.x with lockPost := false } } else s.askBand p n rq tag

/-- The next write of a started descriptor (R174, R280, R538); one from the host-out FIFO is posted when its words stand there (R309, R315). -/
def State.postWr (s : State) (p : Phys) (n : Log) (q : Qn) (id tag : Nat) : State :=
  match s.acc n q id with
  | none => s
  | some a =>
    if a.stage ≠ .started || !a.runs then s
    else if a.x.lockPost then s.postLockWrite p n q a tag
    else
      let s := s.serveReq n q a
      let a := (s.acc n q id).getD a
      let bed := s.lch[n].bed
      match nextWrite a bed with
      | none => s
      | some (i, w) =>
        let j := (lowest (w.cells.map Cell.idx)).getD 0
        let lo := if a.d.op = 0x13 then scatterLo a.d a.x w.addr j else j
        let x : WTx := { addr := w.addr, size := w.size, lo, cells := w.cells, st := .posted }
        let rq : Req := { q, kind := .write, addr := w.addr, size := w.size, own := .wr a.id a.x.writes.length, cells := w.cells
                          vec := a.d.isVec, rep := a.replayed, acc := some a.id }
        let add (s : State) (x : WTx) : State :=
          s.modA n q id fun a => { a with x := { a.x with writes := a.x.writes ++ [x], wi := i + 1 } }
        let out (s : State) : State := if a.d.viaHout then s.modQ n q fun u => { u with hout := u.hout ++ [⟨id, a.x.writes.length, w.size / 64, false⟩] } else s
        if !a.writeOpen bed w || (a.d.viaHout && (s.que n q).houtHeld + w.size / 64 > 32) then s
        else if !s.regionOk (s.que n q).cfg.dom .write w.addr then
          ((add (s.regionFail n q .write w.addr) { x with st := .region }).modA n q id fun a => a.outFault bed ⟨lo, 1, 0⟩).flow n q
        else if s.mayPost p n rq tag then (out (add (s.enter p n rq tag) x)).flow n q
        else s.askBand p n rq tag

/-- The next transaction of a request is posted, once a tag, an entry and the regulator allow it (R368). -/
def State.postNext (s : State) (p : Phys) (n : Log) (rq : PostReq) (tag : Nat) : State :=
  match rq with
  | .pidx q => s.postPidx p n q tag
  | .ring q => s.postRing p n q tag
  | .chain q => s.postChain p n q tag
  | .rd q id => s.postRd p n q id tag
  | .wr q id => s.postWr p n q id tag
  | .record q => s.postRecord p n q tag

/-- Run `f` at hclk edge `h`, which is not before the latest one. -/
def State.atH (s : State) (h : Nat) (f : State → State) : State :=
  if s.hrstN && s.vddCore && s.hclk ≤ h then f { s with hclk := h } else s

/-- Run `f` at hclk edge `h` with the host-port pins in function (R697). -/
def State.atPins (s : State) (h : Nat) (f : State → State) : State := if s.tap.drives then s else s.atH h f

end Sys2Proof.Machine
end

