-- ==== Sys2Proof/Machine/Slices.lean ====
section
/-! DEFINITION. The slices (R335 to R399): grants with preemption and the staging path, presentation, the fence checks, lock leases and starvation. -/

namespace Sys2Proof.Machine

/-! ## The fence -/

/-- The transaction's incarnation is current and its physical channel serves its logical channel (R353). -/
def State.fresh (s : State) (t : Txn) : Bool := s.logOf t.phys == some t.log && s.inc t.log == t.inc

/-- A transaction is rejected or its response discarded by the fence (R353, R355, R356). -/
def State.fenced (s : State) (t : Txn) : State :=
  ({ s with hpt := { s.hpt with fenced := satAdd 0xFFFFFFFF s.hpt.fenced 1 } } : State).modL t.log fun l =>
    { l with fdrain := l.fdrain.map fun (o, c) => if o = t.inc then (o, c + 1) else (o, c) }

/-- The FENCE_DRAIN record of an incarnation change (R356). -/
def State.fenceDrained (s : State) (n : Log) (old count : Nat) : State :=
  s.post 0x15 0 n (leBytes 1 old ++ leBytes 1 ((old + 1) % 16) ++ leBytes 2 0 ++ leBytes 4 count)

/-- The old-incarnation transactions of `n` are all answered or gone: each change that waits posts its record (R356). -/
def State.endDrain (s : State) (n : Log) : State :=
  let l := s.lch[n]
  l.fdrain.foldl (fun t (x : Nat × Nat) => t.fenceDrained n x.1 x.2) (s.modL n fun l => { l with fdrain := [], fleft := 0 })

/-- An old-incarnation transaction has been answered; the last one posts FENCE_DRAIN (R356). -/
def State.drainStep (s : State) (n : Log) : State :=
  if s.lch[n].fleft ≤ 1 then s.endDrain n else s.modL n fun l => { l with fleft := l.fleft - 1 }

/-- The fence edge of an incarnation change of `n` (R25, R354, R356, R360, R371): the pending entries of `p` are purged and `n`'s locks break. -/
def State.fenceEdge (s : State) (n : Log) (p : Phys) : State :=
  let old := s.inc n
  let out : Nat := (s.slices.toList.map fun (x : Slice) => x.out.countP fun t => t.log == n).sum
  let t := { s with fence := s.fence.set n ((old + 1) % 16) }
  let t := t.modP p fun c => { c with pend := [] }
  let t := if out = 0 then t.fenceDrained n old 0 else t.modL n fun l => { l with fdrain := l.fdrain ++ [(old, 0)], fleft := out }
  t.over (fins 16) fun t sl => if t.slices[sl].lock.held && t.slices[sl].lock.owner = n.val then t.lockBreak sl 1 else t

/-! ## Granting -/

/-- The beats of a transaction (R338). -/
def Txn.beats (t : Txn) : Nat := t.size / 64

/-- A write that a promised write may preempt while it stages (R379). -/
def Txn.preemptible (t : Txn) : Bool := !t.prom && t.kind == .write && !t.vec

/-- The entry is that of transaction `t`. -/
def Txn.isEntry (e t : Txn) : Bool := e.sameTag t.phys t.inc t.kind.isWrite t.tag

/-- The entry leaves the pending queue for good; an unpromised wait counts in ARB_MAXWAIT (R371, R389, R391). -/
def State.leaves (s : State) (t : Txn) : State :=
  let s := s.modP t.phys fun c => { c with pend := dropFirst (fun e => e.isEntry t) c.pend }
  if t.prom then s else { s with arb := { s.arb with maxwait := min 0xFFFFFF (max s.arb.maxwait (t.presA - t.postA)) } }

/-- A transaction joins the issue positions in the order in which it becomes ready, and in grant order among those of one hclk (R372). -/
def insertReady (t : Txn) : List Txn → List Txn
  | [] => [t]
  | x :: xs => if t.readyH < x.readyH || (t.readyH = x.readyH && t.grantH ≤ x.grantH) then t :: x :: xs else x :: insertReady t xs

/-- The hclk in which `k` beats stage from hclk `t` on: a gap before a beat lets hclk pass, and at a count of 1,024 the watchdog stops the staging (R372, R392). -/
def beatTimes : Nat → Nat → Nat → List (Option Nat) → List Nat
  | 0, _, _, _ => []
  | k + 1, t, cnt, gs => match gs.head?.getD (some 0) with
    | none => []
    | some g => if cnt + g ≥ 1024 then [] else (t + g) :: beatTimes k (t + g + 1) 0 (gs.drop 1)

/-- The watchdog count that a channel brings to the staging path (R392). -/
def Slice.wdCount (x : Slice) (p : Phys) : Nat := ((x.wd.find? fun w => w.1 == p.val).map Prod.snd).getD 0

/-- The hclk in which the beats of the staging path's holder stage (R372). -/
def Slice.times (x : Slice) (y : Hold) : List Nat := beatTimes y.t.beats y.grantH (x.wdCount y.t.phys) y.gaps

/-- Posted words leave the host-out FIFO in posting order, once their beats and those of all posted before them have been accepted or the write has ended (R316, R317). -/
def Que.houtFree (u : Que) : Que :=
  { u with hout := u.hout.dropWhile HOut.done, houtR := u.houtR + ((u.hout.takeWhile HOut.done).map HOut.words).sum }

/-- The write at place `k` of descriptor `id` is finished for the host-out FIFO (R316). -/
def Que.houtDone (u : Que) (id k : Nat) : Que :=
  ({ u with hout := u.hout.map fun e => if e.id = id ∧ e.k = k then { e with done := true } else e } : Que).houtFree

/-- A write's beats are all accepted, or it has ended without: its words may leave the host-out FIFO (R316, R317). -/
def State.houtEnd (s : State) (t : Txn) : State :=
  match t.own with
  | .wr id k => if t.kind == .write then s.modQ t.log t.q fun u => u.houtDone id k else s
  | _ => s

/-- The staging path is free at the start of hclk `h` once the last beat of its write has staged (R372, R379). -/
def State.settle (s : State) (sl : SliceN) (h : Nat) : State :=
  match s.slices[sl].hold with
  | some x =>
    let ts := s.slices[sl].times x
    let e := ts.getLast?.getD 0 + 1
    if ts.length = x.t.beats && e ≤ h then
      let t := s.modS sl fun y => { y with
        hold := none, issue := insertReady { x.t with readyH := e } y.issue, wd := y.wd.filter fun w => w.1 ≠ x.t.phys.val }
      let t := if s.fresh x.t then t.houtEnd x.t else t
      if x.t.preemptible then t.leaves x.t else t
    else s
  | none => s

/-- Every staging path is as it stands at the start of hclk `h` (R371, R372). -/
def State.settled (s : State) (h : Nat) : State := (fins 16).foldl (fun s sl => s.settle sl h) s

/-- TRANSACTION_POST (R368): the channel posts the next transaction of the request, once a tag, an entry and the regulator allow it. -/
def execTransactionPost (p : Phys) (rq : PostReq) (tag : Fin 256) (h : Nat) (s : State) : Res :=
  .next (match s.logOf p with
    | none => s
    | some n => s.withAwake n fun _ => s.atH h fun s => (s.settled h).postNext p n rq tag)

/-- The requester number 4p + q (R375). -/
def Txn.requester (t : Txn) : Nat := 4 * t.phys + t.q

/-- The oldest entry of each requester at a slice (R370). -/
def State.oldest (s : State) (sl : SliceN) : List Txn :=
  (fins 136).flatMap fun p => (fins 4).filterMap fun q => s.phys[p].pend.find? fun t => t.q == q && sliceOf t.addr == sl

/-- The oldest entries that wait and are old enough to be granted in hclk `h` (R374, R378). -/
def State.aged (s : State) (sl : SliceN) (h : Nat) : List Txn :=
  (s.oldest sl).filter fun t => !t.granted && (t.postH + 2 ≤ h || (t.postH + 1 ≤ h && s.slices[sl].park == some t.requester))

/-- The lock is that of the transaction's own sequence (R358). -/
def SLock.ownedBy (k : SLock) (t : Txn) : Bool := k.held && k.owner == t.log.val && k.inc == t.inc && k.phys == t.phys.val

/-- The slice's lock holds the transaction back (R358). -/
def SLock.holds (k : SLock) (t : Txn) : Bool :=
  let hit := t.cells.any fun c => c.pos / 64 * 64 == k.block
  k.held && match t.kind with
    | .read => false
    | .lockRead => true
    | .write => hit
    | .lockWrite => hit && !k.ownedBy t

/-- Positions (`wr` false), or staging buffers, of a slice that are taken at the start of hclk `h`: all, and those of unpromised transactions. A staging buffer is taken until its last beat has left (R339, R372, R373). -/
def Slice.used (x : Slice) (h : Nat) (wr : Bool) : Nat × Nat :=
  let l := (x.issue ++ (x.hold.map Hold.t).toList).filter fun t => !wr || t.kind.isWrite
  let left : List Bool := if wr then (x.bufs.filter fun b => h ≤ b.1).map Prod.snd else ((x.lastP.filter fun y => h ≤ y.1).map Prod.snd).toList
  let out := left ++ ((x.cutP.filter fun y => y.1 = h).map Prod.snd).toList
  (l.length + out.length, l.countP (fun t => !t.prom) + out.countP (!·))

/-- An entry is eligible (R374); its age, order and fence check are known. -/
def State.eligible (s : State) (sl : SliceN) (h : Nat) (t : Txn) : Bool :=
  let x := s.slices[sl]
  let room (u : Nat × Nat) (all some_ : Nat) : Bool := u.1 < all && (t.prom || u.2 < some_)
  let (pos, freed, path) := match x.hold with
    | none => (x.used h false, 0, !(x.cutP.any fun y => y.1 = h))
    | some y => (x.used h false, 1, y.t.preemptible && t.prom)
  let b := x.used h true
  !(x.lock.holds t) && s.lch[t.log].fleft = 0 && room pos 8 6
    && (!t.kind.isWrite || (path && room (b.1 - freed, b.2 - freed) 4 3))

/-- The winner of a decision (R375). -/
def State.winner (s : State) (sl : SliceN) (cand : List Txn) : Option Txn :=
  let cls (t : Txn) : Nat := (s.que t.log t.q).cls
  let top := (cand.map cls).foldl max 0
  let start := s.slices[sl].rr[Fin.ofNat 8 top]
  let rank (t : Txn) : Nat := (t.requester + 544 - start) % 544
  (cand.filter fun t => cls t = top).foldl (fun o t => match o with
    | none => some t
    | some u => if rank t < rank u then some t else some u) none

/-- A write leaves without being written, and its words count as dropped (R317). -/
def State.abandonWrite (s : State) (t : Txn) : State :=
  match t.own with
  | .wr id k =>
    ((s.modA t.log t.q id fun a => { a with x := { a.x with
      gapSeen := true, dropped := a.x.dropped + t.beats, writes := updAt k (fun w => { w with st := .gone }) a.x.writes } }).houtEnd t).flow t.log t.q
  | _ => s

/-- The slice whose beat the channel takes in hclk `t`, in round robin among those that present one (R345). -/
def RdPort.pick (r : RdPort) (t : Nat) : Option Nat :=
  (((List.range 16).map fun i => (r.rr + i) % 16).find? fun sl => r.rin.any fun x => x.sl = sl ∧ x.next ≤ t)

/-- The channel takes beats, at most one in each hclk before `h` (R345). -/
def RdPort.run : Nat → Nat → RdPort → RdPort
  | 0, h, r => { r with h := max r.h h }
  | k + 1, h, r =>
    match lowest (r.rin.map RIn.next) with
    | none => { r with h := max r.h h }
    | some m =>
      let t := max r.h m
      if h ≤ t then r
      else match r.pick t with
        | none => r
        | some sl =>
          let l := (r.rin.map fun x => if x.sl = sl then { x with next := t + 1 + x.gaps.headD 0, left := x.left - 1, gaps := x.gaps.drop 1 } else x).filter fun x => x.left > 0
          run k h { rr := (sl + 1) % 16, h := t + 1, rin := l, took := (sl, t) :: r.took.filter fun x => x.1 ≠ sl }

/-- The read-data side of a channel at hclk `h`, with the beats of earlier hclk taken (R345). -/
def RdPort.upTo (r : RdPort) (h : Nat) : RdPort := r.run ((r.rin.map RIn.left).sum) h

/-- The hclk in which the lease of a slice's lock began, at hclk `h`: that in which the channel took the beat of the LOCK_READ response (R345, R359). -/
def State.leaseStart (s : State) (sl : SliceN) (h : Nat) : Option Nat :=
  let k := s.slices[sl].lock
  match k.leaseH with
  | some l => some l
  | none =>
    if !k.answered then none
    else
      let r := s.rdPorts[(Fin.ofNat 136 k.phys : Phys)].upTo h
      if r.rin.any fun x => x.sl = sl.val then none else (r.took.find? fun x => x.1 = sl.val).map Prod.snd

/-- The hclk without a beat that the watchdog counts against the staging path's holder (R392). -/
def Slice.idle (x : Slice) (h : Nat) : Nat :=
  match x.hold with
  | some y => match ((x.times y).filter (· < h)).getLast? with
    | some t => h - (t + 1)
    | none => x.wdCount y.t.phys + (h - y.grantH)
  | none => 0

/-- The staging of the path's holder is abandoned (R340); its watchdog count stays (R392). -/
def State.unstage (s : State) (sl : SliceN) (h : Nat) : State :=
  s.modS sl fun x => match x.hold with
    | some y => { x with hold := none, wd := (x.wd.filter fun w => w.1 ≠ y.t.phys.val) ++ (if x.idle h = 0 then [] else [(y.t.phys.val, x.idle h)]) }
    | none => x

/-- A promised write preempts the holder of the staging path (R380); without a mark the holder's transaction is abandoned (R317). What a channel that no longer serves had staged concerns no descriptor (R40, R353). -/
def State.preempt (s : State) (sl : SliceN) (h : Nat) : State :=
  match s.slices[sl].hold with
  | some y =>
    let t := s.unstage sl h
    let t := { t with arb := { t.arb with preempt := satAdd 0xFFFFFFFF t.arb.preempt 1 } }
    if y.t.noMark then
      let t := (t.modP y.t.phys fun c => { c with c := { c.c with rewind := c.c.rewind ||| (1#4 <<< y.t.q.val) } }).leaves y.t
      if s.fresh y.t then t.abandonWrite y.t else t
    else t.modP y.t.phys fun c => { c with pend := updFirst (fun e => e.isEntry y.t) (fun e => { e with granted := false }) c.pend }
  | none => s

/-- A stale entry is rejected at the grant-time check (R353). -/
def State.rejectStale (s : State) (sl : SliceN) (h : Nat) : State :=
  ((s.aged sl h).filter fun t => !s.fresh t).foldl (fun s t =>
    (s.modP t.phys fun c => { c with pend := dropFirst (fun e => e.isEntry t) c.pend }).fenced t) s

/-- The end of a LOCK_WRITE at its channel (R352). -/
def State.lockEnd (s : State) (t : Txn) (r : LwRsp) : State :=
  match t.own with
  | .wr id _ =>
    if (s.acc t.log t.q id).any fun a => a.d.op == 0x28 then (s.takeWritten t.log t.phys t.q id r).flow t.log t.q
    else (s.lockedWritten t.log t.phys t.q id r).flow t.log t.q
  | _ => s

/-- A LOCK_WRITE whose lock has broken is abandoned and answered LOCK_LOST (R360). -/
def State.lostLocks (s : State) (sl : SliceN) (h : Nat) : State :=
  ((s.aged sl h).filter fun t => t.kind == .lockWrite && !(s.slices[sl].lock.ownedBy t)).foldl (fun s t => (s.leaves t).lockEnd t .lost) s

/-- Writes that a lock holds back: their descriptors saw it (R420, R422). -/
def State.markHeld (s : State) (sl : SliceN) (h : Nat) : State :=
  ((s.aged sl h).filter fun t => t.kind == .write && s.slices[sl].lock.holds t).foldl (fun s t => match t.own with
    | .wr id _ => s.modA t.log t.q id fun a => { a with lockHeld := true }
    | _ => s) s

/-- A transaction is granted in hclk `h` (R358, R371, R372, R375); a write's mark is set at its first word (R315). -/
def State.grant (s : State) (sl : SliceN) (h : Nat) (gaps : List (Option Nat)) (t : Txn) : State :=
  let k := s.slices[sl].lock
  let g : Txn := { t with granted := true, noMark := false, presA := s.aclk, grantH := h, readyH := h + 1, hint := 0, broken := t.kind == .lockRead && k.broken }
  let s := if t.kind.isWrite && s.slices[sl].hold.isSome then s.preempt sl h else s
  let s := if t.preemptible then s.modP t.phys fun c => { c with pend := updFirst (fun e => e.isEntry t) (fun e => { e with granted := true, noMark := false, presA := s.aclk, hint := 0 }) c.pend }
    else s.leaves g
  let gaps := if s.phys[t.phys].gate then gaps else [none]
  s.modS sl fun x =>
    let y := if t.kind.isWrite then { x with hold := some { t := g, grantH := h, gaps } } else { x with issue := x.issue ++ [g] }
    let lock : SLock := match t.kind with
      | .lockRead => { held := true, cause := k.cause, owner := t.log, inc := t.inc, block := t.addr, tag := t.tag, phys := t.phys }
      | .lockWrite => { k with granted := true, endH := h, leaseH := s.leaseStart sl h }
      | .read | .write => k
    { y with lock, park := some t.requester, lastH := some h
             rr := y.rr.set (Fin.ofNat 8 (s.que t.log t.q).cls) ((t.requester + 1) % 544) }

/-- An entry ranks ahead of another under R375: a higher class, an earlier place in the round robin of its class, or the same requester's older entry. -/
def State.ahead (s : State) (sl : SliceN) (u t : Txn) : Bool :=
  let cls (t : Txn) : Nat := (s.que t.log t.q).cls
  let rank (t : Txn) : Nat := (t.requester + 544 - s.slices[sl].rr[Fin.ofNat 8 (cls t)]) % 544
  cls u > cls t || (cls u = cls t && (rank u < rank t || (u.requester = t.requester && !u.isEntry t)))

/-- The HINT of an entry for its slice in hclk `h`, among the eligible entries `cand` (R383). An entry that waits for `HINT` hclk is not granted before (R384): each eligible entry ahead takes a decision of its own. -/
def State.hintOf (s : State) (sl : SliceN) (h : Nat) (cand : List Txn) (t : Txn) : Nat :=
  let first := cand.filter fun u => s.ahead sl u t
  let x := s.slices[sl]
  let held := match x.hold with
    | some y => if (y.t.preemptible && t.prom) || y.t.isEntry t then 0 else y.t.beats - ((x.times y).filter (· < h)).length
    | none => 0
  let b := if t.kind.isWrite then held + ((first.filter fun u => u.kind.isWrite).map Txn.beats).sum else 0
  min 63 (max first.length b)

/-- The hints of hclk `h` go to the entries that wait at the slice; `u` is the state before the grant (R383). -/
def State.hints (s : State) (sl : SliceN) (h : Nat) (u : State) (cand : List Txn) : State :=
  { s with phys := mapV s.phys fun _ c => { c with
      pend := c.pend.map fun t => if sliceOf t.addr == sl && !t.granted then { t with hint := u.hintOf sl h cand t } else t } }

/-- SLICE_GRANT (R375): the slice takes its decision of hclk `h`. `stall` are the hclk without a beat that the granted write's channel lets pass before each beat (R392). -/
def execSliceGrant (sl : SliceN) (h : Nat) (stall : List (Option Nat)) (s : State) : Res :=
  .next (s.atH h fun s =>
    if s.slices[sl].lastH == some h then s
    else
      let s := (((s.settle sl h).rejectStale sl h).lostLocks sl h).markHeld sl h
      let cand := (s.aged sl h).filter fun t => s.fresh t && s.eligible sl h t
      match s.winner sl cand with
      | some t => (s.grant sl h stall t).hints sl h s cand
      | none => s.hints sl h s cand)

/-! ## Presenting -/

/-- A presented write without a response holds a LOCK_READ of its 256-byte block back (R358). -/
def Slice.blocks (x : Slice) (t : Txn) : Bool := t.kind == .lockRead && x.out.any fun y => y.kind.isWrite && y.addr / 256 == t.addr / 256

/-- The transaction is ready to present: a LOCK_READ waits for the presented writes of its block (R358, R372). -/
def Slice.readyAt (x : Slice) (h : Nat) (t : Txn) : Bool := t.readyH ≤ h && !x.blocks t

/-- The transaction that leaves in hclk `h`: the one that became ready first. A write is ready when it is staged, and holds those behind it back while hp_w is busy (R339, R372; DEDUCED, log 62). -/
def Slice.leaver (x : Slice) (h : Nat) : Option Txn := (x.issue.find? (x.readyAt h)).filter fun t => !t.kind.isWrite || x.wFree ≤ h

/-- LOCK_READs that a write response at `h` releases become ready then (R358, R372); `x` is the slice before it. -/
def Slice.unblock (x y : Slice) (h : Nat) : Slice :=
  let f := y.issue.filter fun t => x.blocks t && !y.blocks t && t.readyH < h
  { y with issue := f.foldl (fun l t => insertReady { t with readyH := h } l) (y.issue.filter fun t => !(f.contains t)) }

/-- Beat `i` of a write on hp_w: byte k travels in beat k div 64; a beat with a poisoned word, or whose word has a parity error in the store, carries hp_poison (R221, R326, R338, R341). -/
def Txn.beat (t : Txn) (upset : List (Fin 4)) (i : Nat) : WBeat :=
  let at_ (k : Nat) : Option Cell := t.cells.find? fun c => c.pos = t.addr + 64 * i + k
  { data := (List.range 64).map fun k => ((at_ k).map Cell.val).getD 0#8
    be := (List.range 64).map fun k => (at_ k).isSome
    poison := (t.cells.any fun c => c.psn && (c.pos - t.addr) / 64 = i) || upset.any fun u => u.val = i
    last := i + 1 = t.beats }

/-- The beats of a write in ascending order; a read has none (R336, R338). -/
def Txn.wbeats (t : Txn) (upset : List (Fin 4)) : List WBeat := if t.kind.isWrite then (List.range t.beats).map (t.beat upset) else []

/-- The area of a write's words in the store, where a parity error of theirs can arise: combining slots, the group staging buffer or the host-out FIFO (R308, R326). -/
def State.wrArea (s : State) (t : Txn) : Option Nat :=
  match t.own with
  | .wr id _ => if t.kind == .write then (s.acc t.log t.q id).map fun a => if a.d.isParterre then 1 else if a.d.isVec then 3 else 5 else none
  | _ => none

/-- Words of a write that had a parity error in the store: each is counted; their bytes are poisoned. The descriptor sets POISON_SEEN and its output counts as poisoned; a vector group's elements fail (R238, R326, R331, R486). -/
def State.wrUpset (s : State) (t : Txn) (area : Nat) (upset : List (Fin 4)) : State :=
  match t.own with
  | .wr id _ =>
    let bad (c : Cell) : Bool := upset.any fun i => (c.pos - t.addr) / 64 = i.val
    let els := (t.cells.filter bad).map Cell.idx
    (s.parErr t.phys area upset.length).modA t.log t.q id fun a => { a with x := { a.x with
      psnSeen := a.x.psnSeen || area ≠ 3
      badEls := if area = 3 then a.x.badEls ++ els else a.x.badEls
      badOut := if area = 5 || area = 0 then lowest (a.x.badOut.toList ++ els) else a.x.badOut
      badRows := if area = 1 then lowest (a.x.badRows.toList ++ els) else a.x.badRows } }
  | _ => s

/-- Beats of a write whose words had a parity error in the window buffer of a SCATTER (R221, R326). -/
def State.windowUpset (s : State) (t : Txn) (upset : List (Fin 4)) : List (Fin 4) :=
  match t.own with
  | .wr id _ => if t.kind == .write && (s.acc t.log t.q id).any fun a => a.d.op == 0x13 then upset.filter fun i => i.val < t.beats else []
  | _ => []

/-- TRANSACTION_PRESENT (R339, R353, R372): the first ready transaction leaves, unless the second fence check rejects it. A write's beats take hp_w from hclk `h.h` on, `h.stretch` hclk longer where hp_w_ready holds them back, and the request is accepted after `h.wait` hclk; `h.upset` and `h.window` are its beats whose store words had a parity error. A transaction that is rejected takes the slice's place to leave in its hclk (DESIGN CHOICE, log 62). -/
def execTransactionPresent (sl : SliceN) (h : PresentAt) (s : State) : Res :=
  .next (s.atPins h.h fun s =>
    let s := s.settle sl h.h
    let x := s.slices[sl]
    if x.lastP.any fun y => h.h ≤ y.1 then s
    else match x.leaver h.h with
      | none => s
      | some t =>
        let s := s.modS sl fun x => { x with issue := dropFirst (fun y => y.isEntry t) x.issue }
        if !s.fresh t then (s.modS sl fun x => { x with lastP := some (h.h, t.prom), bufs := if t.kind.isWrite then x.bufs ++ [(h.h, t.prom)] else x.bufs }).fenced t
        else
          let u := s.que t.log t.q
          let t := { t with presA := s.aclk }
          let bad := if (s.wrArea t).isSome then h.upset.filter fun i => i.val < t.beats else []
          let win := s.windowUpset t h.window
          let e := h.h + t.beats + h.stretch
          let s := s.modS sl fun x => { x with
            out := x.out ++ [t], lastP := some (h.h + h.wait, t.prom)
            bufs := if t.kind.isWrite then (x.bufs.filter fun b => h.h ≤ b.1) ++ [(e - 1, t.prom)] else x.bufs
            wFree := if t.kind.isWrite then e else x.wFree }
          let s := { s with
            hostOut := s.hostOut ++ [(sl, { t, dom := u.cfg.dom, sec := s.secOf u.cfg.dom, cls := u.cls, beats := t.wbeats (bad ++ win) })] }
          let s := if win.isEmpty then s else s.wrUpset t 0 win
          if bad.isEmpty then s else s.wrUpset t ((s.wrArea t).getD 5) bad)

/-! ## Leases and starvation -/

/-- LOCK_LEASE_EXPIRY (R359, R360): the lease has run for LEASE hclk. -/
def execLockLeaseExpiry (sl : SliceN) (h : Nat) (s : State) : Res :=
  .next (s.atH h fun s =>
    let k := s.slices[sl].lock
    match s.leaseStart sl h with
    | some l => if k.held && !k.granted && l + s.hpt.lease ≤ h then s.lockBreak sl 2 else s
    | none => s)

/-- STARVE (R389): an unpromised entry has waited for more than STARVE_LIMIT; once per entry. The wait of one that stages has ended at its grant, unless it is preempted. -/
def execStarve (p : Phys) (entry : Fin 8) (s : State) : Res :=
  match s.phys[p].pend[entry.val]? with
  | some t =>
    when (!t.prom && !t.starved && (if t.granted then t.presA else s.aclk) > t.postA + s.arb.limit) s
      (let u := s.modP p fun c => { c with pend := updAt entry (fun e => { e with starved := true }) c.pend }
       let u := { u with arb := { u.arb with
         starve := u.arb.starve ||| (1#512 <<< (4 * t.log.val + t.q.val)), starveCnt := satAdd 0xFFFFFFFF u.arb.starveCnt 1 } }
       u.post 0x21 1 t.log (leBytes 1 (sliceOf t.addr)) t.q)
  | none => .next s

end Sys2Proof.Machine
end

