-- ==== Sys2Proof/Machine/Responses.lean ====
section
/-! DEFINITION. Responses of the interconnect (R343 to R356): where read data lands, the return buffer, and what each response does for its descriptor, its queue's rings and its records. -/

namespace Sys2Proof.Machine

/-- TAG of R337. -/
def Txn.hpTag (t : Txn) : Nat := 4096 * t.phys + 256 * t.inc + t.tag

/-- The 64-byte words of a read. -/
def RTx.words (r : RTx) : Nat := r.size / 64

/-- The read at a place of a host-in queue. -/
def Que.readAt (u : Que) (x : Nat × Nat) : Option RTx := (u.acc.find? fun a => a.id == x.1).bind fun a => a.x.reads[x.2]?

/-- Words of a queue's host-in reads in state `st`; those of a held response that have moved stand in the FIFO (R347). -/
def Que.hinWords (u : Que) (st : RSt) : Nat :=
  (u.hin.map fun x => match u.readAt x with
    | some r => if r.st == .held then (if st == .held then r.words - r.moved else if st == .landed then r.moved else 0) else if r.st == st then r.words else 0
    | none => 0).sum

/-- A host-in read is the next in issue order: all before it have landed (R308, R346). -/
def Que.nextIn (u : Que) (x : Nat × Nat) : Bool :=
  (u.hin.takeWhile fun y => y ≠ x).all fun y => match u.readAt y with
    | some r => r.st ≠ .posted && r.st ≠ .held
    | none => true

/-- The words of a channel's return buffer that are in use (R346). -/
def LCh.returnUsed (l : LCh) : Nat := (l.qs.toList.map fun (u : Que) => u.hinWords .held).sum

/-- Free words of the host-in FIFO that the writer does not see yet in hclk `h`: some of those released in the last 3 hclk (R311, R312). -/
def State.hinStale (s : State) (n : Log) (q : Qn) (h : Nat) : Nat :=
  min (((s.que n q).hinRec.filter fun x => x.1 + 3 > h).map Prod.snd).sum (Config.hinLag s.free (512 * h + 4 * n.val + q.val))

/-- The writer sees room for `k` words in the host-in FIFO (R309, R311, R346). -/
def State.hinRoom (s : State) (n : Log) (q : Qn) (h k : Nat) : Bool := (s.que n q).hinWords .landed + s.hinStale n q h + k ≤ 32

/-- Where a response goes (R346): `none` is a refusal. -/
def State.landing (s : State) (n : Log) (q : Qn) (id k h : Nat) : Option RSt :=
  let u := s.que n q
  match u.hin.find? fun y => y == (id, k), u.readAt (id, k) with
  | some _, some r =>
    if u.nextIn (id, k) && s.hinRoom n q h r.words then some .landed
    else if s.lch[n].returnUsed + r.words ≤ 64 then some .held
    else none
  | _, _ => some .taken

/-- Words of a response that have a parity error in the store are taken with their poison tag set (R326). -/
def upsetWords (bad : List Nat) (l : List RWord) : List RWord := l.zipIdx.map fun (w, i) => { w with psn := w.psn || bad.contains i }

/-- The places of `upset` at which the store can hold an error of a read: the elements of a group staging buffer, or the words of a FIFO or window buffer (R326). -/
def badOf (vec store : Bool) (upset : List Nat) (data : List RWord) : List Nat :=
  if !store then [] else upset.filter fun i => i < (if vec then 16 else data.length)

/-- The read of a descriptor has its data at `st`, or an error (R222, R326, R352). -/
def State.readLands (s : State) (t : Txn) (id k : Nat) (st : RSt) (data : List RWord) (err : Bool) (upset : List Nat) : State :=
  let n := t.log
  let q := t.q
  let late := s.late t
  match (s.acc n q id).bind fun a => (a.x.reads[k]?).map fun r => (a, r) with
  | none => s
  | some (a, r) =>
    let fifo := st == .landed || st == .held
    let bad := badOf a.d.isVec (!err && (fifo || a.d.isVec || 8 ≤ r.stream)) upset data
    let s := if bad.isEmpty then s else s.parErr t.phys (if fifo then 5 else if a.d.isVec then 3 else 0) bad.length
    let st := if err then .err else st
    let data := if err || r.st == .flushed then [] else if a.d.isVec then data else upsetWords bad data
    let s := s.modA n q id fun a => { a with
      hostLate := a.hostLate || late
      x := { a.x with
        reads := updAt k (fun r => { r with st, data }) a.x.reads
        badEls := if a.d.isVec then a.x.badEls ++ bad else a.x.badEls
        psnSeen := a.x.psnSeen || (!fifo && data.any RWord.psn) } }
    if err then (s.modQ n q fun u => { u with hin := u.hin.filter fun y => y ≠ (id, k) }).modA n q id fun a => a.readFault 2 r.lo r.addr r.stream
    else s

/-- A LOCK_READ response starts the lease with the transfer of its beat, or ends the sequence with an ERR (R359). -/
def State.lockAnswered (s : State) (sl : SliceN) (t : Txn) (err : Bool) : State :=
  if s.slices[sl].lock.ownedBy t then
    if err then s.lockFree sl else s.modS sl fun x => { x with lock := { x.lock with answered := true } }
  else s

/-- What a read response does for its owner. -/
def State.readDone (s : State) (t : Txn) (st : RSt) (data : List RWord) (err : Bool) (upset : List Nat) : State :=
  let n := t.log
  let q := t.q
  let w : Option RWord := if err then none else data.head?
  match t.own with
  | .pidx => s.modQ n q fun u =>
    let v : Option Nat := w.bind fun w => if w.psn then none else some (field w.bytes (u.cfg.pidxAddr % 64) 4)
    { u with prd := { u.prd with data := some v } }
  | .ring id => s.modQ n q fun u => u.modF id fun f => { f with data := some (w, 2) }
  | .chain => s.modQ n q fun u =>
    let late := s.late t
    { u with
      chain := u.chain.map fun f => { f with data := some (w, 2) }
      acc := u.acc.map fun a => if late && u.chain.any (fun f => f.after == a.id && !f.exempt) then { a with hostLate := true } else a }
  | .rd id k =>
    let s := s.readLands t id k st data err upset
    let s := match s.acc n q id, ((s.acc n q id).bind fun a => a.x.reads[k]?) with
      | some a, some r =>
        if t.kind == Kind.lockRead then
          if a.d.op == 0x28 then s.takeRead n t.phys q id w (t.broken && !err) else s.lockedRead n t.phys q id w (t.broken && !err)
        else if r.stream = 4 then s.headerDone n q a r
        else if r.stream = 5 then s.stackCheck n q id
        else s
      | _, _ => s
    s.flow n q
  | .wr _ _ | .rcd _ => s

/-! ## The read-data side -/

/-- hp_r_ready of slice `sl` for a beat of physical channel `p` in hclk `h` (R345). -/
def State.rReady (s : State) (sl : SliceN) (p : Phys) (h : Nat) : Bool :=
  match (s.rdPorts[p].upTo h).pick h with
  | some x => x = sl.val
  | none => true

/-- The read-data channel of a slice still carries beats of an earlier response (R344). -/
def State.rBusy (s : State) (sl : SliceN) (h : Nat) : Bool :=
  s.slices[sl].rdP.any fun p => (s.rdPorts[p].upTo h).rin.any fun x => x.sl = sl.val

/-- A response presents `k` beats on a slice from hclk `h` on, with `gaps` between them (R343, R344). -/
def State.rBeats (s : State) (sl : SliceN) (p : Phys) (h k : Nat) (gaps : List Nat) : State :=
  let r := s.rdPorts[p].upTo h
  { (s.modS sl fun x => { x with rdP := some p }) with rdPorts := s.rdPorts.set p { r with rin := r.rin ++ [⟨sl, h, k, gaps⟩] } }

/-- READ_RESPONSE (R343 to R356): the response whose first beat is presented in hclk `h` is refused, discarded, counted as stray, or taken. `at_`: how its beats come, and which words have a parity error in the store. -/
def execReadResponse (sl : SliceN) (tag : BitVec 20) (data : List RWord) (resp : BitVec 2) (h : Nat) (at_ : RspAt) (s : State) : Res :=
  .next (s.atPins h fun s =>
    if s.rBusy sl h then s
    else match s.slices[sl].out.find? fun t => !t.kind.isWrite && t.hpTag == tag.toNat with
    | none => { s with hpt := { s.hpt with stray := satAdd 0xFFFFFFFF s.hpt.stray 1 } }
    | some t =>
      let err := resp ≠ 0
      if !err && data.length ≠ t.beats then s
      else
        let first (s : State) (defer : Bool) : State :=
          { (s.rBeats sl t.phys h (if defer then 1 else t.beats) at_.gaps) with rspOut := s.rspOut ++ [(sl, tag.toNat, defer)] }
        let gone (s : State) : State := s.modS sl fun x => { x with out := dropFirst (fun y => y.isEntry t) x.out }
        if s.inc t.log ≠ t.inc then ((gone (first s false)).fenced t).drainStep t.log
        else
          let land := match t.own with
            | .rd id k => s.landing t.log t.q id k h
            | _ => some .taken
          match land with
          | none =>
            let s := first s true
            { s with hpt := { s.hpt with defer := satAdd 0xFFFFFFFF s.hpt.defer 1 } }
          | some st =>
            let s := gone (first s false)
            let s := if err then { s with hpt := { s.hpt with herr := satAdd 0xFFFFFFFF s.hpt.herr 1 } } else s
            let s := if t.kind == Kind.lockRead then s.lockAnswered sl t err else s
            s.readDone t st data err at_.upset)

/-- RETURN_BUFFER_MOVE (R347): the next word of the queue's next held response moves into its host-in FIFO when there is room, at most one in each hclk; with its last word the response has landed. -/
def execReturnBufferMove (p : Phys) (m : MoveAt) (s : State) : Res :=
  .next (match s.logOf p with
    | none => s
    | some n => s.withRun n fun _ => s.atH m.h fun s =>
      let u := s.que n m.q
      if m.h < u.moveH then s
      else match u.hin.find? fun x => (u.readAt x).any fun r => r.st == .held with
      | some x =>
        if u.nextIn x && s.hinRoom n m.q m.h 1 then
          ((s.modA n m.q x.1 fun a => { a with x := { a.x with
            reads := updAt x.2 (fun r => { r with moved := r.moved + 1, st := if r.moved + 1 < r.words then .held else .landed }) a.x.reads } }).modQ n m.q fun u =>
            { u with moveH := m.h + 1 }).flow n m.q
        else s
      | none => s)

/-- What a write response does for its owner (R350, R352). -/
def State.writeDone (s : State) (sl : SliceN) (t : Txn) (err : Bool) : State :=
  let n := t.log
  let q := t.q
  let late := s.late t
  match t.own with
  | .wr id k =>
    let s := s.modA n q id fun a => { a with hostLate := a.hostLate || late }
    if t.kind == Kind.lockWrite then
      (if s.slices[sl].lock.ownedBy t then s.lockFree sl else s).lockEnd t (if err then .err else .ok)
    else
      let s := s.modA n q id fun a =>
        let a := { a with x := { a.x with writes := updAt k (fun w => { w with st := if err then .err else .ok }) a.x.writes
                                          psnSeen := a.x.psnSeen || t.cells.any Cell.psn } }
        if !err || a.d.isVec then a
        else match a.x.writes[k]? with
          | some w => a.outFault s.lch[n].bed ⟨w.lo, 2, 0⟩
          | none => a
      s.flow n q
  | .rcd m =>
    (if err then s.cringFail n t.phys q m
      else s.modQ n q fun u => { u with recs := updFirst (fun r => r.n == m) (fun r => { r with seen := true }) u.recs }).seeRecs n q
  | _ => s

/-- WRITE_RESPONSE (R350 to R356); a slice takes one in each hclk (R335). -/
def execWriteResponse (sl : SliceN) (tag : BitVec 20) (resp : BitVec 2) (h : Nat) (s : State) : Res :=
  .next (s.atPins h fun s =>
    if s.slices[sl].lastB == some h then s
    else
    let s := s.modS sl fun x => { x with lastB := some h }
    match s.slices[sl].out.find? fun t => t.kind.isWrite && t.hpTag == tag.toNat with
    | none => { s with hpt := { s.hpt with stray := satAdd 0xFFFFFFFF s.hpt.stray 1 } }
    | some t =>
      let err := resp ≠ 0
      let s := s.modS sl fun x => x.unblock { x with out := dropFirst (fun y => y.isEntry t) x.out } h
      if s.inc t.log ≠ t.inc then (s.fenced t).drainStep t.log
      else
        let s := if err then { s with hpt := { s.hpt with herr := satAdd 0xFFFFFFFF s.hpt.herr 1 } } else s
        s.writeDone sl t err)

end Sys2Proof.Machine
end

