-- ==== Sys2Proof/Machine/Trellis.lean ====
section
/-! DEFINITION. The Trellis (R429 to R457) and what runs on aclk alone: events, task inputs, activations, the end of a WAIT (R468 to R471) and of a pool wait (R273, R274). -/

namespace Sys2Proof.Machine

/-! ## Events -/

/-- A pending contribution: the aclk in which its line carries it, its ENABLE bit and its generation. -/
abbrev Contrib := Nat × Nat × Nat

/-- An event on a line reaches every input of the terrace that enables it (R437, R438): `bit_` is its ENABLE bit at each channel. -/
def State.line (s : State) (t : Ter) (at_ gen : Nat) (bit_ : Log → Option Nat) : State :=
  (logsOf t).foldl (fun s n => match bit_ n with
    | some b => s.modL n fun l => { l with ins := mapV l.ins fun _ i => if i.mask.getLsbD b then { i with contrib := i.contrib ++ [(at_, b, gen)] } else i }
    | none => s) s

/-- The ENABLE bit of output `e` of channel `m` at an input of channel `n` (R437). -/
def enableBit (m : Log) (e : Fin 4) (n : Log) : Option Nat :=
  let i := n.val % 16
  let j := m.val % 16
  if m = n || e = 3 then none else some (3 * (if j < i then j else j - 1) + e)

/-- EVENT_OUTPUT (R430, R431, R435, R444, R446): output `e` raises the oldest event of its backlog, at most one in an aclk, and first in the aclk after that in which its condition came to hold. A full backlog has room again for the event of a record that waited for it. -/
def execEventOutput (n : Log) (e : Fin 4) (s : State) : Res :=
  .next (s.withRun n fun _ =>
    let l := s.lch[n]
    match l.outs[e] with
    | [] => s
    | g :: gs =>
      if l.outA[e] == some s.aclk || s.aclk ≤ g.at_ then s
      else
        let t := s.modL n fun l => { l with outs := l.outs.set e gs, outA := l.outA.set e (some s.aclk) }
        let t := ({ t with evOut := if s.tap.drives then t.evOut else t.evOut ++ [(n, e, g.gen)] } : State).line (terL n) s.aclk g.gen (enableBit n e)
        if gs.length < 63 then t else (fins 4).foldl (fun t q => t.seeRecs n q) t)

/-! ## Activations -/

/-- External events of this aclk reach every input of `n` that enables their line (R437, R438); they count with the events that the fabric raised in the aclk before (R444). An unserved channel and one before lock ignore them (R445). -/
def State.extIn (s : State) (n : Log) (ext : List Ext) : State :=
  if ext.isEmpty || s.tap.drives || !s.gate.locked || s.aclk ≤ s.gate.lockA || s.map[n].isNone then s
  else s.modL n fun l => { l with ins := mapV l.ins fun _ i =>
    { i with contrib := i.contrib ++ (ext.filter fun x => i.mask.getLsbD (45 + x.line)).map fun x => (s.aclk - 1, 45 + x.line.val, x.gen.val) } }

/-- The contributions of the oldest aclk that are due at an input (R439, R444). -/
def TIn.due (t : TIn) (now : Nat) : List (Nat × Nat) :=
  match t.contrib.find? fun c => c.1 < now with
  | some c => (t.contrib.filter fun d => d.1 == c.1).map Prod.snd
  | none => []

/-- The contributions that stay for a later aclk. -/
def TIn.later (t : TIn) (now : Nat) : List Contrib :=
  match t.contrib.find? fun c => c.1 < now with
  | some c => t.contrib.filter fun d => d.1 ≠ c.1
  | none => t.contrib

/-- Contributions of generation 7 are dropped (R440). -/
def State.dropLoops (s : State) (n : Log) (x : Fin 4) (bad : List (Nat × Nat)) : State :=
  match lowest (bad.map Prod.fst) with
  | none => s
  | some b =>
    let t := s.modI n x fun i => { i with loops := satAdd 255 i.loops bad.length, loop := true }
    if (s.tin n x).loop then t else t.post 0x26 0 n (leBytes 1 x ++ leBytes 1 b)

/-- Steps 2 to 4 of R439: the input's state after the event `g` of `k` combined contributions, and the activation's generation, if one applies (R441, R442). -/
def TIn.rated (t : TIn) (now k : Nat) (g : Option Nat) : TIn × Option Nat :=
  let wait := t.lastAct.any fun a => now < a + t.rate
  let merged := k ≥ 2 || (g.isSome && t.heldGen.isSome)
  let gen := match g, t.heldGen with
    | some a, some b => some (max a b)
    | some a, none => some a
    | none, o => o
  let t := if merged then { t with merged := satAdd 255 t.merged 1 } else t
  if wait then ({ t with heldGen := gen }, none)
  else match gen with
    | some a => ({ t with heldGen := none, lastAct := some now, lastGen := a, acts := satAdd 0xFFFFFFFF t.acts 1 }, some a)
    | none => (t, none)

/-- The started WAITs of a logical channel on input `x` that wait. -/
def LCh.waitsOn (l : LCh) (x : Fin 4) : List (Qn × Acc) :=
  (fins 4).flatMap fun q => (l.qs[q].acc.filter fun a =>
    a.stage == .started && a.runs && a.isWait && a.satA.isNone && !a.timedOut && a.d.b 24 == x.val).map fun a => (q, a)

/-- A WAIT that found the latch set in the aclk of `now` takes the generation `g` of an activation of that aclk too (R469). -/
def Acc.joinSpent (a : Acc) (x : Fin 4) (now g : Nat) : Acc :=
  if a.isWait && a.d.b 24 == x.val && a.startA = now && a.satA = some now then
    { a with satGen := max a.satGen g, dg := max a.dg (g + 1) }
  else a

/-- An activation satisfies the WAITs that started before its aclk; otherwise it sets the wait latch, which the WAITs that started in its aclk find, also those that found it set already: its generation joins theirs (R468, R469). -/
def State.latchWait (s : State) (n : Log) (x : Fin 4) (g : Nat) : State :=
  let ws := (s.lch[n].waitsOn x).filter fun w => s.aclk ≤ w.2.startA + 100 * field w.2.d 28 4
  let old := ws.filter fun w => w.2.startA < s.aclk
  let same := (s.tin n x).spent.filter fun k => k.1 = s.aclk
  let hit (l : List (Qn × Acc)) : State := l.foldl (fun t w => t.satisfy n w.1 w.2.id g) s
  if !old.isEmpty then (hit old).modI n x fun i => { i with latch := none }
  else if ws.isEmpty && same.isSome then
    let t := s.modL n fun l => { l with qs := mapV l.qs fun _ u => { u with acc := u.acc.map fun a => a.joinSpent x s.aclk g } }
    t.modI n x fun i => { i with latch := none, spent := i.spent.map fun k => (k.1, max k.2 g) }
  else if ws.isEmpty then s.modI n x fun i => { i with latch := some (max (i.latch.getD 0) g) }
  else (hit (ws.filter fun w => !bit (w.2.d.b 25) 0)).modI n x fun i => { i with latch := none, spent := some (s.aclk, g) }

/-- OVERRUN of an input. -/
def State.overrun (s : State) (n : Log) (x : Fin 4) : State := s.modI n x fun i => { i with overrun := true }

/-- A release by HALT_ACTION, or `f` where it is NONE (R134, R492). -/
def State.haltAction (s : State) (n : Log) (x : Fin 4) (q : Qn) (g : Nat) (f : State → State) : State :=
  match (s.tin n x).haltAct with
  | 1 => s.release n q true (g + 1) (g + 1)
  | 2 => s.release n q false (g + 1) (g + 1)
  | _ => f s

/-- A pending kick (R131). -/
def State.countKick (s : State) (n : Log) (x : Fin 4) (q : Qn) (f : State → State) : State :=
  if (s.que n q).kicks ≥ 15 then s.overrun n x else f (s.modQ n q fun u => { u with kicks := u.kicks + 1 })

/-- What a KICK activation of generation `g` does to its queue (R134). -/
def State.kick (s : State) (n : Log) (x : Fin 4) (g : Nat) : State :=
  let t := s.tin n x
  let q := t.queue
  let pidx (s : State) : State := s.modQ n q fun u => u.trigger (g + 1)
  match (s.que n q).st, t.mode with
  | .disabled, 2 => s.enableQ n q (g + 1)
  | .disabled, _ => s
  | .active, 1 => s.countKick n x q pidx
  | .active, _ => pidx s
  | .draining, 1 => s.countKick n x q id
  | .draining, 2 => s.enableQ n q (g + 1)
  | .draining, _ => s
  | .halted, 1 => s.haltAction n x q g fun s => s.countKick n x q id
  | .halted, _ => s.haltAction n x q g id

/-- What a DRAIN activation does (R134). -/
def State.drainAct (s : State) (n : Log) : State :=
  (fins 4).foldl (fun s (q : Qn) =>
    if !bit (s.tin n 2).drainMask q then s
    else if (s.que n q).st == .draining then s.overrun n 2
    else s.drainReq n q) s

/-- An activation of generation `g` applies (R134, R445). -/
def State.activation (s : State) (n : Log) (x : Fin 4) (g : Nat) : State :=
  let t := s.latchWait n x g
  (if x = 2 then t.drainAct n else if x = 3 then t else t.kick n x g).wake n

/-- The held activation of an input may apply (R442). -/
def TIn.heldDue (t : TIn) (now : Nat) : Bool := t.heldGen.isSome && !(t.lastAct.any fun a => now < a + t.rate)

/-- A task input takes the contributions that are due, once in an aclk (R439); before lock they are ignored, and an unserved channel ignores them too, with a held activation whose time has come (R445). -/
def State.taskInput (s : State) (n : Log) (x : Fin 4) : State :=
  let t := s.tin n x
  if t.doneA == some s.aclk then s
  else if !s.gate.locked || s.aclk ≤ s.gate.lockA || s.map[n].isNone then s.modI n x fun i => { i with contrib := [], heldGen := if i.heldDue s.aclk then none else i.heldGen }
  else
    let all := t.due s.aclk
    let good := all.filter fun c => c.2 < 7
    let s := (s.modI n x fun i => { i with contrib := i.later s.aclk, doneA := if all.isEmpty && i.heldGen.isNone then i.doneA else some s.aclk }).dropLoops n x
      (all.filter fun c => c.2 ≥ 7)
    let r := (s.tin n x).rated s.aclk good.length (if good.isEmpty then none else some ((good.map Prod.snd).foldl max 0))
    let s := s.modI n x fun _ => r.1
    match r.2 with
    | some g => s.activation n x g
    | none => s

/-- An activation of this aclk is still due at an input. -/
def TIn.dueNow (t : TIn) (now : Nat) : Bool :=
  (t.contrib.any fun c => c.1 < now && c.2.2 < 7) || t.heldDue now

/-- The inputs that a channel applies before input `x` within one aclk (R135). -/
def inputsBefore (x : Fin 4) : List (Fin 4) :=
  match x with
  | 0 => [2]
  | 1 => [2, 0]
  | 2 => []
  | 3 => [2, 0, 1]

/-- The external events of the aclk arrive; the inputs before `x` that have something due apply first, then `x` (R135). -/
def State.taskInputs (s : State) (n : Log) (x : Fin 4) (ext : List Ext) : State :=
  ((inputsBefore x).foldl (fun s y =>
    if (s.tin n y).doneA ≠ some s.aclk && (s.tin n y).dueNow s.aclk then s.taskInput n y else s) (s.extIn n ext)).taskInput n x

/-- A KICK input. -/
def kickIn (b : Fin 2) : Fin 4 := ⟨b, by omega⟩

/-- KICK_DOORBELL (R134): a KICK input in DOORBELL mode. -/
def execKickDoorbell (n : Log) (b : Fin 2) (ext : List Ext) (s : State) : Res :=
  when ((s.tin n (kickIn b)).mode = 0) s (s.taskInputs n (kickIn b) ext)
/-- KICK_RELEASE (R131, R134): a KICK input in RELEASE mode. -/
def execKickRelease (n : Log) (b : Fin 2) (ext : List Ext) (s : State) : Res :=
  when ((s.tin n (kickIn b)).mode = 1) s (s.taskInputs n (kickIn b) ext)
/-- KICK_ENABLE (R134): a KICK input in ENABLE mode. -/
def execKickEnable (n : Log) (b : Fin 2) (ext : List Ext) (s : State) : Res :=
  when ((s.tin n (kickIn b)).mode = 2) s (s.taskInputs n (kickIn b) ext)
/-- DRAIN (R134). -/
def execDrain (n : Log) (ext : List Ext) (s : State) : Res := .next (s.taskInputs n 2 ext)
/-- WAKE (R134). -/
def execWake (n : Log) (ext : List Ext) (s : State) : Res := .next (s.taskInputs n 3 ext)

/-- RATE_HELD_APPLY (R442): a held activation applies in aclk a + RATE. -/
def execRateHeldApply (n : Log) (x : Fin 4) (ext : List Ext) (s : State) : Res :=
  let t := s.tin n x
  when (t.heldDue s.aclk) s (s.taskInputs n x ext)

/-! ## Waits -/

/-- WAIT_TIMEOUT (R469, R470): nothing satisfied the WAIT by aclk s + 100·WTIMEOUT. -/
def execWaitTimeout (n : Log) (q : Qn) (id : Nat) (s : State) : Res :=
  match s.acc n q id with
  | some a =>
    when (a.isWait && a.stage == .started && a.runs && s.aclk ≥ a.startA + 100 * field a.d 28 4
        && !((s.tin n (Fin.ofNat 4 (a.d.b 24))).dueNow s.aclk)) s
      ((s.modA n q id fun a =>
        let a := { a with timedOut := true, stage := .visible, visA := s.aclk }
        if (s.que n q).cfg.res > 0 then s.bookAcc n a s.aclk else a).wake n)
  | none => .next s

/-- The descriptor of a logical channel that waits for the pool (R273). -/
def LCh.poolWait (l : LCh) : Option (Qn × Acc) :=
  ((fins 4).flatMap fun q => (l.qs[q].acc.filter fun a => a.stage == .started && a.d.op == 0x28 && a.x.poolA.isSome).map fun a => (q, a)).head?

/-- POOL_REREAD (R273): a PARTITION that waits reads the header again, 100 aclk after the latest read. -/
def execPoolReread (n : Log) (s : State) : Res :=
  match s.lch[n].poolWait with
  | some (q, a) =>
    when (a.x.pool = 5 && s.aclk ≥ a.x.poolR + 100 && s.runs n) s
      (s.modA n q a.id fun a => { a with x := { a.x.dropPool with pool := 1 } })
  | none => .next s

/-- POOL_EMPTY (R273): the total wait of the descriptor has reached POOL_WAIT × 16 µs; the row that needed the chunk fails. -/
def execPoolEmpty (n : Log) (s : State) : Res :=
  match s.lch[n].poolWait with
  | some (q, a) =>
    when (s.runs n && a.x.pool ≠ 3 && a.x.pool ≠ 4 && a.x.poolUs + (s.aclk - a.x.poolA.getD s.aclk) ≥ field a.d 38 2 * 1600) s
      ((s.modA n q a.id fun a =>
        ({ a with x := a.x.inFault ⟨(partEval a (s.bedOf n)).n, 7, 0⟩ } : Acc).takeOver s.aclk).flow n q)
  | none => .next s

end Sys2Proof.Machine
end

