-- ==== Sys2Proof/Machine/Endpoint.lean ====
section
/-! DEFINITION. The link endpoint (R58 to R108, R319 to R325, R479, R705): inbound packets, the request lines, the link watchdog, and the packets that leave. -/

namespace Sys2Proof.Machine

/-! ## Arrival -/

/-- An inbound link error of kind `k` (R105, R676, R708). -/
def State.linkErr (s : State) (n : Log) (p : Phys) (k : Nat) (count : Nat := 1) : State :=
  let t := s.modC p fun c => { c with lerrs := satAdd 0xFFFF c.lerrs count, lkind := k }
  { t with linkIvl := t.linkIvl.set n (match t.linkIvl[n] with
      | none => some { at_ := s.aclk, count, a := 0, b := 0, c := 0, d := 0 }
      | some o => some { o with count := satAdd 0xFFFFFFFF o.count count }) }

/-- The cclk window of R92, in aclk: 4 cclk after lk_awake drops. -/
def State.inWindow (s : State) (p : Phys) : Bool := s.phys[p].entry > 0 && s.aclk < s.phys[p].entry - 1 + s.step1 (terP p)

/-- lk_awake is 1, or the 4 cclk of R92 still run. -/
def State.samples (s : State) (p : Phys) : Bool :=
  let c := s.phys[p]
  (c.st == .active || c.st == .draining) && (c.entry = 0 || s.inWindow p)

/-- A packet of `flits` flits, or a pulse, reaches the port of `n`: a sleeping channel counts each flit as an error, an entry in its window is abandoned (R92, R95, R144, R514, R640). -/
def State.inbound (s : State) (n : Log) (f : Phys → State → State) (flits : Nat := 1) : State :=
  if !s.hrstN || !s.vddCore || s.tap.drives then s
  else match s.servP n with
    | none => s
    | some p =>
      if !s.phys[p].gate then s
      else if s.samples p then f p (s.demand p)
      else s.linkErr n p 11 flits

/-- A pulse of a request line while lk_awake is 0 is discarded and counted, also in the window, whose entry it ends (R144, R626). -/
def State.onPulse (s : State) (n : Log) (f : Phys → State → State) : State :=
  s.inbound n fun p t => if s.phys[p].entry = 0 then f p t else t.linkErr n p 11

/-! ## The link FIFO -/

/-- The words of the link FIFO's area (R306). -/
def Que.linkWords (u : Que) : Nat := u.cfg.fifo - 64

/-- The newest entry of the link FIFO, when it is a gap marker that has not been released (R320, R321). -/
def Que.newest (u : Que) : Option Nat := u.mark.filter fun m => (markersOf u.fifo).contains m

/-- A dropped word joins the words that marker `m` counts, where it was lost; `bad`: the marker's store word then has a parity error (R320, R322). -/
def addGap (m : Nat) (bad : Bool) (l : List LEnt) : List LEnt :=
  match l.getLast? with
  | some (.gap n b k) => if k = m then l.dropLast ++ [.gap (satAdd 0xFFFFFFFF n 1) (b || bad) m] else l ++ [.gap 1 bad m]
  | _ => l ++ [.gap 1 bad m]

/-- Payload words under STREAM flow with `free` words free (R320, R321): the new list, the words dropped, and the newest marker. `old` is the marker that is the newest entry before them, `new` the one that they may write. Each word comes with whether the store word that it, or its marker, takes has a parity error (R322). -/
def streamIn : List (LEnt × Bool) → List LEnt → Nat → Option Nat → Nat → List LEnt × Nat × Option Nat
  | [], l, _, old, _ => (l, 0, old)
  | w :: ws, l, free, old, new =>
    if free ≥ 2 then streamIn ws (l ++ [w.1]) (free - 1) none new
    else
      let m := if free = 1 then new else old.getD new
      let r := streamIn ws (addGap m w.2 l) 0 (some m) new
      (r.1, r.2.1 + 1, r.2.2)

/-- The markers of a list that have a parity error (R322). -/
def badMarkers (l : List LEnt) : List Nat := l.filterMap fun e => match e with
  | .gap _ b m => if b then some m else none
  | .word _ _ | .eop _ | .last => none

/-- Markers `ms` are read with a parity error, wherever the words stood that they count (R322). -/
def spoiled (ms : List Nat) (l : List LEnt) : List LEnt := l.map fun e => match e with
  | .gap n b m => .gap n (b || ms.contains m) m
  | e => e

/-- Every word of the link FIFO's payloads and data goes through `f` (R320, R323). -/
def Que.mapFifo (u : Que) (f : List LEnt → List LEnt) : Que :=
  { u with
    link := f u.link
    acc := u.acc.map fun a => if a.inFifo.isEmpty then a else { a with payload := f a.payload }
    halt := u.halt.map fun h => { h with held := h.held.map fun a => { a with payload := f a.payload } } }

/-- A payload as 64-byte words with their poison; a word with a parity error in the store is taken with its tag set (R58, R303, R326). -/
def wordsOf (pay : List Byte) (psn : List Bool) (upset : List Nat) : List LEnt :=
  (chunksOf (pay.length + 1) 64 pay).zipIdx.map fun (w, i) => .word w (psn.getD i false || upset.contains i)

/-- Words with whether their store word has a parity error. -/
def marked (ws : List LEnt) (upset : List Nat) : List (LEnt × Bool) := ws.zipIdx.map fun (w, i) => (w, upset.contains i)

/-- Parity errors of FIFO words of a payload of `k` words are counted (R331). -/
def State.payUpset (s : State) (p : Phys) (k : Nat) (upset : List Nat) : State :=
  let c := upset.countP (· < k)
  if c = 0 then s else s.parErr p 5 c

/-- Words that STREAM flow dropped (R320, R331). -/
def State.gapDrop (s : State) (p : Phys) (q : Qn) (k : Nat) : State :=
  if k = 0 then s
  else s.modC p fun c => { c with gapDrop := c.gapDrop ||| (1#4 <<< q.val), gdrop := c.gdrop.set q (satAdd 0xFFFFFFFF c.gdrop[q] k) }

/-- Words that arrive against word credit (R62, R319). -/
def Que.useCredit (u : Que) (k : Nat) : Que := if u.cfg.stream then u else { u with wordCr := u.wordCr - min k u.wordCr }

/-! ## Commands -/

/-- NAK: the queue enters the discard state (R73, R74). R73 does not say which SEQ it waits for when a CMD with an old SEQ is answered so while it holds: the latest one (DESIGN CHOICE, log 62). -/
def State.nak (s : State) (n : Log) (q : Qn) (seq reason after : Nat) : State :=
  (s.modQ n q fun u => { u with discard := some seq }).send n (.nak q seq reason (min after 65535) (((s.que n q).lastAcc + 1) % 65536))

/-- Row 1 of R705: the discard state drops the CMD. -/
def Que.drops (u : Que) (seq : Nat) : Bool := u.discard.any fun k => seqAfter seq u.lastAcc && seq ≠ k

/-- The discard state ends with its CMD (R73). -/
def Que.took (u : Que) (seq : Nat) : Que := if u.discard = some seq then { u with discard := none } else u

/-- A CMD cut short: NAK FORMAT, or NAK PARITY with a mismatch in a body flit that came, unless it is discarded (R105, R106, R705). It counts as one link error, of the cut's kind (DESIGN CHOICE, log 62). -/
def State.nakCut (s : State) (n : Log) (cut : Option CutCmd) : State :=
  match cut with
  | some c => if (s.que n c.queue).drops c.seq.toNat then s else s.nak n c.queue c.seq.toNat (if c.par then 3 else 4) 0
  | none => s

/-- The payload words of a CMD that is not kept are returned, and those beyond the word credit counted (R62, R63, R319). -/
def State.dropPayload (s : State) (n : Log) (p : Phys) (q : Qn) (k : Nat) : State :=
  let u := s.que n q
  let s := if u.cfg.ring || u.cfg.stream || k ≤ u.wordCr then s else s.linkErr n p 15 (k - u.wordCr)
  (s.modQ n q fun u => if u.cfg.ring then u else (u.useCredit k).freeWords (min k u.wordCr)).creditOut n q

/-- A CMD's descriptor and payload as an entry: the checks of R161 and what the FIFO kept of the payload. -/
def cmdAcc (u : Que) (c : CmdPkt) (pay : List LEnt) (a : Acc) : Acc :=
  let b := checked u { a with bytes := c.desc, payload := pay, have_ := true } c.descPsn c.payload.length true (anyGap pay)
  if b.pre.isSome then { b with payload := [] } else b

/-- The payload of an accepted CMD enters the FIFO (R62, R320). -/
def State.takePayload (s : State) (n : Log) (p : Phys) (q : Qn) (c : CmdPkt) : State × List LEnt :=
  let u := s.que n q
  let ws := wordsOf c.payload c.psn c.upset
  let s := s.payUpset p ws.length c.upset
  if u.cfg.stream then
    let r := streamIn (marked ws c.upset) [] (u.linkWords - u.occ) u.newest (s.nextId + 1)
    let t := s.modQ n q fun u => { (u.mapFifo (spoiled (badMarkers r.1))) with mark := r.2.2 }
    (({ t with nextId := s.nextId + 1 } : State).gapDrop p q r.2.1, r.1)
  else (s.modQ n q fun u => { u.useCredit ws.length with mark := if ws.isEmpty then u.mark else none }, ws)

/-- A CMD that names a descriptor already accepted (R72, R82, R494): held for a retry, taken for a replay, or answered again. -/
def State.oldCmd (s : State) (n : Log) (p : Phys) (q : Qn) (c : CmdPkt) : State :=
  let u := s.que n q
  let seq := c.seq.toNat
  let k := ceilDiv c.payload.length 64
  let ack (s : State) : State := (s.modQ n q fun u => u.took seq).send n (.ack q seq 0)
  let missing (a : Acc) : Bool := !a.have_ && a.origin == .cmd && a.seq = seq && !a.notRun
  let hold := u.halt.any fun h => h.origin == .cmd && h.seq = seq && !h.released && h.held.isNone && !h.loop
  if hold then
    let (t, pay) := s.takePayload n p q c
    ack (t.modQ n q fun u => { u with halt := u.halt.map fun h => { h with held := some (cmdAcc u c pay { seq, origin := .cmd }) } })
  else match u.acc.find? missing with
    | some a =>
      let (t, pay) := s.takePayload n p q c
      let b := a.rerun (cmdAcc u c pay a)
      let t := t.modA n q a.id fun _ => b
      ((ack (if b.pre.isSome || b.notRun then t.modQ n q fun u => u.freeWords k else t)).flow n q)
    | none =>
      let t := ack s
      (if seqAfter seq u.lastRet then t else t.send n (.ack q u.lastRet 1)).dropPayload n p q k

/-- The framing fault of a CMD; a PAY_BYTES above 8,192 is a format error (R59). -/
def framing (c : CmdPkt) : CmdFault := if c.fault = .none && c.payload.length > 8192 then .format else c.fault

/-- A CMD with a good header (R705). Mismatching body flits of one CMD count as one link error (DESIGN CHOICE, log 62: R105 does not say whether each flit counts). -/
def State.command (s : State) (n : Log) (p : Phys) (c : CmdPkt) : State :=
  let q := c.queue
  let u := s.que n q
  let seq := c.seq.toNat
  let k := ceilDiv c.payload.length 64
  let fault := framing c
  let s := match fault with
    | .none => s
    | .parity => s.linkErr n p 3
    | .format => s.linkErr n p 5
    | .sop => s.linkErr n p 6
  let no (reason : Nat) : State := (s.nak n q seq reason 0).dropPayload n p q k
  if u.drops seq then s.dropPayload n p q k
  else match fault with
    | .parity => no 3
    | .format | .sop => no 4
    | .none =>
      if u.st == .disabled || u.cfg.ring then no 8
      else if !u.cfg.stream && k > u.wordCr then no 7
      else if !seqAfter seq u.lastAcc then s.oldCmd n p q c
      else if u.st == .draining then no 9
      else if u.st == .halted then no 5
      else if seq ≠ (u.lastAcc + 1) % 65536 then no 2
      else if (seq + 65536 - u.lastRet) % 65536 > u.cfg.window || u.subs ≥ 16 then no 6
      else
        let (t, pay) := s.takePayload n p q c
        let a := cmdAcc u c pay { seq, origin := .cmd }
        match t.accept n q a none with
        | .inr w => ((s.refuse n q a.d).nak n q seq 1 w).dropPayload n p q k
        | .inl t =>
          let t := t.modQ n q fun u => ({ u with lastAcc := seq, discard := none } : Que)
          ((if a.pre.isSome then t.modQ n q fun u => u.freeWords k else t).send n (.ack q seq 0)).flow n q

/-- CMD (R705). -/
def execCmd (n : Log) (c : CmdPkt) (s : State) : Res := .next (s.inbound n (fun p s => s.command n p c) (3 + ceilDiv c.payload.length 32))

/-! ## The end of a transfer -/

/-- A LAST ends the input of a descriptor: of the one whose input is open after the data received so far, unless that one has received none and the input of an earlier descriptor has just ended there (R102, R186). -/
def Que.lastEnds (u : Que) : Bool :=
  let full (a : Acc) : Nat := (declaredIn a.d a.x).getD (2 ^ 52)
  let wants := u.acc.filterMap fun a =>
    if a.runs && a.d.takesDeliver && !a.x.linEnd && full a > 0 then some (some a.id, full a - linLen a.x.lin) else none
  match inputLeft u.link (u.toDrop.map (fun r => (none, r)) ++ wants) false with
  | [] => false
  | (none, _) :: _ => true
  | (some i, r) :: _ => (u.before i).all (fun a => !a.d.takesDeliver) || u.acc.any fun a => a.id == i && r < full a

/-- A LAST stands behind the requests before it, and ends the output that they pace once they are served (R101, R103). -/
def LCh.queueLast (l : LCh) : LCh := if l.reqs.getLast? == some 0 then l else { l with reqs := l.reqs ++ [0] }

/-- A LAST that no descriptor takes yet waits with the requests before it for the one that they will pace (R101). -/
def State.queueLast (s : State) (n : Log) : State := s.modL n fun l => if l.reqs.isEmpty then l else l.queueLast

/-- A LAST applies (R101 to R103, R186): it ends the input of a link-source head after the data received so far, or the paced output of another after the requests received so far, which are served one by one before it; with requests that no descriptor takes yet, it waits for one. -/
def State.applyLast (s : State) (n : Log) : State :=
  let l := s.lch[n]
  match l.port.reqQ with
  | none => s
  | some q =>
    let u := s.que n q
    match u.acc.head? with
    | none => s.queueLast n
    | some a =>
      if a.d.takesDeliver then
        if u.lastEnds then (s.modQ n q fun u => { u with link := u.link ++ [.last] }).flow n q else s
      else if !l.paces q a.d then s.queueLast n
      else match a.x.allow with
        | some cuts =>
          if l.reqs.isEmpty then (s.modA n q a.id fun a => { a with x := { a.x with endAt := some (cuts.getLast?.getD 0) } }).flow n q
          else s.queueLast n
        | none => s.modL n LCh.queueLast

/-- A LAST that waited for the end of an open DELIVER applies (R102). -/
def State.lastWas (s : State) (n : Log) (late : Bool) : State := if late then s.applyLast n else s

/-- An open inbound packet of the port ends without being processed: what waited for its end goes on (R102, R323). -/
def State.packetGone (s : State) (n : Log) : State :=
  (s.modL n fun l => { l with lastPend := false, qs := mapV l.qs fun _ u => { u with dropPkt := false } }).lastWas n s.lch[n].lastPend

/-! ## Data and control packets -/

/-- The payload of an inbound DELIVER enters the link FIFO (R58, R62, R105, R319, R320); the words of one that was open at a FLUSH are discarded and counted by its marker, and its end stays (R323, R324). Words beyond the word credit are dropped and counted (R319). -/
def State.deliverWords (s : State) (n : Log) (p : Phys) (q : Qn) (ws : List LEnt) (upset : List Nat) (final : Bool) : State :=
  let u := s.que n q
  if u.dropPkt then
    let k := if u.cfg.stream then ws.length else min ws.length u.wordCr
    let room := u.newest.isSome || u.occ < u.linkWords
    let kept := b2n (room && u.newest.isNone && k > 0)
    let m := u.newest.getD (s.nextId + 1)
    let t := s.modQ n q fun u =>
      let v : Que := { u with dropPkt := false, link := (if k = 0 || !room then u.link else u.link ++ [.gap k (!upset.isEmpty) m]) ++ [.eop final] }
      { (if upset.isEmpty then v else v.mapFifo (spoiled [m])) with mark := if k = 0 || !room then u.mark else some m }
    let t : State := { t with nextId := s.nextId + 1 }
    let t := if k < ws.length then t.linkErr n p 15 (ws.length - k) else t
    (if u.cfg.stream then t else (t.modQ n q fun u => (u.useCredit ws.length).freeWords (k - kept)).creditOut n q).flow n q
  else if u.cfg.stream then
    let r := streamIn (marked ws upset) u.link (u.linkWords - u.occ) u.newest (s.nextId + 1)
    let t := s.modQ n q fun u => { (({ u with link := r.1 ++ [.eop final] } : Que).mapFifo (spoiled (badMarkers r.1))) with mark := r.2.2 }
    (({ t with nextId := s.nextId + 1 } : State).gapDrop p q r.2.1).flow n q
  else
    let k := min ws.length u.wordCr
    let t := s.modQ n q fun u => { (u.useCredit ws.length) with link := u.link ++ ws.take k ++ [.eop final], mark := if k = 0 then u.mark else none }
    (if k < ws.length then t.linkErr n p 15 (ws.length - k) else t).flow n q

/-- DELIVER_IN (R58, R164, R186): an inbound DELIVER is in the queue's FIFO at its eop. `psn` marks the words of which a flit carries psn or has a parity mismatch, `par` counts the flits that mismatch (R105); `upset` are the words whose store word, or marker, has a parity error (R322, R326). A PAY_BYTES above 8,192 is a format error (R59). -/
def execDeliverIn (n : Log) (q : Qn) (payload : List Byte) (psn : List Bool) (par : Nat) (final : Bool) (upset : List Nat) (s : State) : Res :=
  .next (s.inbound n (fun p s =>
    let s := if par = 0 then s else s.linkErr n p 4 par
    if payload.length > 8192 then (s.linkErr n p 5).packetGone n
    else
      let ws := wordsOf payload psn upset
      let s := s.payUpset p ws.length upset
      let s := if payload.isEmpty then s else s.noteInput n q
      let late := s.lch[n].lastPend
      ((s.modL n fun l => { l with lastPend := false }).deliverWords n p q ws upset final).lastWas n late)
    (1 + ceilDiv payload.length 32))

/-- CREDIT_IN (R61, R64). -/
def execCreditIn (n : Log) (q : Qn) (inc : BitVec 16) (s : State) : Res :=
  .next (s.inbound n fun p s =>
    let u := s.que n q
    let high := u.flitCr + inc.toNat > 65535
    let s := if high then (s.linkErr n p 9).modC p fun c => { c with creditOvf := true } else s
    (s.modQ n q fun u => { u with flitCr := satAdd 65535 u.flitCr inc.toNat }).linkWait n q)

/-- An inbound RESUME releases the halted descriptor that it names (R84, R492). -/
def State.resumed (s : State) (n : Log) (p : Phys) (q : Qn) (seq : Nat) (mode : RMode) : State :=
  let u := s.que n q
  if u.st == .halted && u.halt.any fun h => h.seq = seq then
    (s.release n q (mode == .retry) 0 0).flow n q
  else s.linkErr n p 10

/-- RESUME_IN (R84, R492). Within an aclk it applies before the channel's task inputs (R135): one that comes after an input has applied takes its turn in the next aclk. -/
def execResumeIn (n : Log) (q : Qn) (seq : BitVec 16) (mode : RMode) (s : State) : Res :=
  .next (s.inbound n fun p s =>
    if s.lch[n].ins.toList.any fun i => i.doneA == some s.aclk then s.modL n fun l => { l with resPend := l.resPend ++ [(q, seq.toNat, mode)] }
    else s.resumed n p q seq.toNat mode)

/-- The RESUMEs that waited for this aclk apply before its task inputs (R135). -/
def State.resumes (s : State) (n : Log) : State :=
  let l := s.lch[n].resPend
  if l.isEmpty then s
  else match s.servP n with
    | some p => l.foldl (fun s x => s.resumed n p x.1 x.2.1 x.2.2) (s.modL n fun l => { l with resPend := [] })
    | none => s.modL n fun l => { l with resPend := [] }

/-- Every queue of a port looks at its wait for flit credit. -/
def State.linkWaits (s : State) (n : Log) : State := (fins 4).foldl (fun s q => s.linkWait n q) s

/-- WAKE_READY (R96): the consumer is awake; a descriptor that waited longer than CONSUMER_WAKE notes it (R422). R97 does not speak of a WAKE READY that comes while a STATUS ASLEEP waits for the end of a message: it cancels the ASLEEP (DESIGN CHOICE, log 62). -/
def execWakeReady (n : Log) (s : State) : Res :=
  .next (s.inbound n fun _ s =>
    let l := s.lch[n]
    let late := l.wakeReq.any fun t => s.aclk - t > l.port.cwake
    let held (q : Qn) : Option Nat := (l.ready q).map fun r => r.1.id
    let s := if late then (fins 4).foldl (fun s q => match held q with
        | some id => s.modA n q id fun a => { a with consumer := true }
        | none => s) s else s
    (s.modL n fun l => { l with asleep := false, asleepPend := false, wakeReq := none }).linkWaits n)

/-- STATUS_ASLEEP (R96, R97): after an open message, if there is one. -/
def execStatusAsleep (n : Log) (s : State) : Res :=
  .next (s.inbound n fun _ s => s.modL n fun l => if l.msg.isSome then { l with asleepPend := true } else { l with asleep := true })

/-- The open link message of a port ends (R87, R97). -/
def State.msgEnd (s : State) (n : Log) : State :=
  s.modL n fun l =>
    { l with msg := none, asleep := l.asleep || l.asleepPend, asleepPend := false, qs := mapV l.qs fun _ u => { u with parked := none } }

/-- A descriptor fails on the link; a message that it has open is aborted (R87). -/
def State.linkFail (s : State) (n : Log) (q : Qn) (id off : Nat) : State :=
  let l := s.lch[n]
  let t := s.modA n q id fun a => a.linkFail l.bed off
  let t := if l.msg = some (q, id) then match s.acc n q id with
      | some a => ((t.modA n q id fun a => { a with x := { a.x with msgAbort := true } }).send n (.msgAbort q a.seq 2)).msgEnd n
      | none => t
    else t
  (t.flow n q).linkWaits n

/-- STATUS_LINK_ERR (R108): the operator reports an outbound packet of a descriptor that has not retired; one that executes again fails when its output has come to that packet. -/
def execStatusLinkErr (n : Log) (q : Qn) (seq : BitVec 16) (off : BitVec 32) (s : State) : Res :=
  .next (s.inbound n fun p s =>
    let s := s.linkErr n p 14
    match (s.que n q).acc.find? fun a => a.seq = seq.toNat && a.sends && a.x.linkErr.isNone && (a.x.finSent || a.x.outSent > 0 || a.x.began) with
    | some a => s.linkFail n q a.id off.toNat
    | none => match (s.que n q).acc.find? fun a => a.seq = seq.toNat && a.sends && a.x.linkErr.isNone && a.replayed with
      | some a => (s.modA n q a.id fun a => { a with failAt := some (match a.failAt with
          | some o => min o off.toNat
          | none => off.toNat) }).flow n q
      | none => s)

/-- The oldest DIGEST of a queue whose FINAL has left and whose verdict is outstanding (R479). -/
def Que.awaiting (u : Que) : Option Acc :=
  u.acc.find? fun a => a.stage == .started && a.d.op == 0x30 && a.x.finSent && a.verdict.isNone && a.x.linkErr.isNone

/-- VERDICT (R479): accepted within LINK_WD for the DIGEST that it names, or a link error. `code.dig` is the computed digest, which nothing uses; a DIG_LEN above 64 is a format error (R58, R59). -/
def execVerdict (n : Log) (q : Qn) (seq : BitVec 16) (code : VerdictBody) (par : Nat) (s : State) : Res :=
  .next (s.inbound n (fun p s =>
    let s := if par = 0 then s else s.linkErr n p 4 par
    if code.dig.length > 64 then s.linkErr n p 5
    else match (s.que n q).awaiting with
    | some a =>
      if a.seq = seq.toNat && !(a.x.finA.any fun t => s.aclk > t + s.lch[n].port.linkWd) then
        let late := a.x.finA.any fun t => s.aclk - t > s.lch[n].port.cwake
        s.modA n q a.id fun a => { a with verdict := some (min code.code.toNat 3), consumer := a.consumer || late }
      else s.linkErr n p 13
    | none => s.linkErr n p 13)
    (1 + ceilDiv code.dig.length 32))

/-- LAST_KIND of an inbound error (R676). -/
def lkindOf : LErr → Nat
  | .header => 1
  | .psnHeader => 2
  | .format => 5
  | .sopInside => 6
  | .noPacket => 7
  | .badType => 8
  | .asleep => 11

/-- LINK_ERROR (R105): the packet or flit is discarded and counted; a CMD that a second sop cut is answered. -/
def execLinkError (n : Log) (k : LErr) (cut : Option CutCmd) (s : State) : Res :=
  .next (s.inbound n fun p s =>
    if k = .asleep then s
    else
      let t := (s.linkErr n p (lkindOf k)).packetGone n
      if k = .sopInside then t.nakCut n cut else t)

/-! ## Request lines -/

/-- A pulse of SINGLE or BURST for `bytes` of output (R99, R100, R114). -/
def State.request (s : State) (n : Log) (p : Phys) (bytes : Nat) : State :=
  let l := s.lch[n]
  match l.port.reqQ with
  | none => s
  | some q =>
    let u := s.que n q
    if (u.acc.head?).any fun a => a.d.takesDeliver then s
    else if l.reqs.countP (· ≠ 0) ≥ 15 then s.modC p fun c => { c with reqOvr := true }
    else
      let t := s.modL n fun l => { l with reqs := l.reqs ++ [bytes] }
      if u.acc.isEmpty then t.modQ n q fun u => u.trigger 0 else t

/-- SINGLE (R99). -/
def execSingle (n : Log) (s : State) : Res := .next (s.onPulse n fun p s => s.request n p 64)
/-- BURST (R99). -/
def execBurst (n : Log) (s : State) : Res := .next (s.onPulse n fun p s => s.request n p s.lch[n].port.burst)

/-- LAST (R101 to R103): it applies at once, or after the inbound DELIVER that is open (`n.deliverOpen`). R102 does not speak of several LAST pulses while one DELIVER is open: they act as one, after its eop (DESIGN CHOICE, log 62). -/
def execLast (n : LastIn) (s : State) : Res :=
  .next (s.onPulse n.chan fun _ s =>
    if n.deliverOpen && s.lch[n.chan].port.reqQ.isSome then s.modL n.chan fun l => { l with lastPend := true } else s.applyLast n.chan)

/-- The words that a FLUSH drops from the host-out FIFO of a started descriptor: its formed output and its posted writes without a grant (R308, R323). -/
def State.flushOut (s : State) (n : Log) (p : Phys) (q : Qn) (a : Acc) : State :=
  if !a.d.viaHout then s
  else
    let gone := s.phys[p].pend.filter fun t => !t.granted && t.kind == .write && (match t.own with
      | .wr id _ => id == a.id && t.q == q
      | _ => false)
    let u := s.que n q
    let bed := s.lch[n].bed
    let k0 := issuedBytes a bed
    let out := a.formed bed
    let k1 := k0 + fitCells (u.houtRoom a bed) out
    let words := (gone.map Txn.beats).sum + min (u.houtRoom a bed) (a.formedWords bed)
    let t := s.modP p fun c => { c with pend := c.pend.filter fun e => !(gone.any fun t => e.isEntry t) }
    let t := t.modQ n q fun u =>
      ({ u with hout := u.hout.filter fun e => !(gone.any fun t => t.own == .wr e.id e.k) } : Que).houtFree
    t.modA n q a.id fun a => { a with x := { a.x with
      writes := gone.foldl (fun ws t => match t.own with
        | .wr _ k => updAt k (fun w => { w with st := .gone }) ws
        | _ => ws) a.x.writes
      lost := if k1 > k0 then a.x.lost ++ [(k0, k1)] else a.x.lost
      dropped := a.x.dropped + words, gapSeen := a.x.gapSeen || words > 0 } }

/-- The words that a FLUSH drops from the host-in FIFO, data still to land included (R323). -/
def flushIn (u : Que) : Que :=
  let v := u.hin.foldl (fun u x => u.modA x.1 fun a => { a with x := { a.x with
    reads := updAt x.2 (fun r => { r with st := if r.st == .posted then .flushed else .taken, data := [] }) a.x.reads
    dropped := a.x.dropped + ((a.x.reads[x.2]?).map RTx.words).getD 0, gapSeen := true } }) u
  { v with hin := [], hinR := u.hinR + u.hinWords .landed }

/-- Entries of a link FIFO after a FLUSH: one marker `m` counts the words, each where it stood; the ends of packets and inputs that were received stay, since FLUSH ends no input and a LAST or FINAL received before it still does (R323 to R325). -/
def flushLink (m : Nat) (bad : Bool) (l : List LEnt) : List LEnt := l.map fun e => match e with
  | .word _ _ => .gap 1 bad m
  | .gap n _ _ => .gap n bad m
  | .eop f => .eop f
  | .last => .last

/-- A vector group or DIGEST that has not started and whose CMD payload now holds a gap fails its field checks at offset 4 (R320, R323); so does a LOCKED, whose operands the spec does not speak of there (DESIGN CHOICE, log 62). -/
def Acc.gapped (a : Acc) : Acc :=
  if a.stage == .accepted && a.have_ && a.pre.isNone && (a.d.isVec || a.d.op = 0x30 || a.d.op = 0x31) && gapIn a.payload then { a with pre := some (3, 4), payload := [] } else a

/-- The mark of a host-out write whose beats are in progress is cleared (R317, R323). -/
def State.unmark (s : State) (n : Log) (p : Phys) (q : Qn) : State :=
  let mine (e : Txn) : Bool := e.phys == p && e.q == q && e.granted && e.kind == .write && (match e.own with
    | .wr id _ => (s.acc n q id).any fun a => a.d.viaHout
    | _ => false)
  let t := s.modP p fun c => { c with pend := c.pend.map fun e => if mine e then { e with noMark := true } else e }
  { t with slices := mapV t.slices fun _ x =>
    { x with hold := x.hold.map fun (y : Hold) => if mine y.t then { y with t := { y.t with noMark := true } } else y } }

/-- The link FIFO of a queue after a FLUSH: the words of its data and its payloads are those that one marker counts (R323). -/
def Que.flushed (u : Que) (m : Nat) (bad : Bool) : Que :=
  let v := u.mapFifo (flushLink m bad)
  { v with acc := v.acc.map Acc.gapped, mark := some m }

/-- FLUSH (R323, R324): the FIFO area of REQ_QUEUE is emptied, the mark and the pending requests clear. `f.deliverOpen`: an inbound DELIVER is open, and the rest of it is discarded; `f.bad`: the marker is written with a parity error (R322). -/
def execFlush (n : Log) (f : FlushAt) (s : State) : Res :=
  .next (s.onPulse n fun p s =>
    match s.lch[n].port.reqQ with
    | none => s
    | some q =>
      let u := s.que n q
      let t := u.acc.foldl (fun t a => if a.stage == .started then t.flushOut n p q a else t) s
      let t := t.modQ n q fun u => flushIn { (u.freedTo (u.flushed (s.nextId + 1) f.bad)) with dropPkt := f.deliverOpen }
      let t : State := { t with nextId := s.nextId + 1 }
      let t := t.modL n fun l => { l with reqs := [] }
      let t := (t.modC p fun c => { c with flushed := c.flushed ||| (1#4 <<< q.val) }).unmark n p q
      let k := (t.que n q).owed
      let t := if k = 0 then t else (t.modQ n q fun u => { u with owed := 0, wordCr := u.wordCr + k }).send n (.credit q k)
      t.flow n q)

/-- LK_WAKE (R93, R94): a rising level is a wake demand on the port's channel. -/
def execLkWake (n : Log) (level : Bool) (s : State) : Res :=
  let t := s.modL n fun l => { l with lkWake := level }
  .next (if s.tap.drives then s else if level && !s.lch[n].lkWake && s.hrstN && s.vddCore then t.wake n else t)

/-! ## The link watchdog -/

/-- The link watchdog acted (R677). -/
def State.wdCut (s : State) (p : Phys) : State := s.modC p fun c => { c with wdCut := true }

/-- LINK_WD_PACKET_CUT (R106): more than 1,024 cclk between two flits of a packet. -/
def execLinkWdPacketCut (n : Log) (cut : Option CutCmd) (s : State) : Res :=
  .next (s.inbound n fun p s => (((s.linkErr n p 12).wdCut p).packetGone n).nakCut n cut)

/-- The sequence of a LOCKED has faulted, so that a DELIVER of it that fails to leave counts only as a link error (R463). -/
def Acc.lockFaulted (a : Acc) : Bool := a.d.op == 0x31 && match a.lk with
  | .none | .intent | .written _ | .noWrite _ => false
  | .lost _ | .errRead | .errWrite _ | .poisoned | .region | .operand => true

/-- The link watchdog ends the output of a descriptor (R106); the failed DELIVER of a LOCKED that faulted counts as a link error (R463), of kind 12 (DESIGN CHOICE, log 62: R676 names no kind for it). -/
def State.wdFail (s : State) (n : Log) (p : Phys) (q : Qn) (id off : Nat) : State :=
  (if (s.acc n q id).any Acc.lockFaulted then s.linkErr n p 12 else s).linkFail n q id off

/-- LINK_WD_WAKE (R106): a WAKE REQUEST has been unanswered for LINK_WD aclk; every descriptor that it holds fails at its first held packet. -/
def execLinkWdWake (n : Log) (s : State) : Res :=
  .next (s.withRun n fun p =>
    let l := s.lch[n]
    match l.wakeReq with
    | some t =>
      if s.aclk ≥ t + l.port.linkWd then
        let held := (fins 4).flatMap fun q => l.qs[q].acc.filterMap fun a =>
          if a.sends && !a.sentAll then (a.nextPkt l.port.dmax l.bed).map fun k => (q, a.id, k.off) else none
        held.foldl (fun s h => s.wdFail n p h.1 h.2.1 h.2.2) ((s.wdCut p).modL n fun l => { l with wakeReq := none })
      else s
    | none => s)

/-- LINK_WD_CREDIT (R106): a started descriptor has waited LINK_WD aclk for flit credit. -/
def execLinkWdCredit (n : Log) (q : Qn) (s : State) : Res :=
  .next (s.withRun n fun p =>
    match s.lch[n].ready q with
    | some r =>
      if r.1.x.creditA.any fun t => s.aclk ≥ t + s.lch[n].port.linkWd then (s.wdCut p).wdFail n p q r.1.id r.2.off else s
    | none => s)

/-- VERDICT_TIMEOUT (R479): no VERDICT within LINK_WD aclk after the FINAL. -/
def execVerdictTimeout (n : Log) (q : Qn) (s : State) : Res :=
  .next (s.withRun n fun _ =>
    match (s.que n q).awaiting with
    | some a =>
      if a.x.finA.any fun t => s.aclk ≥ t + s.lch[n].port.linkWd then s.modA n q a.id fun b => { b with x := { b.x with linkErr := some a.d.len } } else s
    | none => s)

/-! ## Leaving -/

/-- Requests of REQ_QUEUE reach its link output (R99, R100): the next one is served once the output allowed so far has left. -/
def State.serveLink (s : State) (n : Log) (q : Qn) : State :=
  match (s.que n q).sender with
  | some a => if s.lch[n].port.reqQ == some q && a.stage == .started then s.serveReq n q a else s
  | none => s

/-- The packet `r` of queue `q` leaves (R61, R85, R87, R96). -/
def State.leave (s : State) (n : Log) (q : Qn) (a : Acc) (r : OutPkt) : State :=
  let pay (s : State) : State :=
    s.modL n fun l => ({ l with rrOut := (q.val + 1) % 4 } : LCh).modQ q fun u => { u with flitCr := u.flitCr - r.flits }
  match r.k with
  | .abort reason =>
    (((s.modA n q a.id fun a => { a with x := { a.x with msgAbort := true } }).send n (.msgAbort q a.seq reason)).msgEnd n).flow n q
  | .begin exp =>
    ((pay ((s.modL n fun l => { l with msg := some (q, a.id) }).modA n q a.id fun a => { a with x := { a.x with began := true } })).send n
      (.msgBegin q a.seq a.d.len (a.d.b 32) ((a.d.drop 40).take 8) exp)).flow n q
  | .deliver final msg gap payload psn =>
    let t := (pay s).modA n q a.id fun a => { a with x := { a.x with
      outSent := r.next, finSent := final, creditA := none, finA := if final && msg then some s.aclk else a.x.finA } }
    let t := t.send n (.deliver q a.seq a.d.tag final msg a.replayed (gap > 0) r.off (min gap 0xFFFFFFFF) payload psn)
    (if final && msg then t.msgEnd n else t).flow n q

/-- DELIVER_OUT (R61, R85, R87, R96): the queue's next packet leaves once its credit, the consumer and the interleave allow it; to a sleeping consumer a WAKE REQUEST leaves first. -/
def execDeliverOut (n : Log) (q : Qn) (s : State) : Res :=
  .next (s.withAwake n fun _ =>
    let s := match s.lch[n].port.reqQ with
      | some r => s.serveLink n r
      | none => s
    let l := s.lch[n]
    match l.ready q with
    | none => s
    | some (a, r) => match r.k with
      | .abort _ => (s.leave n q a r).linkWaits n
      | _ =>
        if l.parked q (a, r) then s
        else if l.asleep then
          if l.wakeReq.isSome then s else (s.modL n fun l => { l with wakeReq := some s.aclk }).send n .wakeReq
        else if l.sendable q && s.pickQ n l.rrOut l.sendable == some q then (s.leave n q a r).linkWaits n
        else s)

/-- The flits still to leave in the messages ahead of the parked descriptor `b`, in units of 10 ns: the open one, and those of the DIGESTs accepted before it (R412, R413). -/
def State.parkedFor (s : State) (n : Log) (b : Acc) : Nat :=
  let l := s.lch[n]
  let ahead := (fins 4).flatMap fun q => l.qs[q].acc.filter fun a =>
    a.id ≠ b.id && a.runs && a.pre.isNone && a.d.op = 0x30 && !a.sentAll && (a.id < b.id || l.msg == some (q, a.id))
  ceilDiv (100 * (ahead.map (msgFlits l.port.dmax)).sum) s.sun.cclk[terL n]

/-- STATUS_PARKED (R90, R413): a descriptor of the queue waits behind a message; its first STATUS, and one every 10 µs. -/
def execStatusParked (n : Log) (q : Qn) (s : State) : Res :=
  .next (s.withAwake n fun _ =>
    let l := s.lch[n]
    match l.ready q with
    | none => s
    | some r =>
      let again := match l.qs[q].parked with
        | some (id, t) => id ≠ r.1.id || s.aclk ≥ t + 1000
        | none => true
      if l.parked q r && again then
        (s.modQ n q fun u => { u with parked := some (r.1.id, s.aclk) }).send n (.status q 1 r.1.seq (s.parkedFor n r.1))
      else s)

end Sys2Proof.Machine
end

