-- ==== Sys2Proof/Machine/Pages.lean ====
section
/-! DEFINITION. The channel pages (R153 to R156, R329 to R331, R507, R508, R639, R674 to R680): what each register of a page reads in each state of its physical channel. -/

namespace Sys2Proof.Machine

/-- The registers of a CHN page (R674). -/
inductive ChnReg where
  | id | state | qctl
  | qstat (q : Qn) | qrcnt (q : Qn) | focc (q : Qn)
  | gflag | gpar | gdrop (q : Qn) | qfault (q : Qn)
  | fcnt | sleep | wakes | lerr | lflag | lstat
  | qcred (q : Qn) | qseq (q : Qn) | qfidx (q : Qn)
deriving DecidableEq, Repr

/-- The queue of a register group at `base`. -/
def groupQ (off base : Nat) : Qn := Fin.ofNat 4 ((off - base) / 4)

/-- The register at a page offset (R674). -/
def chnAt (off : Nat) : Option ChnReg :=
  if off % 4 ≠ 0 then none
  else match off / 16, off % 16 / 4 with
    | 0x0, 0 => some .id
    | 0x1, 0 => some .state
    | 0x2, 0 => some .qctl
    | 0x4, _ => some (.qstat (groupQ off 0x40))
    | 0x5, _ => some (.qrcnt (groupQ off 0x50))
    | 0x6, _ => some (.focc (groupQ off 0x60))
    | 0x7, 0 => some .gflag
    | 0x7, 1 => some .gpar
    | 0x8, _ => some (.gdrop (groupQ off 0x80))
    | 0x9, _ => some (.qfault (groupQ off 0x90))
    | 0xA, 0 => some .fcnt
    | 0xB, 0 => some .sleep
    | 0xB, 1 => some .wakes
    | 0xC, 0 => some .lerr
    | 0xC, 1 => some .lflag
    | 0xC, 2 => some .lstat
    | 0xD, _ => some (.qcred (groupQ off 0xD0))
    | 0xE, _ => some (.qseq (groupQ off 0xE0))
    | 0xF, _ => some (.qfidx (groupQ off 0xF0))
    | _, _ => none

/-- The offsets of a page's registers that a declaration of death freezes (R153, R679). -/
def chnOffsets : List Nat := ((List.range 60).map fun i => 0x10 + 4 * i).filter fun o => (chnAt o).isSome

/-- CHN_ID (R675). -/
def chnId (p : Phys) : Nat := p + 2 ^ 8 * (p / 17) + 2 ^ 11 * b2n (p.val % 17 == 16)

/-- Queue state codes (R137). -/
def QS.code : QS → Nat
  | .disabled => 0
  | .active => 1
  | .draining => 2
  | .halted => 3

/-- Channel state codes (R141). -/
def CS.code : CS → Nat
  | .off => 0
  | .dormant => 1
  | .waking => 2
  | .active => 3
  | .draining => 4
  | .quarantined => 5
  | .reserve => 6

/-- CHN_STATE (R153). -/
def State.chnState (s : State) (p : Phys) : Nat :=
  let c := s.phys[p]
  c.st.code + match (s.logOf p).filter fun _ => c.st.serves with
    | some n => 2 ^ 8 * n.val + 2 ^ 15 + 2 ^ 16 * s.inc n + 2 ^ 20 * b2n c.chEnp
    | none => 0

/-- CHN_QSTAT (R155): a retry position counts among the accepted (R491). -/
def Que.statWord (u : Que) : Nat :=
  u.st.code + 4 * b2n u.enp + 8 * b2n u.ringErr + 2 ^ 4 * u.kicks + 2 ^ 8 * min 16 u.subs + 2 ^ 16 * u.lastRet

/-- The words of a queue's host-out FIFO: those of posted writes until they are released in posting order, and formed output (R308, R309, R316, R329). -/
def State.houtWords (s : State) (n : Log) (q : Qn) : Nat :=
  let u := s.que n q
  u.houtHeld + min (32 - u.houtHeld) ((u.acc.map fun a => a.formedWords s.lch[n].bed).sum)

/-- CHN_FOCC (R329). -/
def State.foccWord (s : State) (n : Log) (q : Qn) : Nat :=
  let u := s.que n q
  min 0x3FF u.occ + 2 ^ 16 * min 32 (u.hinWords .landed) + 2 ^ 24 * s.houtWords n q

/-- A CMD is held for the retry position: in the halted queue, or as the released retry that has not started (R494, R507). -/
def Que.retryCmd (u : Que) : Bool :=
  u.halt.any fun h => h.held.isSome || u.acc.any fun a => a.retry && a.origin == .cmd && a.have_ && !a.notRun && a.stage == .accepted

/-- CHN_QFAULT (R507). -/
def Que.faultWord (u : Que) : Nat :=
  match u.halt with
  | some h => h.seq + 2 ^ 16 * h.cause + 2 ^ 24 + 2 ^ 25 * b2n u.retryCmd + 2 ^ 26 * b2n h.indet
  | none => u.qSeq + 2 ^ 16 * u.qCause + 2 ^ 26 * b2n u.qIndet

/-- lk_awake of the port that `p` serves (R90, R94, R514, R640). -/
def State.awake (s : State) (p : Phys) : Bool :=
  let c := s.phys[p]
  s.hrstN && s.vddCore && c.gate && c.entry = 0 && (c.st == .active || c.st == .draining)

/-- CHN_LSTAT (R677). -/
def State.lstatWord (s : State) (p : Phys) (n : Log) : Nat :=
  let l := s.lch[n]
  b2n (s.awake p) + 2 * b2n l.lkWake + 4 * b2n l.asleep + 8 * b2n l.msg.isSome + 16 * l.reqs.countP (· ≠ 0)
    + 256 * ((l.msg.map fun m => m.1.val).getD 0)

/-- A queue field of the logical channel served (R679). -/
def State.queueReg (s : State) (p : Phys) (n : Log) (r : ChnReg) : Nat :=
  match r with
  | .qstat q => (s.que n q).statWord
  | .qrcnt q => (s.que n q).rcnt
  | .focc q => s.foccWord n q
  | .qfault q => (s.que n q).faultWord
  | .lstat => s.lstatWord p n
  | .qcred q => min 0xFFFF (s.que n q).wordCr + 2 ^ 16 * min 0xFFFF (s.que n q).flitCr
  | .qseq q => (s.que n q).lastAcc + 2 ^ 16 * (s.que n q).members
  | .qfidx q => (s.que n q).fidx
  | .id | .state | .qctl | .gflag | .gpar | .gdrop _ | .fcnt | .sleep | .wakes | .lerr | .lflag => 0

/-- A scrub of any part of the channel's store is in progress at aclk `now` (R330). -/
def PCh.scrubbing (c : PCh) (now : Nat) : Bool := c.scrub || now < c.partEnd

/-- A channel counter or flag register (R330, R331, R508, R639, R676, R677). -/
def PCh.countReg (c : PCh) (now : Nat) (r : ChnReg) : Nat :=
  let k := c.c
  match r with
  | .gflag => k.rewind.toNat + 2 ^ 4 * k.gapDrop.toNat + 2 ^ 8 * k.flushed.toNat + 2 ^ 12 * b2n (c.scrubbing now)
  | .gpar => k.parErr + 2 ^ 16 * k.lastArea
  | .gdrop q => k.gdrop[q]
  | .fcnt => k.faults + 2 ^ 16 * k.cringFails
  | .sleep => k.entries + 2 ^ 16 * k.abandons
  | .wakes => k.wakes
  | .lerr => k.lerrs + 2 ^ 16 * k.lkind
  | .lflag => b2n k.reqOvr + 2 * b2n k.creditOvf + 4 * b2n k.wdCut
  | .id | .state | .qctl | .qstat _ | .qrcnt _ | .focc _ | .qfault _ | .lstat | .qcred _ | .qseq _ | .qfidx _ => 0

/-- The reset value of a page register other than CHN_ID (R155, R678). -/
def chnReset : ChnReg → Nat
  | .qstat _ => 0xFFFF0000
  | .qseq _ => 0xFFFF
  | _ => 0

/-- The register counts the physical channel's own events (R679). -/
def ChnReg.counts : ChnReg → Bool
  | .gflag | .gpar | .gdrop _ | .fcnt | .sleep | .wakes | .lerr | .lflag => true
  | _ => false

/-- What a page register holds, frozen pages and hrst_n apart (R679). -/
def State.chnLive (s : State) (p : Phys) (r : ChnReg) : Nat :=
  let c := s.phys[p]
  let fresh := c.st == .off || (c.st == .waking && c.wakeFor == .off)
  match r with
  | .id => chnId p
  | .state => s.chnState p
  | .qctl => 0
  | _ =>
    if fresh then chnReset r
    else if r.counts then c.countReg s.aclk r
    else match (s.logOf p).filter fun _ => c.st.serves with
      | some n => s.queueReg p n r
      | none => chnReset r

/-- What a read of a page register returns (R679). -/
def State.chnRead (s : State) (p : Phys) (off : Nat) (r : ChnReg) : Nat :=
  let c := s.phys[p]
  if r = .id then chnId p
  else if !s.hrstN then 0
  else if c.st == .quarantined then
    let v := ((c.frozen.find? fun x => x.1 == off).map Prod.snd).getD 0
    if r = .state then v / 256 * 256 % 2 ^ 15 + v / 2 ^ 16 * 2 ^ 16 + 5 else v
  else s.chnLive p r

/-- The page at a declaration of death (R153, R679). -/
def State.freeze (s : State) (p : Phys) : List (Nat × Nat) :=
  chnOffsets.map fun o => (o, ((chnAt o).map (s.chnLive p)).getD 0)

/-- The RC fields of a page register after a secure read (R331, R508, R639, R676). -/
def CCnt.clear (k : CCnt) (r : ChnReg) : CCnt :=
  match r with
  | .gpar => { k with parErr := 0 }
  | .gdrop q => { k with gdrop := k.gdrop.set q 0 }
  | .fcnt => { k with faults := 0, cringFails := 0 }
  | .sleep => { k with entries := 0, abandons := 0 }
  | .wakes => { k with wakes := 0 }
  | .lerr => { k with lerrs := 0 }
  | _ => k

/-- A W1C write of `v` to a channel flag register (R330, R677). -/
def CCnt.w1c (k : CCnt) (r : ChnReg) (v : Word) : CCnt :=
  match r with
  | .gflag => { k with
      rewind := clrBits k.rewind (v.extractLsb' 0 4), gapDrop := clrBits k.gapDrop (v.extractLsb' 4 4)
      flushed := clrBits k.flushed (v.extractLsb' 8 4) }
  | .lflag => { k with
      reqOvr := clr k.reqOvr (v.getLsbD 0), creditOvf := clr k.creditOvf (v.getLsbD 1), wdCut := clr k.wdCut (v.getLsbD 2) }
  | _ => k

/-- The logical channel to which a page belongs (R680): `d` is a frozen page's CHN_STATE.LOGICAL. -/
def State.pageOwner (s : State) (p : Phys) : Option Log :=
  if s.phys[p].st == .quarantined then
    (s.phys[p].frozen.find? fun x => x.1 == 0x10).bind fun x => if bit x.2 15 then some (Fin.ofNat 128 (bits x.2 14 8)) else none
  else s.logOf p

end Sys2Proof.Machine
end

