-- ==== Sys2Proof/Machine/Sparing.lean ====
section
/-! DEFINITION. Sparing (R33 to R36, R143, R392 to R394, R509 to R527, R645, R646): what the journal keeps, the declaration of death, the channel reset, and how a logical channel begins to be served again. -/

namespace Sys2Proof.Machine

/-! ## What the journal restores -/

/-- A LOCKED as the journal holds it (R464, R466); one with an intent and no outcome retires once its channel is served. -/
def Acc.restoreLocked (a : Acc) : Option Acc :=
  match a.lk with
  | .intent => some { a with x := { psnSeen := a.x.psnSeen } }
  | .written _ | .noWrite _ | .lost _ | .errRead | .errWrite _ | .poisoned =>
    some { a with stage := .accepted, replayed := true, own2 := false, x := { psnSeen := a.x.psnSeen }, payload := [], have_ := false }
  | .none | .region | .operand => none

/-- A descriptor executes again from its start (R152, R520): its bytes and payload come again. -/
def Acc.again (a : Acc) (now : Nat) : Acc :=
  { (a.endWait now) with
    stage := .accepted, replayed := true, own2 := false, x := {}, payload := [], have_ := false, lk := .none, brokenLock := false, verdict := none }

/-- An accepted descriptor that has not started keeps its place; its bytes and payload come again (R520). -/
def Acc.unstarted (a : Acc) : Acc :=
  if a.notRun || a.subst then a else { a with pre := none, tagF := false, payload := [], have_ := false }

/-- A descriptor as a journal entry gives it back, and whether it executes again (R466, R471, R482, R520). -/
def Acc.restore (a : Acc) (now : Nat) : Acc × Bool :=
  if a.stage == .accepted then (a.unstarted, false)
  else if a.isWait then ({ a with replayed := true }, false)
  else if a.d.op == 0x30 && a.verdict.isSome then ({ a with replayed := true }, false)
  else match (if a.d.op == 0x31 then a.restoreLocked else none) with
    | some b => (b, false)
    | none => (a.again now, true)

/-- What a descriptor's journal items are (R516); the rest of the entry is volatile. -/
def Acc.journal (a : Acc) : Acc :=
  { id := a.id, seq := a.seq, member := a.member, origin := a.origin, dg := a.dg, stage := a.stage, anchor := a.anchor, deadline := a.deadline
    safe := a.safe, drawn := a.drawn, startA := a.startA, satA := a.satA, timedOut := a.timedOut, lk := a.lk, verdict := a.verdict, retry := a.retry, rows0 := a.rows0 }

/-- The 64-byte words of link input that a list stands for. -/
def inputWords (l : List LEnt) : Nat := (l.map fun e => match e with
  | .word _ _ => 1
  | .gap k _ _ => k
  | .eop _ | .last => 0).sum

/-- The inbound words that an execution has taken, those of its excess included; the word that holds the end of the input counts once (R189, R521). -/
def Exec.takenWords (x : Exec) : Nat :=
  let last := match x.lin.getLast? with
    | some (.word bs _) => bs.length
    | _ => 64
  inputWords x.lin + ceilDiv (x.excess - (64 - last)) 64

/-- The inbound words of a queue that no retired descriptor consumed (R521). -/
def Que.lostWords (u : Que) : Nat :=
  inputWords u.link + (u.acc.map fun a => if a.d.takesDeliver then a.x.takenWords else 0).sum

/-- What a queue's journal items are (R516). -/
def Que.journal (u : Que) : Que :=
  { st := u.st, enp := u.enp, kicks := u.kicks, fidx := u.fidx, rcnt := u.rcnt, lastAcc := u.lastAcc, lastRet := u.lastRet, members := u.members
    f := u.f, lastB := u.lastB, acc := u.acc.map Acc.journal, recs := u.recs, halt := u.halt, dataAcks := u.dataAcks, credit := u.credit
    owed := if u.cfg.stream then u.lostWords else 0 }

/-- What a logical channel's journal items are (R516). -/
def LCh.journal (l : LCh) : LCh :=
  { qs := mapV l.qs fun _ u => u.journal, ins := mapV l.ins fun _ t => { heldGen := t.heldGen, latch := t.latch }, bed := l.bed, asleep := l.asleep, drain := l.drain }

/-- Entries with an uncorrectable error whose serving channel has changed an item are rewritten whole, which clears the error (R518). -/
def State.rewriteJ (s : State) : State :=
  { s with jbad := mapV s.jbad fun n o => o.filter fun l => (s.runP n).isNone || l.journal == s.lch[n].journal }

/-- Add the tallies of a descriptor that executes again to its queue's replay credit (R418). -/
def Que.giveCredit (u : Que) (l : List Nat) : Que :=
  { u with credit := mapV u.credit fun i v => v + l.getD i 0 }

/-- A queue as the journal gives it back (R137, R418, R501, R516, R520, R521). -/
def Que.restore (u : Que) (now : Nat) : Que :=
  let rs := u.acc.map fun a => (a, a.restore now)
  let v := rs.foldl (fun (v : Que) x => if x.2.2 then v.giveCredit x.1.drawn else v) u
  let w := u.lostWords
  { v with
    acc := rs.map fun x => if x.2.2 then { x.2.1 with drawn := [] } else x.2.1
    link := if u.cfg.stream && w > 0 then [.gap (min w 0xFFFFFFFF) false 0] else []
    mark := if u.cfg.stream && w > 0 then some 0 else none
    dropPkt := false, parked := none, prd := {}, fetches := [], refills := [], refetch := none, rechain := none, found := [], discard := none
    chain := u.chain.map fun f => { f with posted := false, data := none }
    recs := u.recs.map fun r => if r.seen then r else { r with posted := false }
    halt := u.halt.map fun h => { h with held := none }
    hin := [], hinR := 0, hinRec := [], moveH := 0, hout := [], houtR := 0, linkR := 0, toDrop := [] }

/-- A logical channel as its journal entry gives it back; link messages, requests and a WAKE REQUEST end with the channel that served it. -/
def State.restoreL (s : State) (n : Log) : State :=
  s.modL n fun l => { l with
    qs := mapV l.qs fun _ u => u.restore s.aclk
    msg := none, asleep := l.asleep || l.asleepPend, asleepPend := false, wakeReq := none, reqs := [], resPend := [], lastPend := false }

/-! ## Unserved logical channels -/

/-- The running command of a terrace loses logical channel `n`, which nothing serves any more. -/
def State.svcLost (s : State) (n : Log) (result : Nat) : State :=
  match s.ters[terL n].cmd with
  | some c =>
    if c.logs.contains n.val then
      let r := c.logs.filter (· ≠ n.val)
      if r.isEmpty then s.svcEnd (terL n) false result else s.modT (terL n) fun x => { x with cmd := some { c with logs := r } }
    else s
  | none => s

/-- R34: the logical channel is left unserved. -/
def State.unserve (s : State) (n : Log) (p : Nat) : State :=
  let t := ({ s with map := s.map.set n none } : State).modT (terL n) fun x => { x with noRes := true }
  let t := t.modL n fun l => { l with qs := mapV l.qs fun _ u => { u with acc := u.acc.map fun a => if a.anchor.isSome then { a with unserved := true } else a } }
  (t.post 0x12 0 n (leBytes 1 p)).svcLost n 5

/-- A restore of `n` meets an uncorrectable error: its codes report one, or the entry holds one found before (R518). -/
def State.journalBad (s : State) (n : Log) (j : JRead) : Bool := j.err == .uncorrectable || s.jbad[n].isSome

/-- The gap markers that a restore wrote for the queues `bad` have a parity error (R322). -/
def State.badMarks (s : State) (n : Log) (bad : List Qn) : State :=
  s.over bad fun s q => s.modQ n q fun u => { u with link := match u.link with
    | .gap k _ m :: l => .gap k true m :: l
    | l => l }

/-- An uncorrectable error in a journal entry is found (R518). -/
def State.journalErr (s : State) (n : Log) : State :=
  (s.modT (terL n) fun x => { x with jue := true, juec := satAdd 0xFFFF x.juec 1 }).post 0x14 0 n (leBytes 1 (terL n))

/-- A restore of `n` gives up an entry with an uncorrectable error. -/
def State.journalLost (s : State) (n : Log) : State :=
  let t := if s.jbad[n].isSome then s else s.journalErr n
  { t with jbad := t.jbad.set n none }

/-- Corrected errors in a journal entry (R518). -/
def State.journalOk (s : State) (t : Ter) (j : JErr) : State :=
  match j with
  | .corrected k => s.modT t fun x => { x with jecc := satAdd 0xFFFF x.jecc k }
  | .clean | .uncorrectable => s

/-! ## Declaration of death -/

/-- The physical channel is QUARANTINED behind its closed gate (R513, R514). -/
def State.quarantine (s : State) (p : Phys) : State :=
  let page := s.whole.freeze p
  let t := s.modP p fun c => { c with
    st := .quarantined, gate := false, scrub := true, scrubbed := false, frozen := page, missed := 0, revived := false, dieA := none
    quiet := 0, entry := 0, wakeA := none, latched := false, toDrain := false, locked := none, pend := [] }
  { t with slices := mapV t.slices fun _ x => { x with hold := x.hold.map fun (y : Hold) =>
      let k := (x.times y).countP (· < t.hclk)
      if y.t.phys == p && k < y.t.beats then { y with gaps := ((y.gaps ++ List.replicate 4 (some 0)).take k) ++ [none] } else y } }

/-- TER_LAST, GLB_FAULT and TER_STEST at a declaration (R531, R652, R672). -/
def State.noteDeath (s : State) (p : Phys) (n old new cause : Nat) (res : Bool) : State :=
  let t := s.modT (terP p) fun x => { x with
    lastPhys := p, lastLog := n, lastRes := res, lastOld := old, lastNew := new, lastCause := cause
    stest := x.stest &&& ~~~(1#17 <<< (p.val % 17)) }
  { t with gate := { t.gate with dead := t.gate.dead ||| (1#8 <<< (terP p).val) } }

/-- A reserve is declared dead (R33): a takeover or swap onto it is abandoned (R515). -/
def State.declareReserve (s : State) (p : Phys) (cause : Nat) : State :=
  let t := ((s.quarantine p).noteDeath p 0 0 0 cause true).post 0x10 0 0xFFFF (leBytes 1 p ++ [0, 0] ++ leBytes 1 cause)
  let t := t.modT (terP p) fun x => { x with reserve := none }
  match s.ters[terP p].tko with
  | some k =>
    let u := t.modT (terP p) fun x => { x with tko := none, busy := false }
    if k.swap then u.svcEnd (terP p) false 5 else u.unserve k.log k.old
  | none => t

/-- A queue as a command of this aclk found it (R49, R684). -/
def Que.undo (u : Que) (b : PreQ) : Que :=
  let v := { u with enp := b.enp, enDg := b.enDg }
  match b.st, u.st with
  | .active, .draining => { v with st := .active, fltDet := b.fltDet }
  | .halted, .draining =>
    if b.halt.isSome && !(u.acc.any fun a => a.retry) then u
    else { v with
      st := .halted, fltDet := b.fltDet, halt := b.halt
      acc := (if b.halt.isSome then u.acc.filter fun a => !a.retry else u.acc).map fun a => if b.run.contains a.id then { a with notRun := false } else a }
  | .disabled, .active => { v with st := .disabled, prd := {} }
  | .disabled, .disabled | .draining, .draining => v
  | _, _ => u

/-- The queues of `n` as a command of this aclk found them. -/
def State.undoQs (s : State) (n : Log) (o : PreOut) : State := (o.qs.zip (fins 4)).foldl (fun (t : State) x => t.modQ n x.2 fun u => u.undo x.1) s

/-- A write of CHN_QCTL of this aclk that reached `n` has no effect when the aclk declares its channel dead (R684). -/
def State.unQctl (s : State) (n : Log) : State :=
  match s.lch[n].preQctl.filter fun o => o.at_ = s.aclk with
  | none => s
  | some o => (s.undoQs n o).modL n fun l => { l with preQctl := none }

/-- An OUT of this aclk that named `n` is undone (R49, R654). -/
def State.unOut (s : State) (n : Log) : State :=
  match s.lch[n].preOut.filter fun o => o.at_ = s.aclk with
  | none => s
  | some o =>
    let t := match s.servP n with
      | some p => s.modP p fun c => { c with st := o.st, toDrain := false, wakeA := if o.st == CS.dormant then none else c.wakeA }
      | none => s
    (t.undoQs n o).modL n fun l => { l with drain := false, outReq := none, preOut := none }

/-- A RETURN of this aclk that brought `n` out of OFF is undone (R49). -/
def State.unReturn (s : State) (n : Log) : State :=
  match s.map[n].filter fun p => s.phys[p].st == .waking && s.phys[p].wakeFor == .off with
  | some p => s.modP p fun c => { c with st := .off, scrub := false, scrubbed := true }
  | none => s

/-- A RESET of this aclk that named `n`, served by `p`, is undone: its incarnation does not stand (R49, R654). -/
def State.unReset (s : State) (p : Phys) (n : Log) : State :=
  match s.phys[p].preRst.filter fun r => r.at_ = s.aclk with
  | none => s
  | some r => ({ s with fence := s.fence.set n ((s.inc n + 15) % 16) } : State).modP p (fun c => { c with st := r.st, preRst := none })
      |>.modL n fun l => { l with fdrain := l.fdrain.dropLast }

/-- A takeover of `n` meets a command of this aclk that names `n`: the command fails with TAKEOVER, and what it did is undone (R49, R654, R656). -/
def State.svcTaken (s : State) (p : Phys) (n : Log) : State :=
  let t := terL n
  let x := s.ters[t]
  let fail (s : State) (cmd : Option SvcCmd) (done : Bool) : State :=
    ({ (s.modT t fun x => { x with cmd, sdone := done, sfail := true, result := 4 }) with free := s.free + 1 } : State).post 0x34 2
      (16 * t.val + x.target) (leBytes 1 x.op ++ leBytes 1 4 ++ [0, 0] ++ leBytes 4 (Config.rejectDetail s.free))
  let run := x.cmd.filter fun c => c.at_ = s.aclk
  match s.lch[n].retReq.filter fun r => r.at_ = s.aclk with
  | some r =>
    let back := run.filter fun c => c.op == 2
    let u := (s.modP p fun c => { c with chEnp := r.chEnp }).over (logsOf t) fun s k => s.modL k fun l => { l with retReq := none }
    fail (u.over ((back.map SvcCmd.logs).getD []) fun s k => s.unReturn (Fin.ofNat 128 k)) (if back.isSome then none else x.cmd) r.done
  | none => match run.filter fun c => c.logs.contains n.val with
    | none => s
    | some c =>
      if c.op = 1 then fail (c.logs.foldl (fun s k => s.unOut (Fin.ofNat 128 k)) s) none x.sdone
      else if c.op = 4 then fail (s.unReset p n) none x.sdone
      else s

/-- A serving channel is declared dead (R34, R513, R515); it prevails over a command of the same aclk (R49). The reserve goes to the lower logical channel of two that die in one aclk. While a SWAP of another logical channel holds the reserve, the dead channel's is left unserved: the model's choice (log 47). -/
def State.declareServing (s : State) (p : Phys) (n : Log) (cause : Nat) : State :=
  let s := ((s.svcTaken p n).unQctl n).rewriteJ
  let c := s.phys[p]
  let old := s.inc n
  let new := (old + 1) % 16
  let t := ((s.quarantine p).noteDeath p n old new cause false).post 0x10 0 n (leBytes 1 p ++ leBytes 1 old ++ leBytes 1 new ++ leBytes 1 cause)
  let t := if c.toDrain && !s.lch[n].drain then t.channelDrain n else t
  let t := (t.modP p fun c => { c with kept := some (n, t.lch[n]) }).restoreL n
  let t := t.modL n fun l => { l with chEnp := c.chEnp }
  let x := t.ters[terP p]
  let take (t : State) (r : Phys) : State :=
    t.modT (terP p) fun x => { x with busy := true, tko := some { log := n, new := r, old := p, at_ := s.aclk, swap := false, oos := false } }
  let t := match x.reserve, x.busy, x.tko.filter fun k => !k.swap && k.at_ = s.aclk && n < k.log with
    | some r, false, _ => take t r
    | some r, true, some k => (take t r).unserve k.log k.old
    | _, _, _ => t.unserve n p
  t.fenceEdge n p

/-- The terrace monitor declares a monitored channel dead (R512, R513). -/
def State.declare (s : State) (p : Phys) (cause : Nat) : State :=
  let c := s.phys[p]
  if c.st == .reserve then s.declareReserve p cause
  else if c.st.serves then
    match s.logOf p with
    | some n => s.declareServing p n cause
    | none => s
  else s

/-- Declarations of one aclk: a terrace's reserve first, then by logical channel number (R515). -/
def State.declareAll (s : State) (l : List (Phys × Nat)) : State :=
  let res := l.filter fun x => s.phys[x.1].st == .reserve
  let serv := (fins 128).filterMap fun n => l.find? fun x => s.logOf x.1 == some n
  (res ++ serv).foldl (fun s x => s.declare x.1 x.2) s

/-! ## Liveness -/

/-- The channel has held a staging path for 16 hclk or more without a beat (R394). -/
def State.stalled (s : State) (p : Phys) : Bool :=
  s.slices.toList.any fun (x : Slice) => match x.hold with
    | some y => y.t.phys == p && (match ((x.times y).filter (· < s.hclk)).getLast? with
      | some t => s.hclk - (t + 1) ≥ 16
      | none => s.hclk - y.grantH ≥ 16)
    | none => false

/-- The dormant entry of `p` is committed, so that it sends no pulse any more (R623 step 3). -/
def State.committed (s : State) (p : Phys) : Bool := s.phys[p].entry > 0 && s.phys[p].entry - 1 + s.step1 (terP p) ≤ s.aclk

/-- The pulse of `p` is absent (R511, R623). -/
def State.noPulse (s : State) (failed : List Phys) (p : Phys) : Bool := failed.contains p || s.phys[p].parity || s.stalled p || s.committed p

/-- A period's pulse, or its absence, at one channel (R509, R510, R527). A channel counts from the first period after it came under watch, or after its terrace's tree restarted; a move from one watched state to another keeps its count. -/
def State.pulse (s : State) (failed : List Phys) (p : Phys) : State :=
  let c := s.phys[p]
  if s.ters[terP p].stopped then s
  else if c.st.monitored then
    if c.monA < s.aclk && s.ters[terP p].runA < s.aclk then
      s.modP p fun c => { c with missed := if s.noPulse failed p then c.missed + 1 else 0 }
    else s
  else if c.st == .quarantined && !s.noPulse failed p && !c.revived
      && !(s.ters[terP p].cmd.any fun k => k.op == 5 && k.phys = p.val) then
    let f := ((c.frozen.find? fun x => x.1 == 0x10).map Prod.snd).getD 0
    let served := bit f 15
    ((s.modP p fun c => { c with revived := true }).modT (terP p) fun x => { x with revivals := satAdd 0xFFFFFFFF x.revivals 1 }).post 0x13 0
      (if served then bits f 14 8 else 0xFFFF) (leBytes 1 p ++ leBytes 1 (if served then bits f 19 16 else 0))
  else s

/-- LIVENESS_PERIOD (R509 to R512, R527): the first aclk of a period. `failed` are the channels whose sequencer self-check failed. -/
def execLivenessPeriod (failed : List Phys) (h : Nat) (s : State) : Res :=
  .next (if s.aclk % 16 ≠ 0 || s.lastLive == some s.aclk || !s.gate.locked then s
    else s.atH h fun s =>
      let s := s.settled h
      let t := { ((fins 136).foldl (fun t p => t.pulse failed p) s) with lastLive := some s.aclk }
      t.declareAll (((fins 136).filter fun p => t.phys[p].st.monitored && t.phys[p].missed ≥ 3).map fun p => (p, 1)))

/-- PARITY_REPORT (R326, R511, R512, R518): an uncorrectable parity error in a channel's control state, of which CHN_GPAR counts one in the bed cursor table (R331); or what the codes of a journal entry show outside a restore. -/
def execParityReport (r : ParityOf) (s : State) : Res :=
  match r with
  | .control p => when (s.hrstN && s.vddCore) s (s.ctlError p)
  | .cursor p => when (s.hrstN && s.vddCore) s ((s.parErr p 2 1).ctlError p)
  | .journal n j => when s.gate.locked s (match j with
    | .uncorrectable => if s.jbad[n].isSome then s else { (s.journalErr n) with jbad := s.jbad.set n (some s.lch[n]) }
    | .clean | .corrected _ => s.journalOk (terL n) j)

/-- The reports of earlier aclk are declared (R512). -/
def State.reports (s : State) : State :=
  s.declareAll ((fins 136).filterMap fun p => match s.phys[p].dieA with
    | some (k, c) => if k < s.aclk then some (p, c) else none
    | none => none)

/-- SLICE_WD (R392, R393): the holder of the staging path has staged no beat for 1,024 hclk. -/
def execSliceWd (sl : SliceN) (h : Nat) (s : State) : Res :=
  .next (s.atH h fun s =>
    let s := s.settle sl h
    let x := s.slices[sl]
    match x.hold with
    | some y =>
      if x.idle h < 1024 then s
      else
        let p := y.t.phys
        let t := (s.unstage sl h).modS sl fun x => { x with wd := x.wd.filter fun w => w.1 ≠ p.val, cutP := some (h, y.t.prom) }
        let t := if y.t.preemptible then t.modP p fun c => { c with pend := dropFirst (fun e => e.isEntry y.t) c.pend } else t
        let first := s.phys[p].st ≠ .quarantined
        let t := { t with arb := { t.arb with bites := satAdd 0xFFFFFFFF t.arb.bites 1 } }
        let t := if first then { t with arb := { t.arb with wdBite := true, wdSlice := sl, wdPhys := p } } else t
        let t := t.post 0x16 1 sl (leBytes 1 p)
        if first then t.report p 3 else t
    | none => s)

/-! ## Serving again -/

/-- The RESUME of a queue when its logical channel begins to be served (R77 to R80). -/
def State.resume (s : State) (n : Log) (takeover : Bool) (q : Qn) : State :=
  let u := s.que n q
  let c := u.cfg
  let area := c.fifo - 64
  let fed := c.ring && !c.stream && area > 0
  if u.st == .disabled || !(!c.ring || fed) then s
  else
    let words := if c.ring then area else if c.stream then 0 else c.initWords
    let replay := takeover && !c.stream && u.acc.any fun a => a.runs && a.d.takesDeliver
    (s.modQ n q fun u => { u with
      wordCr := words
      flitCr := 0
      owed := 0
      discard := none
      toDrop := if replay then (u.dataAcks.map Prod.snd).filter (· > 0) else u.toDrop }).send n
      (.resume q u.lastAcc takeover replay (s.inc n) u.lastRet c.window words)

/-- STATUS HALTED for a halted queue after a restore (R501). -/
def State.resendHalt (s : State) (n : Log) (q : Qn) : State :=
  match (s.que n q).halt with
  | some h => if (s.que n q).st == .halted then s.send n (.status q 2 h.seq h.cause) else s
  | none => s

/-- A restored descriptor that the journal lets retire without another execution is visible when its channel begins to be served (R35, R466, R482). -/
def Que.settleRestored (u : Que) (now : Nat) : Que :=
  u.acc.foldl (fun (v : Que) a =>
    if a.stage == .started && ((a.d.op == 0x30 && a.verdict.isSome) || (a.d.op == 0x31 && a.lk == .intent)) then
      (v.modA a.id fun a => { a with stage := .visible, visA := now }).release a.id now
    else v) u

/-- The logical channel begins to be served: RESUME, STATUS HALTED, and the PIDX reads of active rings (R77, R142, R418, R519). -/
def State.serveStart (s : State) (n : Log) (takeover : Bool) : State :=
  let t := if s.hrstN && s.vddCore then
      (fins 4).foldl (fun s q => s.resendHalt n q) ((fins 4).foldl (fun s q => s.resume n takeover q) s)
    else s
  t.modL n fun l => { l with
    rrOut := 0, rrSlot := 0, chEnp := false
    qs := mapV l.qs fun _ u =>
      let v := (if takeover then u.fillBal s.aclk else u).settleRestored s.aclk
      if v.st == .active then v.trigger 0 else v }

/-- The state that a queue takes when its logical channel returns from out of service (R139, R645). -/
def Que.returnState (u : Que) (reloaded : Bool) : Que :=
  let v := { u with wasOn := false, enp := false, enDg := 0 }
  if (if reloaded then u.cfg.initActive && u.cfg.valid else u.wasOn || (u.enp && u.cfg.valid)) then v.activate u.enDg else { v with st := .disabled }

/-- A running RETURN brings `n` back (R645). -/
def State.returning (s : State) (n : Log) : Bool := s.ters[terL n].cmd.any fun c => c.op == 2 && c.logs.contains n.val

/-- A SERVICE_RETURN record (R656). -/
def State.serviceReturn (s : State) (n : Log) (old new : Nat) (reloaded takeover : Bool) : State :=
  s.post 0x32 2 n (leBytes 1 old ++ leBytes 1 new ++ leBytes 1 (s.inc n) ++ leBytes 1 (b2n reloaded + 2 * b2n takeover))

/-- The queues of a logical channel that comes back into service (R645). -/
def State.backInService (s : State) (n : Log) : State :=
  s.modL n fun l => { l with qs := mapV l.qs fun _ u => u.returnState l.reloaded, oos := false, reloaded := false }

/-- The restore of `n` has ended on channel `p`: it is served again, and a RETURN or RESET that waited for it goes on (R645, R648). -/
def State.arrive (s : State) (n : Log) (old new : Nat) (takeover : Bool) : State :=
  if s.returning n then
    (((s.backInService n).serveStart n takeover).serviceReturn n old new s.lch[n].reloaded takeover).svcDone 2 n
  else (s.serveStart n takeover).svcDone 4 n

/-! ## Channel reset -/

/-- The channel reset of a serving channel (R141, R143): the incarnation advances, and the store is scrubbed before the journal is restored. A DORMANT channel first wakes, and one that wakes goes on to (R141, R624, R625). -/
def State.channelReset (s : State) (p : Phys) (n : Log) : State :=
  let t := (s.rewriteJ.restartTree (terP p)).modP p fun c => { c with
    st := .waking, wakeFor := .reset, wakeA := if c.st == .dormant then some s.aclk else if c.st == .waking then c.wakeA else none, scrub := true
    preRst := some ⟨s.aclk, c.st⟩
    missed := if c.st == .dormant then 0 else c.missed, monA := if c.st == .dormant then s.aclk else c.monA
    entry := 0, latched := false, locked := none, quiet := 0 }
  (t.restoreL n).fenceEdge n p

/-! ## Takeover -/

/-- In-flight promised descriptors that are not replay-safe: their number and the lowest SEQ (R526, R581). -/
def LCh.unsafeCount (l : LCh) : Nat × Nat :=
  let x := l.qs.toList.flatMap fun u => if u.cfg.res = 0 then [] else (u.acc.filter fun a => a.begun && !a.safe).map Acc.seq
  (x.length, (lowest x).getD 0)

/-- The commit of a takeover or swap onto physical channel `r` (R32, R519 step 4, R646, R647). -/
def State.commit (s : State) (t : Ter) (k : Tko) : State :=
  let n := k.log
  let l := s.lch[n]
  let s := if s.map[n].isSome then s
    else s.modL n fun l => { l with ins := mapV l.ins fun _ i => { i with
      contrib := i.contrib.filter fun c => s.aclk ≤ c.1 + 1
      heldGen := i.heldGen.filter fun _ => i.lastAct.any fun a => s.aclk ≤ a + i.rate } }
  let s := { s with map := s.map.set n (some k.new) }
  let s := s.modP k.new fun c => { c with
    st := if l.drain then .draining else .active, chEnp := l.chEnp, quiet := 0, toDrain := false, gate := true }
  let s := s.modT t fun x => { x with reserve := none, busy := false, tko := none }
  if k.swap then
    let s := if k.oos then
        (s.backInService n).modT t fun x => { x with vacant := x.vacant ||| (1#17 <<< (k.old % 17)) }
      else s
    ((s.serveStart n (!k.oos)).serviceReturn n k.old k.new l.reloaded (!k.oos)).svcDone 3 n
  else
    let (cnt, seq) := l.unsafeCount
    let s := (s.modT t fun x => { x with takeovers := satAdd 0xFFFFFFFF x.takeovers 1 }).post 0x11 0 n
      (leBytes 1 k.old ++ leBytes 1 k.new ++ leBytes 1 (s.inc n) ++ leBytes 1 (min cnt 255) ++ leBytes 2 seq ++ leBytes 2 (min 65535 (s.aclk - k.at_)))
    s.arrive n k.old k.new true

/-- TAKEOVER_COMMIT (R518, R519, R646): the replacement has restored the shadow and the journal. -/
def execTakeoverCommit (t : Ter) (j : JRead) (s : State) : Res :=
  match s.ters[t].tko with
  | none => .next s
  | some k =>
    .next (if s.phys[k.new].st ≠ .reserve then s
      else if s.journalBad k.log j then
        let s := (s.journalLost k.log).modT t fun x => { x with tko := none, busy := false }
        if k.swap then s.svcEnd t false 5 else s.unserve k.log k.old
      else ((s.journalOk t j.err).badMarks k.log j.bad).commit t k)

/-- RESTORE_COMPLETE (R142, R143, R518, R645): the scrub and a wake have ended and the journal is restored; the channel goes to ACTIVE, or to DRAINING under a channel drain. -/
def execRestoreComplete (p : Phys) (j : JRead) (s : State) : Res :=
  let c := s.phys[p]
  match s.logOf p with
  | none => .next s
  | some n =>
    if c.st ≠ .waking || c.wakeFor == .dormant || c.scrub || !c.woken s.aclk || !s.hrstN || !s.vddCore then .next s
    else if s.journalBad n j then .next (((s.journalLost n).quarantine p).unserve n p)
    else .next (((((s.journalOk (terP p) j.err).badMarks n j.bad).endWake p).goUp p n).arrive n p p (c.wakeFor == .reset))

end Sys2Proof.Machine
end

