-- ==== Sys2Proof/Machine/Power.lean ====
section
/-! DEFINITION. Sleep and the terrace clocks (R621 to R629), scrubs (R332, R333), and what an aclk brings by itself: the tick. -/

namespace Sys2Proof.Machine

/-! ## Quiet channels -/

/-- The started and waiting work of a queue lets its channel sleep (R621): only WAITs have started, and the rest stands at or behind a started WAIT or a HOLD without a kick. A satisfied WAIT that has not retired counts among the started ones. -/
def Que.quietWork (u : Que) : Bool :=
  u.acc.all (fun a => a.stage == .accepted || a.isWait)
    && match u.acc.find? fun a => a.stage == .accepted with
      | none => true
      | some a => (u.before a.id).any (fun b => b.stage ≠ .accepted) || (a.runs && a.d.hold && !a.replayed && u.kicks = 0)

/-- The fetches of a queue let its channel sleep: a refusal's wait does, an outstanding read does not (R621, R622). -/
def Que.quietFetch (u : Que) : Bool := !u.prd.out && u.refills.isEmpty && (u.refetch.isSome || u.fetches.isEmpty) && (u.rechain.isSome || u.chain.isNone)

/-- The channel `p` that serves `n` is quiet in this aclk (R621). -/
def State.quietNow (s : State) (p : Phys) (n : Log) : Bool :=
  let l := s.lch[n]
  let c := s.phys[p]
  l.qs.toList.all (fun u => u.quietWork && u.quietFetch && u.recs.isEmpty && u.owed = 0 && !u.dropPkt)
    && s.quietHost p && l.msg.isNone && !l.lkWake && !l.lastPend && l.reqs.all (· = 0) && ((fins 4).all fun q => (l.ready q).isNone)
    && c.locked.isNone && l.noEvents && !c.scrubbing s.aclk

/-- The quiet count of one channel at the end of an aclk (R622); an aclk with a demand, packet, pulse or post is not quiet (R626). -/
def State.countQuiet (s : State) (p : Phys) : State :=
  let c := s.phys[p]
  if c.st == .active && c.entry = 0 && s.hrstN && s.vddCore then
    match s.logOf p with
    | some n => s.modP p fun c => { c with quiet := if c.stirA ≠ some s.aclk && s.quietNow p n then c.quiet + 1 else 0 }
    | none => s
  else if c.quiet = 0 then s else s.modP p fun c => { c with quiet := 0 }

/-- IDLE_PERIOD_ELAPSE (R622, R623): the channel has been quiet for IDLE_LIMIT aclk; lk_awake drops and dormant entry begins. -/
def execIdlePeriodElapse (p : Phys) (s : State) : Res :=
  let c := s.phys[p]
  match s.logOf p with
  | none => .next s
  | some n =>
    let k := s.lch[n].port.idle
    when (c.st == .active && c.entry = 0 && k > 0 && c.quiet ≥ k && s.hrstN && s.vddCore) s
      (s.modP p fun c => { c with entry := s.aclk + 1 })

/-- DORMANT_ENTRY (R623): the entry's last step ends and the channel reads DORMANT. -/
def execDormantEntry (p : Phys) (s : State) : Res :=
  let c := s.phys[p]
  when (c.st == .active && c.entry > 0 && s.aclk ≥ c.entry - 1 + s.step1 (terP p) && s.hrstN && s.vddCore) s
    (s.modP p fun c => { c with st := .dormant, entry := 0, quiet := 0, c := { c.c with entries := satAdd 0xFFFF c.c.entries 1 } })

/-- A DORMANT channel whose demand was latched during its entry, or whose lk_wake is 1, begins to wake at the first aclk edge after it (R94, R626). -/
def State.latchedWake (s : State) (p : Phys) : State :=
  let c := s.phys[p]
  if c.st == .dormant && s.hrstN && s.vddCore && (c.latched || (s.logOf p).any fun n => s.lch[n].lkWake) then s.beginWake p else s

/-- WAKE_COMPLETE (R625): the wake of 24 aclk ends. -/
def execWakeComplete (p : Phys) (s : State) : Res :=
  let c := s.phys[p]
  match s.logOf p with
  | none => .next s
  | some n =>
    when (c.st == .waking && c.wakeFor == .dormant && c.wakeA.isSome && c.woken s.aclk && s.hrstN && s.vddCore) s ((s.endWake p).goUp p n)

/-! ## Terrace clocks -/

/-- Channel states in which a terrace may be asleep (R627). -/
def CS.sleeps : CS → Bool
  | .dormant | .off | .quarantined | .reserve => true
  | .waking | .active | .draining => false

/-- The terrace is asleep in this aclk (R627, R652). -/
def State.asleep (s : State) (t : Ter) : Bool :=
  let x := s.ters[t]
  !x.busy && !(x.cmd.any fun k => k.op == 5) && (physOf t).all fun p => s.phys[p].st.sleeps && !s.phys[p].scrub

/-- The terrace's count of consecutive aclk asleep. -/
def State.countAsleep (s : State) (t : Ter) : State :=
  let x := s.ters[t]
  if s.asleep t then if x.stopped then s else s.modT t fun x => { x with asleepA := min 8 (x.asleepA + 1) }
  else if x.asleepA = 0 then s else s.modT t fun x => { x with asleepA := 0 }

/-- TERRACE_CLOCK_STOP (R627): the terrace has been asleep for 8 aclk. -/
def execTerraceClockStop (t : Ter) (s : State) : Res :=
  let x := s.ters[t]
  when (!x.stopped && x.asleepA ≥ 8 && s.asleep t) s
    (s.modT t fun x => { x with stopped := true, clkstops := satAdd 0xFFFFFFFF x.clkstops 1 })

/-- A frame ends in a terrace whose tree is stopped (R638). -/
def State.countStop (s : State) (t : Ter) : State :=
  if s.ters[t].stopped then s.modT t fun x => { x with stopUs := satAdd 0xFFFFFFFF x.stopUs 1 } else s

/-! ## Scrubs -/

/-- A reclaimed channel whose store is scrubbed enters RESERVE (R528, R653, R679). -/
def State.reclaimed (s : State) (p : Phys) : State :=
  let t := terP p
  let us := s.ters[t].stestUs
  let u := (s.newPage p).modP p fun c => { c with
    st := .reserve, gate := true, frozen := [], parity := false, revived := false, missed := 0, monA := s.aclk, dieA := none }
  ((u.modT t fun x => { x with reserve := some p }).post 0x33 2 p (leBytes 1 t ++ [0, 0, 0] ++ leBytes 4 us)).svcEnd t true 0

/-- SCRUB_COMPLETE (R332): every word of the range holds zeros with good parity and a clear poison tag. At lock a reserve position then enters RESERVE, and a RECLAIM ends. `r.upset` are the words whose verification read had a parity error (R326). -/
def execScrubComplete (r : ScrubOf) (s : State) : Res :=
  let p := r.p
  let c := s.phys[p]
  let x := s.ters[terP p]
  if !c.scrub || !s.hrstN || !s.vddCore then .next s
  else
    let t := (s.scrubUpset p r.upset).modP p fun c => { c with scrub := false, scrubbed := true, kept := none }
    .next (if c.st == .off && x.reserve == some p then t.modP p fun c => { c with st := .reserve, missed := 0, monA := s.aclk }
      else if c.st == .quarantined && x.cmd.any fun k => k.op == 6 && k.phys = p.val then t.reclaimed p
      else t)

/-! ## The tick -/

/-- One aclk passes (R400, R512, R621, R627, R638, R683): interrupts follow their sources, RESUMEs that waited apply, counts of quiet and sleep go on, and reports of the last aclk are declared. -/
def State.tick (s : State) : State :=
  if !s.porN then s
  else
    let t := (fins 136).foldl (fun (t : State) p => t.countQuiet p) s.logWrite.svcStream
    let t := (fins 8).foldl (fun (t : State) x => t.countAsleep x) t
    let t : State := { t.latch with aclk := s.aclk + 1, irq := s.whole.sources }
    let t : State := if t.aclk % 100 = 0 then (fins 8).foldl (fun (t : State) x => t.countStop x) t else t
    let t := (fins 128).foldl (fun (t : State) n => t.resumes n) t
    let t := (fins 136).foldl (fun (t : State) p => t.latchedWake p) t
    t.reports.rewriteJ

end Sys2Proof.Machine
end

