-- ==== Sys2Proof/Machine/Boot.lean ====
section
/-! DEFINITION. Start-up and the resets (R143, R362, R557 to R578, R631, R632): the Gatehouse, the key port, image lock, hrst_n, por_n and vdd_core. -/

namespace Sys2Proof.Machine

/-! ## The key port -/

/-- The block makes a key-port request (R562). -/
def State.ask (s : State) (sel : Nat) : State :=
  { s with gate := { s.gate with kpReq := some (sel, s.aclk) }, kpOut := s.kpOut ++ [sel] }

/-- The counter and then the image key are requested for an authentication (R563). -/
def State.askAuth (s : State) : State := ({ s with gate := { s.gate with key := none, kpErr := 0 } } : State).ask 2

/-- The key of four beats, in byte order (R562). -/
def keyOf (beats : List (BitVec 64)) : Option (List Byte) :=
  if beats.length = 4 then some (beats.flatMap fun b => leBytes 8 b.toNat) else none

/-- The outstanding request is answered: `k` is its key, `v` its counter (R562, R563, R574). -/
def State.answered (s : State) (sel : Nat) (k : Option (List Byte)) (v : Option Nat) : State :=
  let s := { s with gate := { s.gate with kpReq := none } }
  match sel with
  | 1 => { s with ldg := { s.ldg with key := k } }
  | 2 =>
    let s := match v with
      | some c => { s with gate := { s.gate with kpCnt := c } }
      | none => { s with gate := { s.gate with kpErr := 1 } }
    s.ask 0
  | _ => { s with gate := { s.gate with key := k, kpErr := if s.gate.kpErr = 0 && k.isNone then 2 else s.gate.kpErr } }

/-- KEY_PORT_RESPONSE (R562, R563, R693): the response of the outstanding request, which began in time. -/
def execKeyPortResponse (r : KpRsp) (s : State) : Res :=
  match s.gate.kpReq with
  | some (sel, t) =>
    if s.aclk > t + 1000 then .next s
    else
      let key : Option (List Byte) := match r with
        | .key b => keyOf b
        | .counter _ | .err | .gapped => none
      let cnt : Option Nat := match r with
        | .key (b :: _) => some (b.toNat % 2 ^ 32)
        | .counter v => some (v.toNat % 2 ^ 32)
        | .key [] | .err | .gapped => none
      .next (s.answered sel key cnt)
  | none => .next s

/-- KEY_PORT_TIMEOUT (R563): no response has begun within 1,000 aclk, which counts as an error. -/
def execKeyPortTimeout (s : State) : Res :=
  match s.gate.kpReq with
  | some (sel, t) => when (s.aclk > t + 1000) s (s.answered sel none none)
  | none => .next s

/-! ## Lock -/

/-- A physical channel at image lock (R141, R333, R576): serving positions go to WAKING; a reserve position is scrubbed before it reaches RESERVE. -/
def lockPhys (now : Nat) (p : Phys) (c : PCh) : PCh :=
  if p.val % 17 = 16 then { c with scrub := true }
  else { c with st := .waking, wakeFor := .off, scrub := true, missed := 0, monA := now }

/-- A logical channel at image lock: queues with INIT_STATE ACTIVE are enabled, and balances stand at their caps (R78, R137, R402). -/
def lockLog (now : Nat) (l : LCh) : LCh :=
  { l with ins := mapV l.ins fun _ i => { i with contrib := [] }, qs := mapV l.qs fun _ u =>
      let v := u.fillBal now
      if v.cfg.initActive then v.enable 0 else v }

/-- The TAP at image lock: without TEST_OPEN only the mandatory instructions stay (R552). -/
def TapI.afterLock (i : TapI) : TapI :=
  match i with
  | .extest | .idcode | .sample | .bypass => i
  | .clampIdle | .scan | .mbist | .storeRd => .bypass

/-- A terrace at image lock: its tree runs for the wake of its channels; under ISOLATED (`keep` false) the service registers read their reset values (R655). -/
def TerSt.afterLock (keep : Bool) (x : TerSt) : TerSt :=
  let y := { x with stopped := false, asleepA := 0 }
  if keep then y else { y with op := 0, target := 0, sdone := false, sfail := false, result := 0 }

/-- Image lock (R20, R576, R655). -/
def State.lock (s : State) : State :=
  let g := s.gate
  let slot := g.slot
  let t := { s with gate := { g with
    st := .locked, locked := true, lockA := s.aclk, bootTime := s.frame, cands := [], fallback := slot ≠ g.first
    aReason := if slot = 0 then 0 else g.aReason, bReason := if slot = 0 then g.bReason else 0 } }
  let t := (t.allP (lockPhys s.aclk)).allL fun _ l => lockLog s.aclk l
  let t := { t with
    ters := mapV t.ters fun _ x => x.afterLock g.mode, svc := if g.mode then t.svc else {}
    edge := { t.edge with ters := mapV t.edge.ters fun _ x => x.afterLock g.mode, svc := if g.mode then t.edge.svc else {} }
    slices := mapV t.slices fun _ x => { x with bandR := { v := 400, at_ := s.aclk }, bandW := { v := 400, at_ := s.aclk } }
    tap := if g.testOpen then t.tap else { t.tap with ir := t.tap.ir.afterLock } }
  t.post 1 2 0 (leBytes 1 slot ++ leBytes 1 (b2n g.mode) ++ leBytes 1 (b2n g.svcPath) ++ [0] ++ leBytes 4 g.version)

/-! ## The Gatehouse -/

/-- READY_WAIT_END (R561): the ready wait of 2,500 aclk is over. -/
def execReadyWaitEnd (s : State) : Res :=
  when (s.porN && s.gate.st == .reset && s.aclk ≥ 2500) s { s with gate := { s.gate with st := .ledger } }

/-- A slot is rejected (R574, R587). -/
def State.bootReject (s : State) (slot code det : Nat) : State :=
  let g := s.gate
  ({ s with gate := { g with
      bootDet := det, aReason := if slot = 0 then code else g.aReason, bReason := if slot = 0 then g.bReason else code } } : State).post 2 2 slot
    (leBytes 1 code ++ [0, 0, 0] ++ leBytes 4 det)

/-- The next candidate's load begins, or the Gatehouse fails (R561, R573, R575). -/
def State.nextCand (s : State) : State :=
  let t := s.rwlReset
  match t.gate.cands with
  | (slot, _) :: _ => ({ t with gate := { t.gate with st := .loading, slot } } : State).askAuth
  | [] => { t with gate := { t.gate with st := .failed, key := none } }

/-- The candidates of two headers: highest VERSION first, slot A first when they are equal (R573). -/
def candidates (ha hb : List Byte) : List (Nat × Nat) :=
  let a := if (headerFail ha 1).isNone then [(0, field ha 8 4)] else []
  let b := if (headerFail hb 1).isNone then [(1, field hb 8 4)] else []
  if field hb 12 4 > field ha 12 4 then b ++ a else a ++ b

/-- HEADERS_READ (R570, R573, R574): the headers of slots A and B. -/
def execHeadersRead (ha hb : List Byte) (s : State) : Res :=
  if s.gate.st ≠ .headers then .next s
  else
    let s := s.spiReads [(0, 64), (0x100000, 64)]
    let t := match headerFail ha 1 with
      | some (c, d) => s.bootReject 0 c d
      | none => s
    let t := match headerFail hb 1 with
      | some (c, d) => t.bootReject 1 c d
      | none => t
    let cs := candidates ha hb
    .next ({ t with gate := { t.gate with cands := cs, first := (cs.head?.map Prod.fst).getD 0 } } : State).nextCand

/-- The tag of an image under a key is valid (R571). -/
def tagOk (key b : List Byte) : Bool := hmac key (b.take (b.length - 32)) == b.drop (b.length - 32)

/-- Checks 6 to 8 of an image (R574). -/
def authFail (g : Gate) (b : List Byte) : Option (Nat × Nat) :=
  match g.key with
  | none => some (6, if g.kpErr = 0 then 2 else g.kpErr)
  | some key =>
    if g.kpErr ≠ 0 then some (6, g.kpErr)
    else if !tagOk key b then some (7, 0)
    else if field b 12 4 < g.kpCnt then some (8, g.kpCnt)
    else none

/-- The first failing check of a boot candidate from 6 to 11 (R574). -/
def State.candFail (s : State) (b : List Byte) : Option (Nat × Nat) :=
  match authFail s.gate b with
  | some f => some f
  | none => contentFail false b s

/-- A candidate whose key requests are answered is being loaded; `b` are the bytes of its IMAGE_LEN, unless the key failed. -/
def State.loadingOf (s : State) (b : List Byte) : Option Nat :=
  match s.gate.cands with
  | (slot, len) :: _ =>
    if s.gate.st == .loading && s.gate.kpReq.isNone && (b.length = len || s.gate.kpErr ≠ 0) then some slot else none
  | [] => none

/-- An image has streamed from NVM address `a` (R566). -/
def State.readImage (s : State) (a : Nat) (img : List Byte) : State := if img.isEmpty then s else s.spiReads [(a, img.length)]

/-- CANDIDATE_PASS (R573, R576): the candidate passes checks 6 to 11; its fields take effect at lock. -/
def execCandidatePass (img : List Byte) (s : State) : Res :=
  match s.loadingOf img with
  | some slot =>
    if (s.candFail img).isSome then .next s
    else
      let t := (s.loadBoot img).readImage (0x100000 * slot) img
      let t := { t with gate := { t.gate with key := none, version := field img 12 4, st := .lockWait } }
      .next (if s.hrstN then t.lock else t)
  | none => .next s

/-- CANDIDATE_REJECT (R573 to R575): the candidate fails a check. -/
def execCandidateReject (img : List Byte) (s : State) : Res :=
  match s.loadingOf img, s.candFail img with
  | some slot, some (c, d) =>
    let t := (s.readImage (0x100000 * slot) img).bootReject slot c d
    .next ({ t with gate := { t.gate with key := none, cands := t.gate.cands.drop 1 } } : State).nextCand
  | _, _ => .next s

/-! ## Resets and supplies -/

/-- The block after an assertion of por_n (R558, R667): the reset state, with its input pins, its TAP and what it has driven so far. -/
def State.porState (s : State) : State :=
  { State.reset with
    hrstN := s.hrstN, vddCore := s.vddCore, hclk := s.hclk
    lch := mapV State.reset.lch fun n l => { l with lkWake := s.lch[n].lkWake }
    tap := { s.tap with running := [] }
    linkOut := s.linkOut, evOut := s.evOut, hostOut := s.hostOut, rspOut := s.rspOut, kpOut := s.kpOut, nvmOut := s.nvmOut, spiOut := s.spiOut
    free := s.free, nextId := s.nextId, pending := s.pending }

/-- POR_ASSERT (R558, R667). -/
def execPorAssert (s : State) : Res := .next s.porState

/-- POR_DEASSERT (R558, R563, R564, R690): the first aclk edge after por_n deasserts. -/
def execPorDeassert (quad addr4 dual : Bool) (s : State) : Res :=
  when (!s.porN) s (State.ask { s with porN := true, aclk := 0, gate := { s.gate with quad, addr4, dual } } 1)

/-- A slice when hrst_n falls: nothing is granted, staged or outstanding (R362, R371). -/
def Slice.cleared (x : Slice) : Slice := { x with issue := [], hold := none, out := [], lastH := none, lastP := none, bufs := [], wFree := 0, rdP := none, lastB := none, wd := [] }

/-- HRST_ASSERT (R143, R360, R362, R371): the data plane stops, locks break, and what it held is gone. -/
def execHrstAssert (s : State) : Res :=
  if !s.hrstN then .next s
  else
    let t := { s with hrstN := false }
    let t := (fins 128).foldl (fun t n => t.endDrain n) t
    let t := (fins 16).foldl (fun t sl => (t.lockBreak sl 3).modS sl Slice.cleared) t
    let t := t.allP fun _ c => { c with pend := [], locked := none, entry := 0, latched := false, quiet := 0 }
    let t := { t with rdPorts := mapV t.rdPorts fun _ r => { r with rin := [] } }
    .next ((fins 128).foldl (fun t n => if (t.servP n).isSome then t.restoreL n else t) t)

/-- HRST_DEASSERT (R143, R362, R561): every slice lock is free and BROKEN; a waiting image locks, and every serving channel is reset. While vdd_core is absent R632 gives no outcome. -/
def execHrstDeassert (s : State) : Res :=
  if s.hrstN then .next s
  else if !s.vddCore then .fault .supplyOutside
  else
    let t := { s with hrstN := true, slices := mapV s.slices fun _ x => { x with lock := { broken := true, cause := 3 } } }
    if t.gate.st == .lockWait then .next t.lock
    else .next ((fins 128).foldl (fun t n => match t.servP n with
      | some p => t.channelReset p n
      | none => t) t)

/-- VDD_CORE_REMOVAL (R631, R632, R695): only while hrst_n is 0. -/
def execVddCoreRemoval (s : State) : Res :=
  if s.hrstN then .fault .supplyOutside else .next { s with vddCore := false }

/-- VDD_CORE_RETURN (R631, R695). -/
def execVddCoreReturn (s : State) : Res := .next { s with vddCore := true }

end Sys2Proof.Machine
end

