-- ==== Sys2Proof/Machine/Registers.lean ====
section
/-! DEFINITION. The management registers (R662 to R681): the address map, the rights of a requester, the value of every register, and what a read changes. -/

namespace Sys2Proof.Machine

/-- The registers of a task-input record (R453 to R457). -/
inductive TrlReg where
  | maskLo | maskHi | bind | allow | rate | ext | stat | acts
deriving DecidableEq, Repr

/-- The registers of a terrace block (R452, R529 to R532, R637, R638, R657 to R659). -/
inductive TerReg where
  | map (i : Fin 4) | stat | quar | last | takeovers | revivals | jecc | clk | clkstops | stopus | bcast | svc | svcstat | stest | oos | vacant
deriving DecidableEq, Repr

/-- The registers of the map (R668). -/
inductive Reg where
  | glbId | glbRev | glbStatus | glbWrlast | glbFault | glbIrq | glbBoot | glbBootdet | glbVersion | glbBoottime | glbKpcnt | glbSec
  | svcAddr | svcCtl | svcStat | svcDet
  | ldgStatus | ldgCfg | ldgNextLo | ldgNextHi | ldgLostcnt | ldgWritten | ldgRdpos | ldgRdctl | ldgRdstat | ldgRd (j : Fin 8)
  | arbCfg | arbStatus | arbStarve (j : Fin 16) | arbStarveCnt | arbPreempt | arbWdbite | arbWdlast | arbMaxwait | arbClass (i : Fin 64)
  | sunCfg | sunStatus | sunCap | sunGrant | sunFrame | sunMiss | sunRefuse | sunCclk (t : Ter) | sunRes (i : Fin 256)
  | hptCfg | hptFence (i : Fin 16) | hptFdrain (j : Fin 4) | hptLock (sl : SliceN) | hptDefer | hptFenced | hptLbreak | hptHerr | hptStray
  | trl (n : Log) (x : Fin 4) (k : TrlReg)
  | chn (p : Phys) (off : Nat) (k : ChnReg)
  | ter (t : Ter) (k : TerReg)
  | domWin (d : Dom) (w : Fin 64) (k : Fin 4) | domAttr (d : Dom) | domRfault (d : Dom) | rfLast | rfLo | rfHi
deriving DecidableEq, Repr

/-! ## The address map -/

/-- The GLB block (R668); `o` counts words. -/
def glbAt (o : Nat) : Option Reg :=
  match o with
  | 0x00 => some .glbId
  | 0x01 => some .glbRev
  | 0x02 => some .glbStatus
  | 0x03 => some .glbWrlast
  | 0x04 => some .glbFault
  | 0x05 => some .glbIrq
  | 0x08 => some .glbBoot
  | 0x09 => some .glbBootdet
  | 0x0A => some .glbVersion
  | 0x0B => some .glbBoottime
  | 0x0C => some .glbKpcnt
  | 0x10 => some .glbSec
  | 0x14 => some .svcAddr
  | 0x15 => some .svcCtl
  | 0x16 => some .svcStat
  | 0x17 => some .svcDet
  | _ => none

/-- The LDG block (R668); `o` counts words. -/
def ldgAt (o : Nat) : Option Reg :=
  match o with
  | 0x00 => some .ldgStatus
  | 0x01 => some .ldgCfg
  | 0x02 => some .ldgNextLo
  | 0x03 => some .ldgNextHi
  | 0x04 => some .ldgLostcnt
  | 0x05 => some .ldgWritten
  | 0x08 => some .ldgRdpos
  | 0x09 => some .ldgRdctl
  | 0x0A => some .ldgRdstat
  | _ => if 0x10 ≤ o && o < 0x18 then some (.ldgRd (Fin.ofNat 8 o)) else none

/-- The ARB block (R668); `o` counts words. -/
def arbAt (o : Nat) : Option Reg :=
  match o with
  | 0x00 => some .arbCfg
  | 0x01 => some .arbStatus
  | 0x20 => some .arbStarveCnt
  | 0x21 => some .arbPreempt
  | 0x22 => some .arbWdbite
  | 0x23 => some .arbWdlast
  | 0x24 => some .arbMaxwait
  | _ =>
    if 0x10 ≤ o && o < 0x20 then some (.arbStarve (Fin.ofNat 16 o))
    else if 0x40 ≤ o && o < 0x80 then some (.arbClass (Fin.ofNat 64 o)) else none

/-- The SUN block (R668); `o` counts words. -/
def sunAt (o : Nat) : Option Reg :=
  match o with
  | 0x00 => some .sunCfg
  | 0x01 => some .sunStatus
  | 0x02 => some .sunCap
  | 0x03 => some .sunGrant
  | 0x04 => some .sunFrame
  | 0x05 => some .sunMiss
  | 0x06 => some .sunRefuse
  | _ =>
    if 0x08 ≤ o && o < 0x10 then some (.sunCclk (Fin.ofNat 8 o))
    else if 0x40 ≤ o && o < 0x140 then some (.sunRes (Fin.ofNat 256 (o - 0x40))) else none

/-- The HPT block (R668); `o` counts words. -/
def hptAt (o : Nat) : Option Reg :=
  match o with
  | 0x00 => some .hptCfg
  | 0x30 => some .hptDefer
  | 0x31 => some .hptFenced
  | 0x32 => some .hptLbreak
  | 0x33 => some .hptHerr
  | 0x34 => some .hptStray
  | _ =>
    if 0x04 ≤ o && o < 0x14 then some (.hptFence (Fin.ofNat 16 (o - 4)))
    else if 0x14 ≤ o && o < 0x18 then some (.hptFdrain (Fin.ofNat 4 o))
    else if 0x20 ≤ o && o < 0x30 then some (.hptLock (Fin.ofNat 16 o)) else none

/-- The registers of a TRL record (R453); `o` counts words. -/
def trlAt (o : Nat) : Option TrlReg :=
  match o with
  | 0x0 => some .maskLo
  | 0x1 => some .maskHi
  | 0x2 => some .bind
  | 0x3 => some .allow
  | 0x4 => some .rate
  | 0x5 => some .ext
  | 0x8 => some .stat
  | 0x9 => some .acts
  | _ => none

/-- The registers of a TER block (R668); `o` counts words. -/
def terAt (o : Nat) : Option TerReg :=
  match o with
  | 0x04 => some .stat
  | 0x05 => some .quar
  | 0x06 => some .last
  | 0x08 => some .takeovers
  | 0x09 => some .revivals
  | 0x0A => some .jecc
  | 0x0C => some .clk
  | 0x0D => some .clkstops
  | 0x0E => some .stopus
  | 0x10 => some .bcast
  | 0x14 => some .svc
  | 0x15 => some .svcstat
  | 0x16 => some .stest
  | 0x17 => some .oos
  | 0x18 => some .vacant
  | _ => if o < 4 then some (.map (Fin.ofNat 4 o)) else none

/-- The DOM block (R668); `o` counts words. -/
def domAt (o : Nat) : Option Reg :=
  if o < 0x1000 then some (.domWin (Fin.ofNat 16 (o / 0x100)) (Fin.ofNat 64 (o / 4)) (Fin.ofNat 4 o))
  else if o < 0x1010 then some (.domAttr (Fin.ofNat 16 o))
  else if o < 0x1020 then some (.domRfault (Fin.ofNat 16 o))
  else match o with
    | 0x1020 => some .rfLast
    | 0x1021 => some .rfLo
    | 0x1022 => some .rfHi
    | _ => none

/-- The register at an offset of the window, bits 1:0 ignored (R662, R668). -/
def regAt (off : BitVec 20) : Option Reg :=
  let a := off.toNat / 4 * 4
  let w := a / 4
  if a < 0x1000 then glbAt w
  else if a < 0x2000 then ldgAt (w - 0x400)
  else if a < 0x3000 then arbAt (w - 0x800)
  else if a < 0x4000 then sunAt (w - 0xC00)
  else if a < 0x5000 then hptAt (w - 0x1000)
  else if a < 0x8000 then none
  else if a < 0x10000 then
    let r := (a - 0x8000) / 64
    (trlAt (a % 64 / 4)).map fun k => .trl (Fin.ofNat 128 (r / 4)) (Fin.ofNat 4 r) k
  else if a < 0x98000 then (chnAt (a % 0x1000)).map fun k => .chn (Fin.ofNat 136 (a / 0x1000 - 0x10)) (a % 0x1000) k
  else if a < 0xA0000 then none
  else if a < 0xA0800 then (terAt (a % 0x100 / 4)).map fun k => .ter (Fin.ofNat 8 (a / 0x100)) k
  else if a < 0xB0000 then none
  else domAt (w - 0x2C000)

/-! ## Rights -/

/-- The access counts as one from a secure domain (R541, R542). -/
def State.secure (s : State) (r : Rqr) : Bool := r.sec && (!s.gate.locked || s.secOf r.dom)

/-- After lock, mg_sec agrees with SEC of mg_dom (R541). -/
def State.honest (s : State) (r : Rqr) : Bool := r.sec == s.secOf r.dom

/-- The requester holds a management right after lock; a secure domain holds every right (R541, R544). -/
def State.right (s : State) (r : Rqr) (f : DomSt → Bool) : Bool := s.secure r || (s.honest r && f s.doms[r.dom])

/-- The valid queues of a logical channel (R604). -/
def LCh.valids (l : LCh) : List Que := l.qs.toList.filter fun u => u.cfg.valid

/-- A requester may read the page of `p` (R543, R680). -/
def State.mayPage (s : State) (r : Rqr) (p : Phys) : Bool :=
  s.secure r || match s.pageOwner p with
    | some n => (s.lch[n].valids.any fun u => u.cfg.dom = r.dom) && s.lch[n].valids.all fun u => !s.secOf u.cfg.dom
    | none => false

/-- A requester may read the DOM registers of `d` (R543). -/
def State.mayDom (s : State) (r : Rqr) (d : Dom) : Bool := s.secure r || r.dom = d

/-- A non-secure requester may read the register before lock (R542). -/
def Reg.open_ : Reg → Bool
  | .glbId | .glbRev | .glbStatus | .glbSec => true
  | _ => false

/-- The read is not refused (R542, R543); an unmapped offset is refused only before lock. -/
def State.mayRead (s : State) (r : Rqr) (g : Option Reg) : Bool :=
  s.secure r || match g with
    | none => s.gate.locked
    | some g =>
      if !s.gate.locked then g.open_
      else match g with
        | .ldgRdpos | .ldgRdctl | .ldgRdstat | .ldgRd _ => false
        | .chn p _ _ => s.mayPage r p
        | _ => true

/-! ## Values -/

/-- 32-bit word `j` of a byte list (R588). -/
def word32 (l : List Byte) (j : Nat) : Nat := field l (4 * j) 4

/-- A physical channel or 0xFF. -/
def physOr (o : Option Phys) : Nat := (o.map fun p => p.val).getD 0xFF

/-- HPT_LOCK (R366). -/
def State.lockWord (s : State) (sl : SliceN) : Nat :=
  let k := s.slices[sl].lock
  let left := match s.leaseStart sl s.hclk with
    | some h => if k.held then min 0x3FF (s.hpt.lease - ((if k.granted then k.endH else s.hclk) - h)) else 0
    | none => 0
  b2n k.held + 2 * b2n k.broken + 4 * k.cause + 2 ^ 8 * k.owner + 2 ^ 16 * k.inc + 2 ^ 20 * left

/-- TRL registers (R454 to R457). -/
def TIn.word (t : TIn) (k : TrlReg) : Nat :=
  match k with
  | .maskLo => t.mask.toNat % 2 ^ 32
  | .maskHi => t.mask.toNat / 2 ^ 32
  | .bind => t.queue.val + 4 * t.mode + 16 * t.haltAct + 2 ^ 8 * t.drainMask + 2 ^ 16 * t.owner.val + 2 ^ 20 * b2n t.sec
  | .allow => t.allow.toNat
  | .rate => t.rate
  | .ext => t.ext0 + 16 * t.ext1
  | .stat => t.merged + 2 ^ 8 * b2n t.overrun + 2 ^ 9 * b2n t.loop + 2 ^ 10 * b2n t.heldGen.isSome + 2 ^ 12 * t.lastGen + 2 ^ 16 * t.loops
  | .acts => t.acts

/-- The reserve of a stopped terrace, or a DORMANT channel, is asleep (R637). -/
def State.sleepsAt (s : State) (t : Ter) (p : Phys) : Bool :=
  s.phys[p].st == .dormant || (s.phys[p].st == .reserve && s.ters[t].stopped)

/-- TER registers (R529 to R532, R637, R638, R657 to R659). -/
def State.terWord (s : State) (t : Ter) (k : TerReg) : Nat :=
  let x := s.ters[t]
  match k with
  | .map i => ((List.range 4).map fun j => 2 ^ (8 * j) * physOr s.map[logAt t (Fin.ofNat 16 (4 * i + j))]).sum
  | .stat => physOr x.reserve + 2 ^ 8 * b2n (x.busy && !(x.tko.any Tko.swap)) + 2 ^ 9 * b2n x.noRes + 2 ^ 10 * b2n x.jue
  | .quar => bitsOf ((physOf t).map fun p => s.phys[p].st == .quarantined)
  | .last => x.lastPhys + 2 ^ 8 * x.lastLog + 2 ^ 15 * b2n x.lastRes + 2 ^ 16 * x.lastOld + 2 ^ 20 * x.lastNew + 2 ^ 24 * x.lastCause
  | .takeovers => x.takeovers
  | .revivals => x.revivals
  | .jecc => x.jecc + 2 ^ 16 * x.juec
  | .clk => bitsOf ((physOf t).map fun p => s.sleepsAt t p) + 2 ^ 31 * b2n x.stopped
  | .clkstops => x.clkstops
  | .stopus => x.stopUs
  | .bcast | .svc => 0
  | .svcstat => x.op + 8 * b2n x.cmd.isSome + 16 * b2n x.sdone + 32 * b2n x.sfail + 2 ^ 8 * x.result + 2 ^ 16 * x.target
  | .stest => x.stest.toNat
  | .oos => bitsOf ((logsOf t).map fun n => s.lch[n].oos)
  | .vacant => x.vacant.toNat

/-- A window register (R554). -/
def Win.word (w : Win) (k : Fin 4) : Nat :=
  match k.val with
  | 0 => w.base % 2 ^ 32
  | 1 => w.base / 2 ^ 32
  | 2 => w.limit % 2 ^ 32
  | _ => w.limit / 2 ^ 32 + 2 ^ 8 * b2n w.r + 2 ^ 9 * b2n w.w + 2 ^ 10 * b2n w.l + 2 ^ 11 * b2n w.share

/-- The RESERVATION of queue index `x` (R428). -/
def State.resAt (s : State) (x : Nat) : Nat := (s.que (Fin.ofNat 128 (x / 4)) (Fin.ofNat 4 x)).cfg.res

/-- The class of field `k` of ARB_CLASSi (R385). -/
def State.clsAt (s : State) (i : Fin 64) (k : Nat) : Nat := (s.que (Fin.ofNat 128 (2 * i + k / 4)) (Fin.ofNat 4 k)).cls

/-- HPT_FDRAIN (R365). -/
def State.fdrainWord (s : State) (j : Fin 4) : Nat :=
  bitsOf ((List.range 32).map fun k => s.lch[Fin.ofNat 128 (32 * j.val + k)].fleft ≠ 0)

/-- GLB_BOOT (R587). -/
def Gate.bootWord (g : Gate) : Nat :=
  (match g.st with
    | .reset => 0
    | .ledger => 1
    | .headers => 2
    | .loading => 3
    | .lockWait => 4
    | .locked => 5
    | .failed => 6) + 8 * g.slot + 16 * b2n g.fallback + 2 ^ 8 * g.aReason + 2 ^ 12 * g.bReason
    + 2 ^ 16 * b2n g.quad + 2 ^ 17 * b2n g.addr4 + 2 ^ 18 * b2n g.dual

/-- The value that a register holds for a requester that may read it (R664, R665, R668 to R679). -/
def State.regVal (s : State) (r : Rqr) (g : Reg) : Nat :=
  match g with
  | .glbId => 0x5A4D0136
  | .glbRev => 0x00020000
  | .glbStatus => b2n s.gate.locked + 2 * b2n s.gate.lockedWrite + 4 * b2n s.gate.denied + 8 * b2n s.gate.unmapped + 16 * b2n s.hrstN
  | .glbWrlast => s.gate.wrlast
  | .glbFault => s.gate.dead.toNat
  | .glbIrq => s.glbIrq
  | .glbBoot => s.gate.bootWord
  | .glbBootdet => s.gate.bootDet
  | .glbVersion => if s.gate.locked then s.gate.version else 0
  | .glbBoottime => s.gate.bootTime
  | .glbKpcnt => s.gate.kpCnt
  | .glbSec => s.glbSec
  | .svcAddr => s.svc.addr
  | .svcCtl => 0
  | .svcStat => b2n s.svc.busy + 2 * b2n s.svc.done + 4 * b2n s.svc.fail + 16 * s.svc.code
  | .svcDet => s.svc.det
  | .ldgStatus => b2n s.ldg.valid + 2 * b2n s.ldg.noHead + 4 * b2n s.ldg.mismatch + 8 * b2n s.ldg.lost + 16 * b2n s.ldg.keyErr
      + 32 * b2n s.ldg.cur.isSome + 2 ^ 8 * s.ldg.queue.length
  | .ldgCfg => b2n s.ldg.irqEn
  | .ldgNextLo => s.ldg.next % 2 ^ 32
  | .ldgNextHi => s.ldg.nextCap.getD (s.ldg.next / 2 ^ 32)
  | .ldgLostcnt => s.ldg.lostCnt
  | .ldgWritten => s.ldg.written
  | .ldgRdpos => s.ldg.rdpos
  | .ldgRdctl => 0
  | .ldgRdstat => b2n s.ldg.rdBusy + 2 * b2n s.ldg.rdDone
  | .ldgRd j => if j = 0 then word32 s.ldg.rd 0 else word32 (s.ldg.rdCap.getD s.ldg.rd) j
  | .arbCfg => s.arb.limit + 2 ^ 16 * s.arb.pmin + 2 ^ 20 * b2n s.arb.irqEn
  | .arbStatus => b2n s.arb.classRej + 2 * b2n s.arb.wdBite
  | .arbStarve j => (s.arb.starve.extractLsb' (32 * j) 32).toNat
  | .arbStarveCnt => s.arb.starveCnt
  | .arbPreempt => s.arb.preempt
  | .arbWdbite => s.arb.bites
  | .arbWdlast => s.arb.wdSlice + 2 ^ 8 * s.arb.wdPhys
  | .arbMaxwait => s.arb.maxwait
  | .arbClass i => ((List.range 8).map fun k => 2 ^ (4 * k) * s.clsAt i k).sum
  | .sunCfg => s.sun.hclk + 2 ^ 16 * s.sun.hostLat + 2 ^ 31 * b2n s.sun.irqEn
  | .sunStatus => b2n s.sun.miss + 2 * b2n s.sun.strideBound
  | .sunCap => s.sun.tokens + 2 ^ 16 * s.sun.promised
  | .sunGrant => s.sun.gns + 2 ^ 16 * s.sun.pqueues
  | .sunFrame => s.frame
  | .sunMiss => s.sun.misses
  | .sunRefuse => s.sun.refuse
  | .sunCclk t => s.sun.cclk[t]
  | .sunRes i => s.resAt (2 * i) + 2 ^ 16 * s.resAt (2 * i + 1)
  | .hptCfg => s.hpt.lease
  | .hptFence i => ((List.range 8).map fun k => 2 ^ (4 * k) * s.inc (Fin.ofNat 128 (8 * i.val + k))).sum
  | .hptFdrain j => s.fdrainWord j
  | .hptLock sl => s.lockWord sl
  | .hptDefer => s.hpt.defer
  | .hptFenced => s.hpt.fenced
  | .hptLbreak => s.hpt.lbreak
  | .hptHerr => s.hpt.herr
  | .hptStray => s.hpt.stray
  | .trl n x k => if (s.tin n x).sec && !s.secure r then 0 else (s.tin n x).word k
  | .chn p off k => s.chnRead p off k
  | .ter t k => s.terWord t k
  | .domWin d w k => if s.mayDom r d then s.doms[d].wins[w].word k else 0
  | .domAttr d => if s.mayDom r d then
      b2n s.doms[d].sec + 2 * b2n s.doms[d].arb + 4 * b2n s.doms[d].bcast + 8 * b2n s.doms[d].svc else 0
  | .domRfault d => if s.mayDom r d then s.doms[d].rfault else 0
  | .rfLast => if s.mayDom r (Fin.ofNat 16 s.rf.dom) then s.rf.dom + 16 * s.rf.kind + 2 ^ 6 * s.rf.q + 2 ^ 8 * s.rf.log else 0
  | .rfLo => match s.rf.capLo with
    | some v => if s.mayDom r (Fin.ofNat 16 s.rf.capDom) then v else 0
    | none => if s.mayDom r (Fin.ofNat 16 s.rf.dom) then s.rf.addr % 2 ^ 32 else 0
  | .rfHi => match s.rf.capHi with
    | some v => if s.mayDom r (Fin.ofNat 16 s.rf.capDom) then v else 0
    | none => if s.mayDom r (Fin.ofNat 16 s.rf.dom) then s.rf.addr / 2 ^ 32 else 0

/-- The RWL bits of a register (R395, R424, R427, R454 to R456, R363, R588). -/
def Reg.rwlBits : Reg → BitVec 32
  | .ldgCfg => 0x1
  | .arbCfg => 0x17FFFF
  | .sunCfg => 0x81FF07FF
  | .sunCclk _ => 0x7FF
  | .hptCfg => 0x3FF
  | .trl _ _ .maskLo => 0xFFFFFFFF
  | .trl _ _ .maskHi | .trl _ _ .allow | .trl _ _ .rate => 0xFFFF
  | .trl _ _ .bind => 0x1F0F3F
  | .trl _ _ .ext => 0xFF
  | _ => 0

/-- What a read of a register returns: while a candidate streams, its RWL bits are a free value (R573, R575). -/
def State.readVal (s : State) (r : Rqr) (g : Reg) : Word :=
  let v := BitVec.ofNat 32 (s.regVal r g)
  if s.gate.st == .loading then (v &&& ~~~g.rwlBits) ||| (Config.loadingBits s.free &&& g.rwlBits) else v

/-! ## What a read changes -/

/-- The first register of a snapshot group captures the others (R665). -/
def State.capture (s : State) (g : Reg) : State :=
  match g with
  | .ldgNextLo => { s with ldg := { s.ldg with nextCap := some (s.ldg.next / 2 ^ 32) } }
  | .ldgRd j => if j = 0 then { s with ldg := { s.ldg with rdCap := some s.ldg.rd } } else s
  | .rfLast => { s with rf := { s.rf with capDom := s.rf.dom, capLo := some (s.rf.addr % 2 ^ 32), capHi := some (s.rf.addr / 2 ^ 32) } }
  | _ => s

/-- The RC fields of a register clear, but for what this aclk has counted (R10, R11, R664, R684). -/
def State.rcClear (s : State) (g : Reg) : State :=
  match g with
  | .ldgLostcnt => s.modE fun e => { e with ldg := { e.ldg with lostCnt := 0 } }
  | .ldgWritten => s.modE fun e => { e with ldg := { e.ldg with written := 0 } }
  | .arbStarveCnt => s.modE fun e => { e with arb := { e.arb with starveCnt := 0 } }
  | .arbPreempt => s.modE fun e => { e with arb := { e.arb with preempt := 0 } }
  | .arbWdbite => s.modE fun e => { e with arb := { e.arb with bites := 0 } }
  | .arbMaxwait => s.modE fun e => { e with arb := { e.arb with maxwait := 0 } }
  | .sunMiss => s.modE fun e => { e with sun := { e.sun with misses := 0 } }
  | .sunRefuse => s.modE fun e => { e with sun := { e.sun with refuse := 0 } }
  | .hptDefer => s.modE fun e => { e with hpt := { e.hpt with defer := 0 } }
  | .hptFenced => s.modE fun e => { e with hpt := { e.hpt with fenced := 0 } }
  | .hptLbreak => s.modE fun e => { e with hpt := { e.hpt with lbreak := 0 } }
  | .hptHerr => s.modE fun e => { e with hpt := { e.hpt with herr := 0 } }
  | .hptStray => s.modE fun e => { e with hpt := { e.hpt with stray := 0 } }
  | .trl n x k => match k with
    | .stat => s.modEI n x fun t => { t with merged := 0, loops := 0 }
    | .acts => s.modEI n x fun t => { t with acts := 0 }
    | _ => s
  | .chn p _ k => if s.phys[p].st == .quarantined || !s.hrstN then s else s.modE fun e => { e with phys := e.phys.set p (e.phys[p].clear k) }
  | .ter t k => match k with
    | .takeovers => s.modET t fun x => { x with takeovers := 0 }
    | .revivals => s.modET t fun x => { x with revivals := 0 }
    | .jecc => s.modET t fun x => { x with jecc := 0, juec := 0 }
    | .clkstops => s.modET t fun x => { x with clkstops := 0 }
    | .stopus => s.modET t fun x => { x with stopUs := 0 }
    | _ => s
  | .domRfault d => s.modE fun e => { e with doms := e.doms.set d { e.doms[d] with rfault := 0 } }
  | _ => s

/-- The offset of an access, bits 1:0 ignored (R662). -/
def offOf (off : BitVec 20) : Nat := off.toNat / 4 * 4

/-- A management read (R542, R543, R662 to R665): mg_rdata takes the value; a refused read returns 0 and sets ACCESS_DENIED. A read that clears RC fields returns their value before this aclk (R684). -/
def State.mgRead (s : State) (off : BitVec 20) (r : Rqr) : State :=
  let g := regAt off
  if !s.mayRead r g then { (s.denied r.dom (offOf off)) with mgRdata := 0 }
  else match g with
    | none => { s with mgRdata := 0 }
    | some g =>
      let t := s.capture g
      let clears := s.secure r && s.gate.locked
      let t := if clears then t.rcClear g else t
      { t with mgRdata := (s.held (!clears)).readVal r g, free := if s.gate.st == .loading then s.free + 1 else s.free }

/-- RC_READ (R10, R664): a management read; a secure read after lock of a register with RC fields clears them. -/
def execRcRead (off : BitVec 20) (r : Rqr) (s : State) : Res := when s.porN s (s.mgRead off r)

/-- SNAPSHOT_READ (R665): a management read; the first register of a group captures the others. -/
def execSnapshotRead (off : BitVec 20) (r : Rqr) (s : State) : Res := when s.porN s (s.mgRead off r)

/-! ## Refused writes -/

/-- GLB_WRLAST takes a refused write (R671). -/
def State.wrlast (s : State) (off : BitVec 20) (r : Rqr) (cause : Nat) : State :=
  { s with gate := { s.gate with wrlast := offOf off + 2 ^ 20 * r.dom.val + 2 ^ 24 * b2n r.sec + 2 ^ 25 * cause } }

/-- A write refused with LOCKED_WRITE; under ISOLATED after lock it is recorded in the ledger (R10, R47, R560). -/
def State.refuseLocked (s : State) (off : BitVec 20) (r : Rqr) : State :=
  let t := ({ s with gate := { s.gate with lockedWrite := true } } : State).wrlast off r 1
  if s.gate.locked && !s.gate.mode then t.post 6 2 r.dom (leBytes 4 (offOf off)) else t

/-- A write refused with ACCESS_DENIED (R543). -/
def State.refuseDenied (s : State) (off : BitVec 20) (r : Rqr) : State := (s.denied r.dom (offOf off)).wrlast off r 2

/-- A refused write (R681): under ISOLATED after lock as R47 states, otherwise as R543 states. -/
def State.refuseWrite (s : State) (off : BitVec 20) (r : Rqr) : State :=
  if s.gate.locked && !s.gate.mode then s.refuseLocked off r else s.refuseDenied off r

/-- A write to an unmapped offset (R663). -/
def State.unmappedWrite (s : State) (off : BitVec 20) (v : Word) (r : Rqr) : State :=
  if v = 0 then s else ({ s with gate := { s.gate with unmapped := true } } : State).wrlast off r 3

end Sys2Proof.Machine
end

