-- ==== Sys2Proof/Machine/Service.lean ====
section
/-! DEFINITION. In-service change (R640 to R661): the commands of TER_SVC and their ends, and the load of a service image. -/

namespace Sys2Proof.Machine

/-! ## Commands -/

/-- The offset of TER_SVC of a terrace (R657). -/
def svcOff (t : Ter) : BitVec 20 := BitVec.ofNat 20 (0xA0050 + 0x100 * t)

/-- The logical channels that a command names (R642, R645 to R648, R657). -/
def namedBy (t : Ter) (op : Nat) (all : Bool) (target : Nat) : List Log :=
  if all && op ≤ 2 then logsOf t else if target < 16 then [logAt t (Fin.ofNat 16 target)] else []

/-- The physical channel that STEST or RECLAIM names (R657). -/
def physBy (t : Ter) (target : Nat) : Option Phys := if target < 17 then some (physAt t (Fin.ofNat 17 target)) else none

/-- A command that is not accepted changes nothing but its status, and posts SERVICE_REJECT (R641, R656, R658). -/
def State.svcReject (s : State) (t : Ter) (op target result : Nat) : State :=
  let src := if op ≥ 5 then 17 * t + target else 16 * t.val + target
  let u := s.modT t fun x => { x with op, target, sfail := true, result }
  ({ u with free := s.free + 1 } : State).post 0x34 2 src (leBytes 1 op ++ leBytes 1 result ++ [0, 0] ++ leBytes 4 (Config.rejectDetail s.free))

/-- A command is accepted and runs (R658). -/
def State.svcBegin (s : State) (t : Ter) (op target : Nat) (all : Bool) (logs : List Nat) (phys : Nat := 0) : State :=
  (s.restartTree t).modT t fun x => { x with op, target, cmd := some { op, all, logs, phys, at_ := s.aclk } }

/-- A command that has nothing to wait for ends at once. -/
def State.svcIdle (s : State) (t : Ter) (op target : Nat) : State := (s.modT t fun x => { x with op, target }).svcEnd t true 0

/-- The requester has the rights of R543 over every logical channel named: secure, or MG_SVC with every queue of each in its domain. -/
def State.mayServe (s : State) (r : Rqr) (ls : List Log) : Bool :=
  s.secure r || (s.right r DomSt.svc && ls.all fun n => s.lch[n].valids.all fun u => u.cfg.dom = r.dom)

/-- The channel goes to DRAINING for removal: every queue receives a drain request (R141). -/
def State.removeNow (s : State) (p : Phys) (n : Log) : State := (s.modP p fun c => { c with st := .draining, quiet := 0 }).channelDrain n

/-- The queues of a logical channel as a command of this aclk finds them (R49, R684). -/
def State.preQs (s : State) (n : Log) : List PreQ :=
  (fins 4).map fun q =>
    let u := s.que n q
    ⟨u.st, u.enp, u.enDg, u.fltDet, u.halt, (u.acc.filter fun a => !a.notRun).map Acc.id⟩

/-- An out-of-service request reaches the channel that serves `n` (R141, R642). -/
def State.outRequest (s : State) (n : Log) (all : Bool) : State :=
  match s.servP n with
  | none => s
  | some p =>
    let s := s.modL n fun l => { l with outReq := some (s.aclk, all), preOut := some ⟨s.aclk, s.phys[p].st, s.preQs n⟩ }
    let c := s.phys[p]
    match c.st with
    | .dormant => (s.beginWake p).modP p fun c => { c with toDrain := true }
    | .waking => s.modP p fun c => { c with toDrain := true }
    | .active =>
      if c.entry = 0 then s.removeNow p n
      else
        let t := s.demand p
        if t.phys[p].entry = 0 then t.removeNow p n else t.modP p fun c => { c with toDrain := true }
    | .off | .draining | .quarantined | .reserve => s

/-- A return-to-service request for `n` (R141, R142, R145, R645). -/
def State.returnRequest (s : State) (n : Log) : State :=
  match s.map[n] with
  | none => s
  | some p =>
    match s.phys[p].st with
    | .draining => s.modP p fun c => { c with chEnp := true }
    | .off => if s.lch[n].oos then (s.newPage p).modP p fun c => { c with
        st := .waking, wakeFor := .off, scrub := true, wakeA := none, missed := 0, monA := s.aclk, quiet := 0 } else s
    | .dormant | .waking | .active | .quarantined | .reserve => s

/-- A RETURN names `n`: what it finds there is kept for the case that this aclk declares the channel dead (R49). -/
def State.noteReturn (s : State) (n : Log) (done : Bool) : State :=
  match s.servP n with
  | some p => s.modL n fun l => { l with retReq := some ⟨s.aclk, done, s.phys[p].chEnp⟩ }
  | none => s

/-- The channel that serves `n` drains for removal. -/
def State.drains (s : State) (n : Log) : Bool := (s.servP n).any fun p => s.phys[p].st == .draining

/-- OUT (R642, R643). -/
def State.svcOut (s : State) (t : Ter) (all : Bool) (target : Nat) (ls : List Log) : State :=
  let go := ls.filter fun n => (s.servP n).isSome && !s.lch[n].oos
  if go.isEmpty then if all then s.svcIdle t 1 target else s.svcReject t 1 target 2
  else go.foldl (fun (s : State) n => s.outRequest n all) (s.svcBegin t 1 target all (go.map fun n => n.val))

/-- RETURN (R645): it ends when the last channel that leaves OFF serves again. -/
def State.svcReturn (s : State) (t : Ter) (all : Bool) (target : Nat) (ls : List Log) : State :=
  if !all && (ls.isEmpty || ls.any fun n => s.map[n].isNone) then s.svcReject t 2 target 2
  else
    let back := ls.filter fun n => s.lch[n].oos
    let u := if back.isEmpty then (s.restartTree t).svcIdle t 2 target else s.svcBegin t 2 target all (back.map fun n => n.val)
    ls.foldl (fun (u : State) n => (u.noteReturn n s.ters[t].sdone).returnRequest n) u

/-- RETURN while OUT runs reaches the channels that drain (R145, R654). -/
def State.svcReturnDrain (s : State) (t : Ter) (target : Nat) (ls : List Log) : State :=
  let u := ls.foldl (fun (u : State) n =>
    let v := u.noteReturn n s.ters[t].sdone
    if u.drains n then v.returnRequest n else v) s
  u.modT t fun x => { x with op := 2, target, sdone := true, result := 0 }

/-- SWAP (R646): the reserve takes a logical channel that is out of service or unserved. -/
def State.svcSwap (s : State) (t : Ter) (target : Nat) (n : Log) : State :=
  if !(s.lch[n].oos || s.map[n].isNone) then s.svcReject t 3 target 2
  else match s.ters[t].reserve with
    | none => s.svcReject t 3 target 5
    | some r =>
      (s.svcBegin t 3 target false [n.val]).modT t fun x => { x with
        busy := true, tko := some { log := n, new := r, old := physOr s.map[n], at_ := s.aclk, swap := true, oos := s.lch[n].oos } }

/-- RESET (R143, R648). -/
def State.svcReset (s : State) (t : Ter) (target : Nat) (n : Log) : State :=
  match (s.servP n).filter fun _ => !s.lch[n].oos with
  | some p => (s.svcBegin t 4 target false [n.val]).channelReset p n
  | none => s.svcReject t 4 target 2

/-- STEST (R652). -/
def State.svcStest (s : State) (t : Ter) (target : Nat) (p : Phys) : State :=
  if s.phys[p].st == .quarantined then s.svcBegin t 5 target false [] p else s.svcReject t 5 target 2

/-- RECLAIM (R653): the store is scrubbed first. -/
def State.svcReclaim (s : State) (t : Ter) (target : Nat) (p : Phys) : State :=
  let x := s.ters[t]
  if s.phys[p].st ≠ .quarantined then s.svcReject t 6 target 2
  else if !x.stest.getLsbD (p.val % 17) then s.svcReject t 6 target 7
  else if x.reserve.isSome then s.svcReject t 6 target 8
  else (s.svcBegin t 6 target false [] p).modP p fun c => { c with scrub := true }

/-- A takeover of this aclk is aimed at a logical channel that the command names (R49, R654). -/
def State.takenNow (s : State) (t : Ter) (ls : List Log) : Bool := s.ters[t].tko.any fun k => !k.swap && k.at_ = s.aclk && ls.contains k.log

/-- A command with rights (R641, R654): what refuses it, or what it does. -/
def State.svcRun (s : State) (t : Ter) (op : Nat) (all : Bool) (target : Nat) : State :=
  let x := s.ters[t]
  let ls := if op ≤ 4 then namedBy t op all target else []
  let late := op = 2 && !x.busy && (x.cmd.any fun k => k.op == 1) && ls.any s.drains
  if s.takenNow t ls then s.svcReject t op target 4
  else if (x.busy || x.cmd.isSome) && !late then s.svcReject t op target 3
  else if s.svc.busy && ls.any fun n => s.svc.named.contains n.val then s.svcReject t op target 6
  else if late then s.svcReturnDrain t target ls
  else match op, ls.head?, physBy t target with
    | 1, _, _ => s.svcOut t all target ls
    | 2, _, _ => s.svcReturn t all target ls
    | 3, some n, _ => s.svcSwap t target n
    | 4, some n, _ => s.svcReset t target n
    | 5, _, some p => s.svcStest t target p
    | 6, _, some p => s.svcReclaim t target p
    | _, _, _ => s.svcReject t op target 2

/-- A write of a command to TER_SVC (R641, R655, R657, R681). -/
def State.service (s : State) (t : Ter) (op : Nat) (all : Bool) (target : Nat) (r : Rqr) : State :=
  if s.gate.locked && !s.gate.mode then s.refuseLocked (svcOff t) r
  else if op = 0 || op ≥ 7 then s
  else if !s.gate.locked then if s.secure r then s.svcReject t op target 1 else s.refuseDenied (svcOff t) r
  else if if op ≥ 5 then s.secure r else s.mayServe r (namedBy t op all target) then s.svcRun t op all target
  else (s.refuseDenied (svcOff t) r).svcReject t op target 1

/-- OUT (R642). -/
def execOut (t : Ter) (all : Bool) (target : Fin 32) (r : Rqr) (s : State) : Res := when s.porN s (s.service t 1 all target r)
/-- RETURN (R645). -/
def execRet (t : Ter) (all : Bool) (target : Fin 32) (r : Rqr) (s : State) : Res := when s.porN s (s.service t 2 all target r)
/-- SWAP (R646). -/
def execSwap (t : Ter) (target : Fin 32) (r : Rqr) (s : State) : Res := when s.porN s (s.service t 3 false target r)
/-- RESET (R648). -/
def execReset (t : Ter) (target : Fin 32) (r : Rqr) (s : State) : Res := when s.porN s (s.service t 4 false target r)
/-- STEST (R652). -/
def execStest (t : Ter) (target : Fin 32) (r : Rqr) (s : State) : Res := when s.porN s (s.service t 5 false target r)
/-- RECLAIM (R653). -/
def execReclaim (t : Ter) (target : Fin 32) (r : Rqr) (s : State) : Res := when s.porN s (s.service t 6 false target r)

/-- STEST_COMPLETE (R652): the self-test of the channel named has ended; `pass` when every part passed and it pulsed in 3 consecutive periods. -/
def execStestComplete (t : Ter) (pass : Bool) (s : State) : Res :=
  match s.ters[t].cmd with
  | some k =>
    if k.op ≠ 5 then .next s
    else
      let p : Phys := Fin.ofNat 136 k.phys
      let one := 1#17 <<< (p.val % 17)
      .next (if pass then
          ((s.modP p fun c => { c with scrub := false, scrubbed := true, kept := none }).modT t fun x => { x with
            stest := x.stest ||| one, stestUs := (s.aclk - k.at_) / 100 }).svcEnd t true 0
        else (s.modT t fun x => { x with stest := x.stest &&& ~~~one }).svcEnd t false 9)
  | none => .next s

/-! ## Service images -/

/-- A rejected load: FAIL with its code and DETAIL, and SERVICE_REJECT (R649, R656, R660). -/
def State.loadReject (s : State) (code det : Nat) : State :=
  ({ s with svc := { s.svc with fail := true, code, det } } : State).post 0x34 2 0xFFFF (leBytes 1 0 ++ leBytes 1 code ++ [0, 0] ++ leBytes 4 det)

/-- A rejection whose DETAIL the spec does not state. -/
def State.loadRefuse (s : State) (code : Nat) : State :=
  ({ s with free := s.free + 1 } : State).loadReject code (Config.rejectDetail s.free % 2 ^ 32)

/-- Checks 1 to 5 of a service image's header at its address (R574, R591, R612). -/
def svcHeaderFail (hdr : List Byte) (addr : Nat) : Option (Nat × Nat) :=
  let past := addr + field hdr 8 4 > 0x400000
  match headerFail hdr 2 with
  | some (c, d) => some (if c > 3 && past then (3, 8) else (c, d))
  | none => if past then some (3, 8) else none

/-- A write of 1 to GLB_SVCCTL.GO by a requester that may write it; `hdr` is the header that the Gatehouse then reads (R649, R660). -/
def State.loadGo (s : State) (hdr : List Byte) (r : Rqr) : State :=
  let a := s.svc.addr
  if !(s.gate.locked && s.gate.svcPath) then s.loadRefuse 0xD
  else if s.svc.busy then s.loadRefuse 0xF
  else if a < 0x200000 || a > 0x3FFFC0 then s.loadReject 0xC 0
  else
    let s := s.spiReads [(a, 64)]
    match svcHeaderFail hdr a with
    | some (c, d) => s.loadReject c d
    | none =>
      let named := (lmask hdr).map fun n => Fin.ofNat 128 n
      if !s.mayServe r named then s.loadRefuse 0xE
      else
        let late := named.any fun n => !s.lch[n].oos
        ({ s with svc := { s.svc with busy := true, named := lmask hdr, len := field hdr 8 4, pos := 0, inService := late } } : State).askAuth

/-- The requester may write GLB_SVCADDR and GLB_SVCCTL (R542, R681); otherwise the write is refused. -/
def State.mayLoad (s : State) (r : Rqr) : Bool :=
  if s.gate.locked then s.gate.mode && s.right r DomSt.svc else s.secure r

/-- SERVICE_LOAD_GO (R649). -/
def execServiceLoadGo (hdr : List Byte) (r : Rqr) (s : State) : Res :=
  when s.porN s (if s.mayLoad r then s.loadGo hdr r else s.refuseWrite 0x54 r)

/-- The SCOPE check (R612, R614) of an image whose SCOPE, TERRACE and LMASK lie in their ranges (R591); a channel that came back into service since the load began fails it too (R21). -/
def State.scopeFail (s : State) (b : List Byte) : Option Nat :=
  let ms := lmask b
  if field b 32 4 ≠ s.gate.version then some 32
  else if byteAt b 36 = 2 && ms ≠ (List.range 16).map fun i => 16 * byteAt b 37 + i then some 40
  else if s.svc.inService || (ms.any fun n => !s.lch[Fin.ofNat 128 n].oos) then some 40
  else none

/-- The first failing check of a service image from 6 on (R574, R614). -/
def State.loadFail (s : State) (b : List Byte) : Option (Nat × Nat) :=
  match authFail s.gate b with
  | some f => some f
  | none => match contentFail true b s with
    | some f => some f
    | none => (s.scopeFail b).map fun d => (0xC, d)

/-- A queue of a reloaded logical channel (R650). -/
def Que.reload (u : Que) (now : Nat) : Que :=
  { u.fillBal now with
    lastAcc := 0xFFFF, lastRet := 0xFFFF, members := 0, fidx := 0, rcnt := 0, kicks := 0, enp := false, enDg := 0
    f := 0, lastB := none }

/-- A reloaded logical channel (R650). -/
def LCh.reload (l : LCh) (now : Nat) : LCh :=
  { l with
    reloaded := true
    qs := mapV l.qs fun _ u => u.reload now
    ins := mapV l.ins fun _ t => { t with latch := none, spent := none, heldGen := none } }

/-- SERVICE_LOAD_END (R614, R615, R649, R650): the image of IMAGE_LEN bytes has streamed, for which the ledger writer must leave the interface free (R584), or a key request failed. -/
def execServiceLoadEnd (img : List Byte) (s : State) : Res :=
  if !s.svc.busy || s.gate.kpReq.isSome || !(img.length = s.svc.len || s.gate.kpErr ≠ 0) then .next s
  else if !img.isEmpty && s.svc.pos < s.svc.len && !s.ldg.idle then .next s
  else
    let s := if img.isEmpty then s else State.svcRest 256 s
    let idle (t : State) : State := { t with
      gate := { t.gate with key := none }
      svc := { t.svc with busy := false, named := [], len := 0, pos := 0, inService := false } }
    .next (match s.loadFail img with
      | some (c, d) => (idle s).loadReject c d
      | none =>
        let ls := (lmask img).map fun n => Fin.ofNat 128 n
        let t := ls.foldl (fun (t : State) n => t.modL n fun l => l.reload s.aclk) (s.loadSvc img)
        let t := idle { t with svc := { t.svc with done := true } }
        t.post 0x31 2 ls.length (leBytes 4 s.svc.addr ++ leBytes 4 (field img 12 4)))

end Sys2Proof.Machine
end

