-- ==== Sys2Proof/Machine/Manage.lean ====
section
/-! DEFINITION. Management writes (R10 to R14, R46, R47, R154, R386 to R388, R452, R541 to R543, R560, R663, R681, R684). -/

namespace Sys2Proof.Machine

/-- A register whose fields the image fixes (RWL, R10). -/
def Reg.rwl : Reg → Bool
  | .ldgCfg | .arbCfg | .sunCfg | .sunCclk _ | .hptCfg => true
  | .trl _ _ k => match k with
    | .stat | .acts => false
    | .maskLo | .maskHi | .bind | .allow | .rate | .ext => true
  | _ => false

/-- Before lock, a write with mg_sec 0 is refused (R542). One to an RWL field sets LOCKED_WRITE too, as R10 and R560 say of any management write; that both flags are set, and GLB_WRLAST.CAUSE reads ACCESS_DENIED, is the model's choice (log 57). -/
def State.gated (s : State) (off : BitVec 20) (r : Rqr) (t : State) : State :=
  if !s.gate.locked && !s.secure r then
    (if (regAt off).any Reg.rwl then { s with gate := { s.gate with lockedWrite := true } } else s).refuseDenied off r
  else t

/-- A write that only the secure domain may make (R681). -/
def State.secureOnly (s : State) (off : BitVec 20) (r : Rqr) (t : State) : State := if s.secure r then t else s.refuseWrite off r

/-- A write of RWL fields: only in FAILED and from the secure domain, and refused whole when a value is out of range (R10, R560). -/
def State.rwl (s : State) (off : BitVec 20) (r : Rqr) (ok : Bool) (t : State) : State :=
  if !s.gate.locked && s.gate.st == .failed && s.secure r && ok then t else s.refuseLocked off r

/-- A write to a register without a field that takes writes: it has no effect (R10), and after lock, where R681 allows none, it is refused. -/
def State.readOnly (s : State) (off : BitVec 20) (r : Rqr) : State := if s.gate.locked then s.refuseWrite off r else s

/-- Bits `hi` down to `lo` of a written value (R8). -/
def vbits (v : Word) (hi lo : Nat) : Nat := bits v.toNat hi lo

/-! ## Actions -/

/-- The offset of CHN_QCTL of a page (R154). -/
def qctlOff (p : Phys) : BitVec 20 := BitVec.ofNat 20 (0x10020 + 0x1000 * p)

/-- The requests of a CHN_QCTL write at the logical channel served: each queue's drain first (R137, R154). -/
def State.qctlApply (s : State) (p : Phys) (n : Log) (en dr : Nat) : State :=
  let now (o : Option PreOut) : Bool := o.any fun o => o.at_ = s.aclk
  let s := if now s.lch[n].preQctl || now s.lch[n].preOut then s else s.modL n fun l => { l with preQctl := some ⟨s.aclk, s.phys[p].st, s.preQs n⟩ }
  (fins 4).foldl (fun (s : State) (q : Qn) =>
    let t := if bit dr q then s.drainReq n q else s
    if bit en q then t.enableQ n q 0 else t) s

/-- A write of CHN_QCTL (R154, R681, R684). -/
def State.qctl (s : State) (p : Phys) (en dr : Nat) (r : Rqr) : State :=
  if !s.gate.locked then s
  else if !s.gate.mode then s.refuseLocked (qctlOff p) r
  else match (s.logOf p).filter fun _ => s.phys[p].st.serves with
    | none => s
    | some n =>
      if s.secure r || (fins 4).all fun q => !(bit en q || bit dr q) || (s.que n q).cfg.dom = r.dom then s.qctlApply p n en dr
      else s.refuseDenied (qctlOff p) r

/-- The offset of ARB_CLASSi (R399). -/
def classOff (i : Fin 64) : BitVec 20 := BitVec.ofNat 20 (0x2100 + 4 * i)

/-- A valid queue of the requester's domain, or any queue for a secure requester (R681). -/
def State.ownsQ (s : State) (r : Rqr) (n : Log) (q : Qn) : Bool := s.secure r || ((s.que n q).cfg.valid && (s.que n q).cfg.dom = r.dom)

/-- One field of an ARB_CLASS write: the state, and whether a field outside the requester's domain was refused (R388, R681). -/
def State.classField (s : State) (r : Rqr) (n : Log) (q : Qn) (c : Nat) : State × Bool :=
  let u := s.que n q
  if c = u.cls then (s, false)
  else if !s.ownsQ r n q then (s, true)
  else if (s.arb.pmin ≤ c : Bool) ≠ (u.cfg.res > 0 : Bool) then
    (({ s with arb := { s.arb with classRej := true } } : State).post 0x22 2 n (leBytes 1 c ++ leBytes 1 r.dom) q, false)
  else (s.modQ n q fun u => { u with cls := c, clsWas := some (u.cls, s.aclk) }, false)

/-- A write of ARB_CLASSi (R386 to R388, R681). -/
def State.classWrite (s : State) (i : Fin 64) (v : Word) (r : Rqr) : State :=
  if s.secure r || (s.gate.mode && s.right r DomSt.arb) then
    let (t, bad) := (fins 8).foldl (fun (x : State × Bool) (k : Fin 8) =>
      let (t, b) := x.1.classField r (Fin.ofNat 128 (2 * i + k / 4)) (Fin.ofNat 4 k) (vbits v (4 * k + 2) (4 * k))
      (t, x.2 || b)) (s, false)
    if bad then t.refuseDenied (classOff i) r else t
  else s.refuseWrite (classOff i) r

/-- The offset of TER_BCAST (R452). -/
def bcastOff (t : Ter) : BitVec 20 := BitVec.ofNat 20 (0xA0040 + 0x100 * t)

/-- A write of TER_BCAST: the broadcast line carries its event in the next aclk (R444, R452, R681). -/
def State.broadcast (s : State) (t : Ter) (pulse : Bool) (r : Rqr) : State :=
  if s.secure r || (s.gate.mode && s.right r DomSt.bcast) then if pulse then s.line t (s.aclk + 1) 0 (fun _ => some 47) else s
  else s.refuseWrite (bcastOff t) r

/-- A write of LDG_RDCTL (R588, R681). -/
def State.readbackGo (s : State) (go : Bool) (r : Rqr) : State :=
  s.secureOnly 0x1024 r (if go && !s.ldg.rdBusy then { s with ldg := { s.ldg with rdBusy := true, rdDone := false, rdAt := s.ldg.rdpos } } else s)

/-! ## Fields -/

/-- The W1C fields of a TRL record after a write (R457). -/
def TIn.w1c (t : TIn) (v : Word) : TIn := { t with overrun := clr t.overrun (v.getLsbD 8), loop := clr t.loop (v.getLsbD 9) }

/-- The RWL fields of a TRL record (R454 to R456). -/
def TIn.write (t : TIn) (k : TrlReg) (v : Word) : TIn :=
  match k with
  | .maskLo => { t with mask := t.mask.extractLsb' 32 16 ++ v }
  | .maskHi => { t with mask := v.extractLsb' 0 16 ++ t.mask.extractLsb' 0 32 }
  | .bind => { t with
      queue := Fin.ofNat 4 (vbits v 1 0), mode := vbits v 3 2, haltAct := vbits v 5 4, drainMask := vbits v 11 8
      owner := Fin.ofNat 16 (vbits v 19 16), sec := v.getLsbD 20 }
  | .allow => { t with allow := v.extractLsb' 0 16 }
  | .rate => { t with rate := vbits v 15 0 }
  | .ext => { t with ext0 := vbits v 3 0, ext1 := vbits v 7 4 }
  | .stat | .acts => t

/-- The values of a TRL register lie in its ranges (R455). -/
def trlOk (k : TrlReg) (v : Word) : Bool :=
  match k with
  | .bind => vbits v 3 2 ≠ 3 && vbits v 5 4 ≠ 3
  | _ => true

/-- A write to a TRL register (R453 to R457, R681). -/
def State.trlWrite (s : State) (off : BitVec 20) (n : Log) (x : Fin 4) (k : TrlReg) (v : Word) (r : Rqr) : State :=
  match k with
  | .stat =>
    let i := s.tin n x
    if s.secure r || (!i.sec && i.owner = r.dom) then s.modEI n x fun t => t.w1c v else s.refuseWrite off r
  | .acts => s.readOnly off r
  | _ => s.rwl off r (trlOk k v) (s.modI n x fun t => t.write k v)

/-- The W1C fields of a page are written: a frozen page keeps them (R155, R330, R677, R679). -/
def State.pageW1c (s : State) (p : Phys) (k : ChnReg) (v : Word) : State :=
  if s.phys[p].st == .quarantined then s
  else match k with
    | .qstat q => match (s.logOf p).filter fun _ => s.phys[p].st.serves with
      | some n => s.modE fun e => { e with lch := e.lch.set n { e.lch[n] with qs := e.lch[n].qs.set q { e.lch[n].qs[q] with ringErr := clr e.lch[n].qs[q].ringErr (v.getLsbD 3) } } }
      | none => s
    | _ => s.modE fun e => { e with phys := e.phys.set p (e.phys[p].w1c k v) }

/-- A write to a register of a CHN page (R154, R681). -/
def State.chnWrite (s : State) (off : BitVec 20) (p : Phys) (k : ChnReg) (v : Word) (r : Rqr) : State :=
  match k with
  | .qctl => s.qctl p (vbits v 3 0) (vbits v 7 4) r
  | .qstat _ | .gflag | .lflag => if s.mayPage r p then s.pageW1c p k v else s.refuseWrite off r
  | _ => s.readOnly off r

/-- A write to a register of a terrace block (R452, R530, R657, R658, R681). -/
def State.terWrite (s : State) (off : BitVec 20) (t : Ter) (k : TerReg) (v : Word) (r : Rqr) : State :=
  match k with
  | .stat => s.secureOnly off r (s.modET t fun x => { x with noRes := clr x.noRes (v.getLsbD 9), jue := clr x.jue (v.getLsbD 10) })
  | .svcstat => s.secureOnly off r (s.modET t fun x => { x with sdone := clr x.sdone (v.getLsbD 4), sfail := clr x.sfail (v.getLsbD 5) })
  | .bcast => s.broadcast t (v.getLsbD 0) r
  | .svc => s.service t (vbits v 2 0) (v.getLsbD 3) (vbits v 8 4) r
  | .map _ | .quar | .last | .takeovers | .revivals | .jecc | .clk | .clkstops | .stopus | .stest | .oos | .vacant => s.readOnly off r

/-- A write to a register; a bit that this aclk has set stays (R10, R11, R681). A write of GO to GLB_SVCCTL by a requester that may write it is the command SERVICE_LOAD_GO. -/
def State.regWrite (s : State) (off : BitVec 20) (g : Reg) (v : Word) (r : Rqr) : State :=
  match g with
  | .glbStatus => s.secureOnly off r (s.modE fun e => { e with gate := { e.gate with
      lockedWrite := clr e.gate.lockedWrite (v.getLsbD 1), denied := clr e.gate.denied (v.getLsbD 2), unmapped := clr e.gate.unmapped (v.getLsbD 3) } })
  | .glbFault => s.secureOnly off r (s.modE fun e => { e with gate := { e.gate with dead := clrBits e.gate.dead (v.extractLsb' 0 8) } })
  | .svcAddr => if s.mayLoad r then { s with svc := { s.svc with addr := 64 * vbits v 23 6 } } else s.refuseWrite off r
  | .svcCtl => if s.mayLoad r then s else s.refuseWrite off r
  | .svcStat => s.secureOnly off r (s.modE fun e => { e with svc := { e.svc with done := clr e.svc.done (v.getLsbD 1), fail := clr e.svc.fail (v.getLsbD 2) } })
  | .ldgStatus => s.secureOnly off r (s.modE fun e => { e with ldg := { e.ldg with
      mismatch := clr e.ldg.mismatch (v.getLsbD 2), lost := clr e.ldg.lost (v.getLsbD 3) } })
  | .ldgCfg => s.rwl off r true { s with ldg := { s.ldg with irqEn := v.getLsbD 0 } }
  | .ldgRdpos => s.secureOnly off r { s with ldg := { s.ldg with rdpos := vbits v 15 0 } }
  | .ldgRdctl => s.readbackGo (v.getLsbD 0) r
  | .arbCfg => s.rwl off r (100 ≤ vbits v 15 0 && 1 ≤ vbits v 18 16) { s with arb := { s.arb with
      limit := vbits v 15 0, pmin := vbits v 18 16, irqEn := v.getLsbD 20 } }
  | .arbStatus => s.secureOnly off r (s.modE fun e => { e with arb := { e.arb with
      classRej := clr e.arb.classRej (v.getLsbD 0), wdBite := clr e.arb.wdBite (v.getLsbD 1) } })
  | .arbStarve j => s.secureOnly off r (s.modE fun e => { e with arb := { e.arb with starve := clrBits e.arb.starve (v.setWidth 512 <<< (32 * j.val)) } })
  | .arbClass i => s.classWrite i v r
  | .sunCfg => s.rwl off r (500 ≤ vbits v 10 0 && vbits v 10 0 ≤ 2000 && 50 ≤ vbits v 24 16 && vbits v 24 16 ≤ 400) { s with sun := { s.sun with
      hclk := vbits v 10 0, tokens := vbits v 10 0, hostLat := vbits v 24 16, irqEn := v.getLsbD 31 } }
  | .sunStatus => s.secureOnly off r (s.modE fun e => { e with sun := { e.sun with
      miss := clr e.sun.miss (v.getLsbD 0), strideBound := clr e.sun.strideBound (v.getLsbD 1) } })
  | .sunCclk t => s.rwl off r (100 ≤ vbits v 10 0 && vbits v 10 0 ≤ 1500) { s with sun := { s.sun with cclk := s.sun.cclk.set t (vbits v 10 0) } }
  | .hptCfg => s.rwl off r (16 ≤ vbits v 9 0 && vbits v 9 0 ≤ 512) { s with hpt := { s.hpt with lease := vbits v 9 0 } }
  | .trl n x k => s.trlWrite off n x k v r
  | .chn p _ k => s.chnWrite off p k v r
  | .ter t k => s.terWrite off t k v r
  | .sunRes _ | .domWin _ _ _ | .domAttr _ | .ldgRdstat | .ldgRd _
  | .glbId | .glbRev | .glbWrlast | .glbIrq | .glbBoot | .glbBootdet | .glbVersion | .glbBoottime | .glbKpcnt | .glbSec | .svcDet
  | .ldgNextLo | .ldgNextHi | .ldgLostcnt | .ldgWritten | .arbStarveCnt | .arbPreempt | .arbWdbite | .arbWdlast | .arbMaxwait
  | .sunCap | .sunGrant | .sunFrame | .sunMiss | .sunRefuse | .hptFence _ | .hptFdrain _ | .hptLock _ | .hptDefer | .hptFenced
  | .hptLbreak | .hptHerr | .hptStray | .domRfault _ | .rfLast | .rfLo | .rfHi => s.readOnly off r

/-- A management write (R542, R662, R663, R668). -/
def State.mgWrite (s : State) (off : BitVec 20) (v : Word) (r : Rqr) : State :=
  s.gated off r (match regAt off with
    | none => s.unmappedWrite off v r
    | some g => s.regWrite off g v r)

/-! ## Commands -/

/-- REGISTER_WRITE (R10, R663, R681). -/
def execRegisterWrite (off : BitVec 20) (v : Word) (r : Rqr) (s : State) : Res := when s.porN s (s.mgWrite off v r)

/-- RWL_WRITE_FAILED (R560): a write while the Gatehouse is FAILED. -/
def execRwlWriteFailed (off : BitVec 20) (v : Word) (r : Rqr) (s : State) : Res :=
  when (s.porN && s.gate.st == .failed) s (s.mgWrite off v r)

/-- QCTL_ENABLE (R154): CHN_QCTL with one ENABLE bit. -/
def execQctlEnable (p : Phys) (q : Qn) (r : Rqr) (s : State) : Res :=
  when s.porN s (s.gated (qctlOff p) r (s.qctl p (2 ^ q.val) 0 r))

/-- QCTL_DRAIN (R154): CHN_QCTL with one DRAIN bit. -/
def execQctlDrain (p : Phys) (q : Qn) (r : Rqr) (s : State) : Res :=
  when s.porN s (s.gated (qctlOff p) r (s.qctl p 0 (2 ^ q.val) r))

/-- ARB_CLASS_WRITE (R388). -/
def execArbClassWrite (i : Fin 64) (v : Word) (r : Rqr) (s : State) : Res :=
  when s.porN s (s.gated (classOff i) r (s.classWrite i v r))

/-- TER_BCAST_PULSE (R452). -/
def execTerBcastPulse (t : Ter) (r : Rqr) (s : State) : Res := when s.porN s (s.gated (bcastOff t) r (s.broadcast t true r))

/-- LDG_RDCTL_GO (R588, R589). -/
def execLdgRdctlGo (r : Rqr) (s : State) : Res := when s.porN s (s.gated 0x1024 r (s.readbackGo true r))

end Sys2Proof.Machine
end

