-- ==== Sys2Proof/Machine/Flits.lean ====
section
/-! DEFINITION. Flits of the Fehoup link (R51 to R59): the 32-byte header, HDR_CRC and parity, the flits of an outbound packet, and the command that the flits of an inbound packet spell. -/

namespace Sys2Proof.Machine

/-- A flit: it moves in a cclk in which vld is 1 (R51). -/
structure Flit where
  flit : BitVec 256  -- packet byte k of the flit on bits 8k+7 to 8k (R51)
  par : BitVec 4  -- parity (R52)
  sop : Bool  -- first flit of its packet (R53)
  eop : Bool  -- last flit of its packet (R53)
  psn : Bool  -- poison (R55)
deriving DecidableEq, Repr

/-- The xor of 64 bits. -/
def xor64 (x : BitVec 64) : Bool := (List.range 64).foldl (fun b i => b ^^ x.getLsbD i) false

/-- Parity bit `i` of a flit (R52). -/
def parBit (f : BitVec 256) (i : Nat) : Bool := xor64 (f.extractLsb' (64 * i) 64)

/-- par[3:0] of a flit (R52). -/
def parOf (f : BitVec 256) : BitVec 4 := BitVec.ofNat 4 (b2n (parBit f 0) + 2 * b2n (parBit f 1) + 4 * b2n (parBit f 2) + 8 * b2n (parBit f 3))

/-- A flit has good parity (R52). -/
def Flit.good (f : Flit) : Bool := f.par == parOf f.flit

/-- The 32 bytes of a flit (R51). -/
def Flit.bytes (f : Flit) : List Byte := leBytes 32 f.flit.toNat

/-- The flits of a packet's bytes; bytes of the last flit beyond them are 0. `psn` marks body flits (R51 to R55). -/
def packetFlits (bytes : List Byte) (psn : Nat → Bool) : List Flit :=
  let cs := chunksOf (bytes.length + 1) 32 bytes
  cs.zipIdx.map fun (c, i) =>
    let f := BitVec.ofNat 256 (leVal c)
    { flit := f, par := parOf f, sop := i == 0, eop := i + 1 == cs.length, psn := i > 0 && psn (i - 1) }

/-- A header (R56, R57): reserved bits and bytes are 0. `fields` are bytes 6 and on. -/
def header (type q seq body : Nat) (fields : List Byte) : List Byte :=
  let h := leBytes 1 type ++ leBytes 1 q ++ leBytes 2 seq ++ leBytes 2 body ++ (fields ++ zeros 24).take 24
  h ++ leBytes 2 (crc16 h)

/-! ## Outbound -/

/-- The header of an outbound packet (R56, R58). Fields whose value the table does not give, or calls ignored, are sent as 0: the QUEUE of a WAKE REQUEST, the SEQ of a CREDIT or a WAKE (DESIGN CHOICE, log 64). -/
def Pkt.header (k : Pkt) : List Byte :=
  match k with
  | .deliver q seq tag final msg replay gap off gapWords payload _ =>
    Machine.header 0x02 q seq (ceilDiv payload.length 32)
      (leBytes 2 payload.length ++ leBytes 2 tag ++ leBytes 1 (b2n final + 2 * b2n msg + 4 * b2n replay + 8 * b2n gap) ++ leBytes 1 0
        ++ leBytes 4 off ++ leBytes 4 gapWords)
  | .ack q seq stage => Machine.header 0x03 q seq 0 (leBytes 1 stage)
  | .nak q seq reason after expect => Machine.header 0x04 q seq 0 (leBytes 2 reason ++ leBytes 2 after ++ leBytes 2 expect)
  | .credit q inc => Machine.header 0x05 q 0 0 (leBytes 2 0 ++ leBytes 2 inc)
  | .resume q seq takeover replay inc lastRet window words =>
    Machine.header 0x06 q seq 0 (leBytes 1 (b2n takeover + 2 * b2n replay) ++ leBytes 1 inc ++ leBytes 2 lastRet ++ leBytes 2 0
      ++ leBytes 2 window ++ leBytes 2 words)
  | .wakeReq => Machine.header 0x07 0 0 0 [0]
  | .msgBegin q seq len explen param body =>
    Machine.header 0x08 q seq (ceilDiv body.length 32) (leBytes 2 0 ++ leBytes 4 len ++ leBytes 4 explen ++ (param ++ zeros 8).take 8)
  | .msgAbort q seq reason => Machine.header 0x09 q seq 0 (leBytes 1 reason)
  | .status q kind seq value => Machine.header 0x0B q seq 0 (leBytes 2 kind ++ leBytes 4 value)

/-- The body of an outbound packet (R58). -/
def Pkt.body (k : Pkt) : List Byte :=
  match k with
  | .deliver _ _ _ _ _ _ _ _ _ payload _ => payload
  | .msgBegin _ _ _ _ _ body => body
  | .ack _ _ _ | .nak _ _ _ _ _ | .credit _ _ | .resume _ _ _ _ _ _ _ _ | .wakeReq | .msgAbort _ _ _ | .status _ _ _ _ => []

/-- The poison of the Glasshouse words of an outbound packet (R55). -/
def Pkt.psnWords (k : Pkt) : List Bool :=
  match k with
  | .deliver _ _ _ _ _ _ _ _ _ _ psn => psn
  | .msgBegin _ _ _ _ _ _ | .ack _ _ _ | .nak _ _ _ _ _ | .credit _ _ | .resume _ _ _ _ _ _ _ _ | .wakeReq | .msgAbort _ _ _ | .status _ _ _ _ => []

/-- The flits of an outbound packet, on consecutive cclk; psn is 1 on both flits of a poisoned word (R51 to R56). -/
def Pkt.flits (k : Pkt) : List Flit := packetFlits (k.header ++ k.body) fun i => k.psnWords.getD (i / 2) false

/-- The flits that port `n` has sent (R51, R53). -/
def State.lkOb (s : State) (n : Log) : List Flit := (s.linkOut.filter fun x => x.1 == n).flatMap fun x => x.2.flits

/-! ## Inbound -/

/-- The bytes of a packet's body flits. -/
def bodyBytes (body : List Flit) : List Byte := body.flatMap Flit.bytes

/-- For each 64-byte word of `k` bytes that begin at body flit `o`, whether one of its flits meets `f`. -/
def wordFlags (body : List Flit) (o k : Nat) (f : Flit → Bool) : List Bool :=
  (List.range (ceilDiv k 64)).map fun i => ((body.drop (o + 2 * i)).take (min 2 (ceilDiv k 32 - 2 * i))).any f

/-- A DELIVER or VERDICT body is well formed: its length field, BODY_FLITS and the place of eop agree (R59). -/
def formed (body : List Flit) (count len max extra : Nat) : Bool := len ≤ max && count == extra + ceilDiv len 32 && body.length == count

/-- A CMD with a good header (R58, R59, R105). -/
def spellCmd (n : Log) (h : List Byte) (body : List Flit) : Instr :=
  let len := field h 6 2
  let ok := formed body (field h 4 2) len 8192 2
  let fault : CmdFault := if !body.all Flit.good then .parity else if !ok then .format else .none
  let bs := bodyBytes body
  let pay := if ok then (bs.drop 64).take len else []
  .cmd n {
    queue := Fin.ofNat 4 (byteAt h 1), seq := BitVec.ofNat 16 (field h 2 2), desc := (bs ++ zeros 64).take 64, descPsn := (body.take 2).any Flit.psn
    payload := pay, psn := wordFlags body 2 pay.length Flit.psn, fault, upset := [] }

/-- A DELIVER with a good header (R58, R59, R105); an inbound one's SEQ, DTAG, OFFSET, GAP and GAP_WORDS have no meaning here. -/
def spellDeliver (n : Log) (h : List Byte) (body : List Flit) : Instr :=
  let len := field h 6 2
  if !formed body (field h 4 2) len 8192 0 then .linkError n .format none
  else .deliverIn n (Fin.ofNat 4 (byteAt h 1)) ((bodyBytes body).take len) (wordFlags body 0 len fun f => f.psn || !f.good)
    (body.countP fun f => !f.good) (bit (byteAt h 10) 0) []

/-- A VERDICT with a good header (R58, R59, R105). -/
def spellVerdict (n : Log) (h : List Byte) (body : List Flit) : Instr :=
  let len := byteAt h 7
  if !formed body (field h 4 2) len 64 0 then .linkError n .format none
  else .verdict n (Fin.ofNat 4 (byteAt h 1)) (BitVec.ofNat 16 (field h 2 2)) ⟨BitVec.ofNat 8 (byteAt h 6), (bodyBytes body).take len⟩
    (body.countP fun f => !f.good)

/-- The command that a whole inbound packet spells (R56 to R59, R105). R59 names no length field of a CREDIT, RESUME, WAKE or STATUS: body flits that come with one, and its BODY_FLITS, are not looked at (DESIGN CHOICE, log 64). An RMODE, WKIND or SKIND that no inbound packet has counts as a wrong type (DESIGN CHOICE, log 64). -/
def spell (n : Log) (head : Flit) (body : List Flit) : Instr :=
  let h := head.bytes
  let q : Qn := Fin.ofNat 4 (byteAt h 1)
  let seq := BitVec.ofNat 16 (field h 2 2)
  if !head.good || crc16 (h.take 30) ≠ field h 30 2 then .linkError n .header none
  else if head.psn then .linkError n .psnHeader none
  else match byteAt h 0 with
    | 0x01 => spellCmd n h body
    | 0x02 => spellDeliver n h body
    | 0x05 => .creditIn n q (BitVec.ofNat 16 (field h 8 2))
    | 0x06 => match byteAt h 6 with
      | 1 => .resumeIn n q seq .retry
      | 2 => .resumeIn n q seq .skip
      | _ => .linkError n .badType none
    | 0x07 => if byteAt h 6 = 1 then .wakeReady n else .linkError n .badType none
    | 0x0A => spellVerdict n h body
    | 0x0B => match byteAt h 6 with
      | 0x10 => .statusAsleep n
      | 0x11 => .statusLinkErr n q seq (BitVec.ofNat 32 (field h 8 4))
      | _ => .linkError n .badType none
    | _ => .linkError n .badType none

/-- The CMD with a good header that a packet cut short had begun, for its NAK (R105, R705). -/
def cutOf (head : Flit) (body : List Flit) : Option CutCmd :=
  let h := head.bytes
  if head.good && crc16 (h.take 30) == field h 30 2 && !head.psn && byteAt h 0 == 1 then
    some ⟨Fin.ofNat 4 (byteAt h 1), BitVec.ofNat 16 (field h 2 2), !body.all Flit.good⟩ else none

/-- The flits of a packet behind its first: its body up to eop, or up to a second sop (false), with the flits that follow; none while it is still open. -/
def bodyOf : List Flit → Option (List Flit × Bool × List Flit)
  | [] => none
  | f :: fs =>
    if f.sop then some ([], false, f :: fs)
    else if f.eop then some ([f], true, fs)
    else (bodyOf fs).map fun r => (f :: r.1, r.2)

/-- The commands that the flits sampled at port `n` spell, in order (R51 to R59, R105); `fuel` bounds the packets. -/
def receive (n : Log) : Nat → List Flit → List Instr
  | 0, _ => []
  | _, [] => []
  | fuel + 1, f :: fs =>
    if !f.sop then .linkError n .noPacket none :: receive n fuel fs
    else if f.eop then spell n f [] :: receive n fuel fs
    else match bodyOf fs with
      | none => []
      | some (body, true, rest) => spell n f body :: receive n fuel rest
      | some (body, false, rest) => .linkError n .sopInside (cutOf f body) :: receive n fuel rest

/-- The flits with which an operator sends a command that is an inbound packet (R56 to R59); others are no packets. -/
def inFlits (c : Instr) : List Flit :=
  match c with
  | .cmd _ c =>
    packetFlits (header 0x01 c.queue c.seq.toNat (2 + ceilDiv c.payload.length 32) (leBytes 2 c.payload.length) ++ c.desc ++ c.payload)
      fun i => if i < 2 then c.descPsn else c.psn.getD ((i - 2) / 2) false
  | .deliverIn _ q payload psn _ final _ =>
    packetFlits (header 0x02 q 0 (ceilDiv payload.length 32) (leBytes 2 payload.length ++ leBytes 2 0 ++ leBytes 1 (b2n final)) ++ payload)
      fun i => psn.getD (i / 2) false
  | .creditIn _ q inc => packetFlits (header 0x05 q 0 0 (leBytes 2 0 ++ leBytes 2 inc.toNat)) fun _ => false
  | .resumeIn _ q seq m => packetFlits (header 0x06 q seq.toNat 0 (leBytes 1 (match m with
      | .retry => 1
      | .skip => 2))) fun _ => false
  | .wakeReady _ => packetFlits (header 0x07 0 0 0 [1]) fun _ => false
  | .verdict _ q seq v _ =>
    packetFlits (header 0x0A q seq.toNat (ceilDiv v.dig.length 32) ([v.code] ++ leBytes 1 v.dig.length) ++ v.dig) fun _ => false
  | .statusAsleep _ => packetFlits (header 0x0B 0 0 0 [0x10]) fun _ => false
  | .statusLinkErr _ q seq off => packetFlits (header 0x0B q seq.toNat 0 (leBytes 2 0x11 ++ leBytes 4 off.toNat)) fun _ => false
  | _ => []

end Sys2Proof.Machine
end

