-- ==== Sys2Proof/Machine/Store.lean ====
section
/-! DEFINITION. The Glasshouse store as words (R302 to R312, R332): where the words that the channel holds stand, their parity and poison tags, and the pointers of the FIFOs. -/

namespace Sys2Proof.Machine

/-- A word of the store without its parity, which follows from its bytes (R302). -/
structure SWord where
  data : List Byte  -- 64 bytes
  psn : Bool  -- poison tag (R303)
deriving DecidableEq, Repr

/-- The 8 parity bits of a word: bit i with bytes 8i to 8i+7 gives 0 (R302). -/
def SWord.parity (x : SWord) : BitVec 8 :=
  BitVec.ofNat 8 (bitsOf ((List.range 8).map fun i => xor64 (BitVec.ofNat 64 (field x.data (8 * i) 8))))

/-- A scrubbed word: zeros with good parity and a clear poison tag (R332). -/
def SWord.zero : SWord := ⟨zeros 64, false⟩

/-- A word from bytes, the rest 0. -/
def SWord.of (bs : List Byte) (psn : Bool) : SWord := ⟨(bs ++ zeros 64).take 64, psn⟩

/-- A word from its 512 bits. -/
def SWord.ofBits (v : BitVec 512) (psn : Bool) : SWord := ⟨leBytes 64 v.toNat, psn⟩

/-- POISON, PARITY and DATA of a word as STORE_RD shows them (R701). -/
def SWord.bits (x : SWord) : BitVec 521 := BitVec.ofBool x.psn ++ x.parity ++ BitVec.ofNat 512 (leVal x.data)

/-- The words that marker `m` counts in a list. -/
def gapCount (m : Nat) (l : List LEnt) : Nat := (l.map fun e => match e with
  | .gap n _ k => if k = m then n else 0
  | .word _ _ | .eop _ | .last => 0).sum

/-- The store words of a link FIFO's entries, in order; a marker stands where its first words were lost, and its tag is set (R303, R320, R321). -/
def fifoWords (l : List LEnt) : List SWord := l.zipIdx.filterMap fun (e, i) => match e with
  | .word bs p => some (.of bs p)
  | .gap _ _ m => if (markersOf (l.take i)).contains m then none else some (.ofBits (Config.markerBytes (min 0xFFFFFFFF (gapCount m l))) true)
  | .eop _ | .last => none

/-- The word at `a` of cells. -/
def cellWord (cells : List Cell) (a : Nat) : SWord :=
  let cs := cells.filter fun c => c.pos / 64 == a / 64
  ⟨(List.range 64).map fun i => ((cs.find? fun c => c.pos % 64 == i).map Cell.val).getD 0, cs.any Cell.psn⟩

/-! ## The FIFO areas -/

/-- The words of a host-in FIFO from its release point on (R308). -/
def Que.hinStore (u : Que) : List SWord :=
  u.hin.flatMap fun x => match u.readAt x with
    | some r => if r.st == .landed || r.st == .held then (if r.st == .held then r.data.take r.moved else r.data).map fun w => SWord.of w.bytes w.psn else []
    | none => []

/-- The words of a host-out FIFO from its release point on: posted writes, then formed output (R308, R315). -/
def State.houtStore (s : State) (n : Log) (q : Qn) : List SWord :=
  let u := s.que n q
  (u.hout.flatMap fun h => match (u.acc.find? fun a => a.id == h.id).bind fun a => a.x.writes[h.k]? with
    | some w => (List.range h.words).map fun i => cellWord w.cells (w.addr + 64 * i)
    | none => List.replicate h.words SWord.zero)
  ++ (u.acc.flatMap fun a => (a.formed s.lch[n].bed).flatMap fun r => (runWords r).map fun w => cellWord (enabled r) (64 * w)).take (32 - u.houtHeld)

/-- The words of a link FIFO from its release point on: CMD payloads of descriptors that have not started, the DELIVER data, a held CMD's payload. Their order among one another is the model's (DESIGN CHOICE, log 65). -/
def Que.linkStore (u : Que) : List SWord := fifoWords u.fifo

/-- The first word of a queue's FIFO area (R305). -/
def LCh.poolBase (l : LCh) (q : Qn) : Nat := 1440 + (((fins 4).filter fun r => r.val < q.val).map fun r => (l.qs[r]).cfg.fifo).sum

/-- The word at place `j` of a FIFO of `size` words whose release count is `rel`. -/
def atPlace (l : List SWord) (size rel j : Nat) : Option SWord := if size = 0 then none else l[(j + size - rel % size) % size]?

/-- A word of the FIFO pool (R305). -/
def State.poolWord (s : State) (n : Log) (w : Nat) : Option SWord :=
  let l := s.lch[n]
  ((fins 4).find? fun q => l.poolBase q ≤ w && w < l.poolBase q + (l.qs[q]).cfg.fifo).bind fun q =>
    let u := l.qs[q]
    let o := w - l.poolBase q
    if o < 32 then atPlace u.hinStore 32 u.hinR o
    else if o < 64 then atPlace (s.houtStore n q) 32 u.houtR (o - 32)
    else atPlace u.linkStore u.linkWords u.linkR (o - 64)

/-! ## The fixed areas -/

/-- A word of a queue's descriptor area: accepted descriptors that have not started, then a held CMD, in queue order (R304; which word each takes is the model's choice, log 65). -/
def Que.descStore (u : Que) (i : Nat) : Option SWord :=
  ((u.acc.filter fun a => a.stage == .accepted && a.have_ && !a.subst) ++ (u.halt.bind Halt.held).toList)[i]?.map fun a => .of a.bytes false

/-- The 256 bytes of a group's staging buffer: 16 row IDs, 16 elements, and the status block over bytes 0 to 15 once the group has settled (R304). -/
def groupStore (a : Acc) : List (Byte × Bool) :=
  let es := vecGot a
  let cell (l : List (Byte × Bool)) : List (Byte × Bool) := (l ++ List.replicate 8 (0#8, false)).take 8
  let ids := (List.range 16).flatMap fun i => cell ((es[i]?).elim [] fun e => (leBytes a.d.idw e.id).map fun b => (b, e.psn))
  let vals := (List.range 16).flatMap fun i => cell ((es[i]?).elim [] fun e =>
    if a.d.op = 0x19 then e.val else (List.range a.d.w).filterMap fun j => match hostByte a.x 3 (vecAddr a.d e + j) with
      | .ok b p => some (b, p)
      | _ => none)
  let all := ids ++ vals
  if a.settled none then let o := outcome a none; ((groupFrame a o.status o.cause o.detail).take 16).map (fun b => (b, false)) ++ all.drop 16 else all

/-- A word of the group staging area; slots are numbered in queue order (R304, R248; the number that a slot has is the model's choice, log 65). -/
def LCh.groupWord (l : LCh) (i : Nat) : Option SWord :=
  let a? := (l.qs.toList.flatMap fun u => u.acc.filter fun a => a.stage ≠ .accepted)[i / 4]?
  (a?.filter fun a => a.d.isVec && a.runs).map fun a =>
    let bs := ((groupStore a).drop (64 * (i % 4))).take 64
    .of (bs.map Prod.fst) (bs.any Prod.snd)

/-- A combining slot: the open word of a bed of the running PARTITION (R280, R304). -/
def LCh.slotWord (l : LCh) (b : Nat) : Option SWord :=
  l.bed.bind fun bed =>
    ((l.qs.toList.flatMap Que.acc).find? fun a => a.d.op == 0x28 && a.stage == .started && a.runs).bind fun a =>
      ((partEval a bed).slots[b]?).bind fun cs => cs.head?.map fun c => cellWord cs c.pos

/-- A word of the bed cursor table (R304). -/
def LCh.cursorWord (l : LCh) (i : Nat) : Option SWord :=
  l.bed.bind fun bed =>
    if 4 * i < bed.cur.length then
      some (.of ((List.range 4).flatMap fun j => match bed.cur[4 * i + j]? with
        | some c => leBytes 16 (Config.cursorBytes (c.head.getD 0xFFFFFFFF) (c.tail.getD 0xFFFFFFFF) c.fill (c.next.getD 0xFFFFFFFF) c.rows).toNat
        | none => zeros 16) false)
    else none

/-- A byte of a window buffer: element or value at its place in the window (R214, R225, R304). -/
def windowByte (a : Acc) (j t : Nat) : Option (Byte × Bool) :=
  let r := if a.d.op = 0x12 then match rowId a.d a.x j with
      | .ok id => hostByte a.x (winStream (j / 256)) (a.d.src + id * a.d.w + t)
      | .error _ => .pend
    else sideByte a.x a.d.src 0 (j * a.d.w + t)
  match r with
  | .ok b p => some (b, p)
  | _ => none

/-- A word of a queue's reorder area: of the window that its buffer serves (R225, R304). Windows take the buffers in turn (DESIGN CHOICE, log 65). -/
def State.reorderWord (s : State) (n : Log) (q : Qn) (i : Nat) : Option SWord :=
  let l := s.lch[n]
  let u := l.qs[q]
  (u.acc.find? fun a => u.windows a l.bed l.port.dmax > 0).bind fun a =>
    let size := 128 * a.d.bufs
    let f := u.freed a l.bed l.port.dmax
    ((List.range (a.begunWindows - f)).map (f + ·)).find? (fun k => k % (2 / a.d.bufs) == i / size) |>.map fun k =>
      let bs := (List.range 64).map fun o =>
        let j := 256 * k + (64 * (i % size) + o) / a.d.w
        if (64 * (i % size) + o) / a.d.w < 256 && j < a.d.len then (windowByte a j ((64 * (i % size) + o) % a.d.w)).getD (0#8, false) else (0#8, false)
      .of (bs.map Prod.fst) (bs.any Prod.snd)

/-- A word of the store that holds something in use (R304). -/
def State.liveWord (s : State) (n : Log) (w : Nat) : Option SWord :=
  let l := s.lch[n]
  if w < 1024 then s.reorderWord n (Fin.ofNat 4 (w / 256)) (w % 256)
  else if w < 1280 then l.slotWord (w - 1024)
  else if w < 1344 then l.cursorWord (w - 1280)
  else if w < 1376 then l.groupWord (w - 1344)
  else if w < 1440 then (l.qs[Fin.ofNat 4 ((w - 1376) / 16)]).descStore ((w - 1376) % 16)
  else s.poolWord n w

/-- A store that test access may reach (R700, R701). -/
def CS.closed : CS → Bool
  | .off | .quarantined => true
  | .dormant | .waking | .active | .draining | .reserve => false

/-- No word has been written at `w` since the latest scrub over it: slots and cursors without a bed set, staging buffers without a group, places of a FIFO that its pointers have not reached, and words of the pool outside the areas (R292, R305, R309, R333). -/
def State.untouched (s : State) (n : Log) (w : Nat) : Bool :=
  let l := s.lch[n]
  if w < 1024 then false
  else if w < 1344 then l.bed.isNone
  else if w < 1376 then true
  else if w < 1440 then false
  else match (fins 4).find? fun q => l.poolBase q ≤ w && w < l.poolBase q + (l.qs[q]).cfg.fifo with
    | none => true
    | some q =>
      let u := l.qs[q]
      let o := w - l.poolBase q
      if o < 32 then u.hinR + u.hinStore.length ≤ o
      else if o < 64 then u.houtR + (s.houtStore n q).length ≤ o - 32
      else u.linkR + u.linkStore.length ≤ o - 64

/-- The store of `p` was scrubbed and has served nothing since (R333). -/
def PCh.blank (c : PCh) : Bool :=
  c.scrubbed && (c.st.closed || (!c.scrub && (c.st == .reserve || (c.st == .waking && c.wakeFor ≠ .dormant))))

/-- Word `w` of the store of physical channel `p`: zeros where nothing has been written since a scrub, what the channel holds there, what it held when it died, or what an earlier use left in a word that has been released (R302 to R305, R332, R334). -/
def State.storeWord (s : State) (p : Phys) (w : Nat) : SWord :=
  let c := s.phys[p]
  let left := Config.staleWord p w
  let word (s : State) (n : Log) : SWord :=
    (s.liveWord n w).getD (if s.untouched n w then .zero else .ofBits (left.extractLsb' 0 512) (left.getLsbD 512))
  if c.blank then .zero
  else match (s.logOf p).filter fun _ => c.st.serves, c.kept with
    | some n, _ => word s n
    | none, some (n, l) => word { s with lch := s.lch.set n l } n
    | none, none => .ofBits (left.extractLsb' 0 512) (left.getLsbD 512)

/-! ## Pointers -/

/-- The positions of a FIFO, as counts of words (R309, R310). -/
structure Ptrs where
  wr : Nat  -- write pointer
  rd : Nat  -- read pointer
  rel : Nat  -- release point
  mark : Option Nat  -- mark (R315)
deriving DecidableEq, Repr

/-- A 6-bit Gray-coded count, as it crosses between clocks (R311). -/
def gray6 (k : Nat) : BitVec 6 := let x := BitVec.ofNat 6 k; x ^^^ (x >>> 1)

/-- The positions of a host-in FIFO: each word is released as it is taken (R314). -/
def Que.hinPtrs (u : Que) : Ptrs := ⟨u.hinR + u.hinStore.length, u.hinR, u.hinR, none⟩

/-- The place of a posted write among the words of the host-out FIFO. -/
def Que.houtPlace (u : Que) (id k : Nat) : Nat := ((u.hout.takeWhile fun h => !(h.id == id && h.k == k)).map HOut.words).sum

/-- The host-out write of a queue whose beats are in progress (R315). -/
def State.houtActive (s : State) (n : Log) (q : Qn) : Option (Txn × Nat × Nat) :=
  (s.slices.toList.filterMap fun x => x.hold.bind fun y => match y.t.own with
    | .wr id k => if y.t.log = n && y.t.q = q && (s.que n q).hout.any (fun h => h.id == id && h.k == k) then some (y.t, id, k) else none
    | _ => none).head?

/-- The beats that a slice has staged of its holder's write by hclk `h` (R315, R339). -/
def Slice.stagedBy (x : Slice) (h : Nat) : Nat := (x.hold.map fun y => (x.times y).countP (· < h)).getD 0

/-- The positions of a host-out FIFO: the grant of a write sets the read pointer and the mark at its first word, each beat staged takes a word, and releases follow the posting order (R309, R315 to R317). -/
def State.houtPtrs (s : State) (n : Log) (q : Qn) : Ptrs :=
  let u := s.que n q
  let wr := u.houtR + (s.houtStore n q).length
  match s.houtActive n q with
  | some (t, id, k) => ⟨wr, u.houtR + u.houtPlace id k + (s.slices[sliceOf t.addr]).stagedBy s.hclk, u.houtR, if t.noMark then none else some (u.houtR + u.houtPlace id k)⟩
  | none => ⟨wr, u.houtR + u.houtHeld, u.houtR, none⟩

/-- The counts that cross between hclk and cclk: the write pointer to the reader's clock, the release point to the writer's (R311). -/
def Ptrs.cross (x : Ptrs) : BitVec 6 × BitVec 6 := (gray6 x.wr, gray6 x.rel)

/-- The positions of a link FIFO, plain binary counts (R312, R318). -/
def Que.linkPtrs (u : Que) : Ptrs := ⟨u.linkR + u.linkStore.length, u.linkR, u.linkR, none⟩

end Sys2Proof.Machine
end

