-- ==== Sys2Proof/Machine/Tap.lean ====
section
/-! DEFINITION. The test access port (R552, R690, R696 to R701). -/

namespace Sys2Proof.Machine

/-- The functional state after SCAN, which is not defined (R699). The argument is the state's counter `free`. -/
opaque Config.scanState : Nat → State

/-- The TAP after an instruction, which acts as BYPASS after lock without TEST_OPEN unless it is one of the four that R696 keeps (R552). -/
def State.tapIr (s : State) (i : TapI) : TapI := if s.gate.locked && !s.gate.testOpen then i.afterLock else i

/-- An instruction becomes current, with its function `f` when it keeps it. -/
def State.tapRun (s : State) (i : TapI) (f : State → State) : State :=
  let t := { s with tap := { s.tap with ir := s.tapIr i } }
  if s.tapIr i == i then f t else t

/-- JT_TRST (R690): Test-Logic-Reset, which selects IDCODE (22, Test access). -/
def execJtTrst (s : State) : Res := .next { s with tap := { s.tap with ir := .idcode } }

/-- The groups of wrapper cells of a slice, in the order of R686, with whether they are inputs: request, ready, write data, ready, read data, control, write response. -/
def sliceCells : List (Nat × Bool) := [(80, false), (1, true), (579, false), (1, true), (537, true), (2, false), (23, true)]
/-- The groups of wrapper cells of a port: inbound, outbound, lk_req, lk_awake, lk_wake. -/
def portCells : List (Nat × Bool) := [(264, true), (264, false), (4, true), (1, false), (1, true)]

/-- The groups of wrapper cells, from the cell nearest jt_tdo (R697). -/
def wrapCells : List (Nat × Bool) :=
  (List.replicate 16 sliceCells).flatten ++ (List.replicate 128 portCells).flatten ++ [(1024, true), (2048, false)]

/-- The number with ones at the input cells. -/
def maskOf : List (Nat × Bool) → Nat
  | [] => 0
  | (k, i) :: l => (if i then 2 ^ k - 1 else 0) + 2 ^ k * maskOf l

/-- The input cells of the wrapper (R697). -/
def inCells : BitVec 90992 := BitVec.ofNat 90992 (maskOf wrapCells)

/-- EXTEST (R696, R697): the wrapper drives `w` on the outputs and captures the inputs. -/
def execExtest (w : BitVec 90992) (s : State) : Res :=
  .next (s.tapRun .extest fun s => { s with
    free := s.free + 1
    tap := { s.tap with wrap := w, cap := (w &&& ~~~inCells) ||| (Config.pinSample s.free &&& inCells) } })

/-- The identification register (R698). -/
def idWord (mfr : BitVec 11) : BitVec 32 := 0x2#4 ++ 0x0136#16 ++ mfr ++ 1#1

/-- IDCODE (R698). -/
def execIdcode (s : State) : Res := .next (s.tapRun .idcode fun s => { s with tap := { s.tap with dr := idWord s.tap.mfr } })

/-- SAMPLE_PRELOAD (R696): the pins are sampled without disturbing function, and `w` is preloaded. -/
def execSamplePreload (w : BitVec 90992) (s : State) : Res :=
  .next (s.tapRun .sample fun s => { s with free := s.free + 1, tap := { s.tap with wrap := w, cap := Config.pinSample s.free } })

/-- CLAMP_IDLE (R696). -/
def execClampIdle (s : State) : Res := .next (s.tapRun .clampIdle id)

/-- SCAN (R699): the functional state is not defined until por_n is asserted; the key registers, which the chains do not include (R546), the pins, the TAP, what was driven and the queue of commands stand outside it. -/
def execScan (s : State) : Res :=
  .next (s.tapRun .scan fun s =>
    let u := Config.scanState s.free
    { u with
      ldg := { u.ldg with key := s.ldg.key }, gate := { u.gate with key := s.gate.key }
      porN := s.porN, hrstN := s.hrstN, vddCore := s.vddCore, tap := s.tap
      lch := mapV u.lch fun n l => { l with lkWake := s.lch[n].lkWake }
      linkOut := s.linkOut, evOut := s.evOut, hostOut := s.hostOut, rspOut := s.rspOut, kpOut := s.kpOut, nvmOut := s.nvmOut, spiOut := s.spiOut
      mgRdata := s.mgRdata
      free := s.free + 1, pending := s.pending })

/-- MBIST (R700): the march test runs on the stores of the OFF and QUARANTINED channels. -/
def execMbist (s : State) : Res :=
  .next (s.tapRun .mbist fun s =>
    if s.hrstN && s.vddCore then { s with tap := { s.tap with mbist := 0, running := (fins 136).filter fun p => s.phys[p].st.closed } } else s)

/-- MBIST_COMPLETE (R700): each store tested has been scrubbed; `pass` are the channels that passed. -/
def execMbistComplete (pass : List Phys) (s : State) : Res :=
  let run := s.tap.running.filter fun p => s.phys[p].st.closed
  let word := run.foldl (fun (m : BitVec 272) p => m ||| (1#272 <<< (2 * p.val)) ||| (if pass.contains p then 1#272 <<< (2 * p.val + 1) else 0)) 0
  let t := run.foldl (fun (t : State) p => t.modP p fun c => { c with scrubbed := true }) s
  when (!s.tap.running.isEmpty && s.hrstN && s.vddCore) s { t with tap := { t.tap with mbist := word, running := [] } }

/-- STORE_RD (R701): a word of an OFF or QUARANTINED channel whose store has been scrubbed; any other is not read. -/
def execStoreRd (phys : Byte) (word : BitVec 11) (s : State) : Res :=
  .next (s.tapRun .storeRd fun s =>
    let w := if h : phys.toNat < 136 then
        if s.phys[phys.toNat].st.closed && s.phys[phys.toNat].scrubbed then some (s.storeWord ⟨phys.toNat, h⟩ word.toNat) else none
      else none
    { s with tap := { s.tap with store := (match w with
      | some x => 0#1 ++ x.bits
      | none => 1#1 ++ 0#521) ++ word ++ phys } })

/-- BYPASS (R696). -/
def execBypass (s : State) : Res := .next (s.tapRun .bypass id)

end Sys2Proof.Machine
end

