-- ==== Sys2Proof/Machine/Dispatch.lean ====
section
/-! DEFINITION. The dispatch: one arm for each constructor of `Instr`. -/

namespace Sys2Proof.Machine

def exec (i : Instr) (s : State) : Host.Outcome State Fault Refusal :=
  match i with
  | .porAssert => Sys2Proof.Machine.execPorAssert s
  | .porDeassert quad addr4 dual => Sys2Proof.Machine.execPorDeassert quad addr4 dual s
  | .hrstAssert => Sys2Proof.Machine.execHrstAssert s
  | .hrstDeassert => Sys2Proof.Machine.execHrstDeassert s
  | .vddCoreRemoval => Sys2Proof.Machine.execVddCoreRemoval s
  | .readyWaitEnd => Sys2Proof.Machine.execReadyWaitEnd s
  | .keyPortResponse r => Sys2Proof.Machine.execKeyPortResponse r s
  | .keyPortTimeout => Sys2Proof.Machine.execKeyPortTimeout s
  | .ledgerValidation heads log => Sys2Proof.Machine.execLedgerValidation heads log s
  | .headersRead ha hb => Sys2Proof.Machine.execHeadersRead ha hb s
  | .candidatePass img => Sys2Proof.Machine.execCandidatePass img s
  | .candidateReject img => Sys2Proof.Machine.execCandidateReject img s
  | .ledgerWriteComplete => Sys2Proof.Machine.execLedgerWriteComplete s
  | .recordIntervalClose iv => Sys2Proof.Machine.execRecordIntervalClose iv s
  | .rcRead off r => Sys2Proof.Machine.execRcRead off r s
  | .snapshotRead off r => Sys2Proof.Machine.execSnapshotRead off r s
  | .registerWrite off v r => Sys2Proof.Machine.execRegisterWrite off v r s
  | .rwlWriteFailed off v r => Sys2Proof.Machine.execRwlWriteFailed off v r s
  | .qctlEnable p q r => Sys2Proof.Machine.execQctlEnable p q r s
  | .qctlDrain p q r => Sys2Proof.Machine.execQctlDrain p q r s
  | .arbClassWrite ix v r => Sys2Proof.Machine.execArbClassWrite ix v r s
  | .terBcastPulse t r => Sys2Proof.Machine.execTerBcastPulse t r s
  | .ldgRdctlGo r => Sys2Proof.Machine.execLdgRdctlGo r s
  | .ldgReadbackDone data => Sys2Proof.Machine.execLdgReadbackDone data s
  | .out t all target r => Sys2Proof.Machine.execOut t all target r s
  | .ret t all target r => Sys2Proof.Machine.execRet t all target r s
  | .swap t target r => Sys2Proof.Machine.execSwap t target r s
  | .reset t target r => Sys2Proof.Machine.execReset t target r s
  | .stest t target r => Sys2Proof.Machine.execStest t target r s
  | .stestComplete t pass => Sys2Proof.Machine.execStestComplete t pass s
  | .reclaim t target r => Sys2Proof.Machine.execReclaim t target r s
  | .serviceLoadGo hdr r => Sys2Proof.Machine.execServiceLoadGo hdr r s
  | .serviceLoadEnd img => Sys2Proof.Machine.execServiceLoadEnd img s
  | .cmd n c => Sys2Proof.Machine.execCmd n c s
  | .deliverIn n q payload psn par final upset => Sys2Proof.Machine.execDeliverIn n q payload psn par final upset s
  | .creditIn n q inc => Sys2Proof.Machine.execCreditIn n q inc s
  | .resumeIn n q seq mode => Sys2Proof.Machine.execResumeIn n q seq mode s
  | .wakeReady n => Sys2Proof.Machine.execWakeReady n s
  | .statusAsleep n => Sys2Proof.Machine.execStatusAsleep n s
  | .statusLinkErr n q seq off => Sys2Proof.Machine.execStatusLinkErr n q seq off s
  | .verdict n q seq code par => Sys2Proof.Machine.execVerdict n q seq code par s
  | .linkError n k cut => Sys2Proof.Machine.execLinkError n k cut s
  | .single n => Sys2Proof.Machine.execSingle n s
  | .burst n => Sys2Proof.Machine.execBurst n s
  | .last n => Sys2Proof.Machine.execLast n s
  | .flush n f => Sys2Proof.Machine.execFlush n f s
  | .lkWake n level => Sys2Proof.Machine.execLkWake n level s
  | .linkWdPacketCut n cut => Sys2Proof.Machine.execLinkWdPacketCut n cut s
  | .linkWdWake n => Sys2Proof.Machine.execLinkWdWake n s
  | .linkWdCredit n q => Sys2Proof.Machine.execLinkWdCredit n q s
  | .verdictTimeout n q => Sys2Proof.Machine.execVerdictTimeout n q s
  | .deliverOut n q => Sys2Proof.Machine.execDeliverOut n q s
  | .statusParked n q => Sys2Proof.Machine.execStatusParked n q s
  | .pidxReturn n q => Sys2Proof.Machine.execPidxReturn n q s
  | .ringEntryReturn n q => Sys2Proof.Machine.execRingEntryReturn n q s
  | .chainMemberReturn n q => Sys2Proof.Machine.execChainMemberReturn n q s
  | .refetchExpiry n q => Sys2Proof.Machine.execRefetchExpiry n q s
  | .descriptorStart n q upset => Sys2Proof.Machine.execDescriptorStart n q upset s
  | .descriptorVisible n q id => Sys2Proof.Machine.execDescriptorVisible n q id s
  | .descriptorRetire n q => Sys2Proof.Machine.execDescriptorRetire n q s
  | .queueDrainComplete n q => Sys2Proof.Machine.execQueueDrainComplete n q s
  | .channelDrainComplete p => Sys2Proof.Machine.execChannelDrainComplete p s
  | .eventOutput n e => Sys2Proof.Machine.execEventOutput n e s
  | .kickDoorbell n b ext => Sys2Proof.Machine.execKickDoorbell n b ext s
  | .kickRelease n b ext => Sys2Proof.Machine.execKickRelease n b ext s
  | .kickEnable n b ext => Sys2Proof.Machine.execKickEnable n b ext s
  | .drain n ext => Sys2Proof.Machine.execDrain n ext s
  | .wake n ext => Sys2Proof.Machine.execWake n ext s
  | .rateHeldApply n x ext => Sys2Proof.Machine.execRateHeldApply n x ext s
  | .waitTimeout n q id => Sys2Proof.Machine.execWaitTimeout n q id s
  | .deadlineMiss n q id => Sys2Proof.Machine.execDeadlineMiss n q id s
  | .poolReread n => Sys2Proof.Machine.execPoolReread n s
  | .poolEmpty n => Sys2Proof.Machine.execPoolEmpty n s
  | .transactionPost p rq tag h => Sys2Proof.Machine.execTransactionPost p rq tag h s
  | .sliceGrant sl h stall => Sys2Proof.Machine.execSliceGrant sl h stall s
  | .transactionPresent sl h => Sys2Proof.Machine.execTransactionPresent sl h s
  | .readResponse sl tag data resp h at_ => Sys2Proof.Machine.execReadResponse sl tag data resp h at_ s
  | .returnBufferMove p q => Sys2Proof.Machine.execReturnBufferMove p q s
  | .writeResponse sl tag resp h => Sys2Proof.Machine.execWriteResponse sl tag resp h s
  | .lockLeaseExpiry sl h => Sys2Proof.Machine.execLockLeaseExpiry sl h s
  | .starve p entry => Sys2Proof.Machine.execStarve p entry s
  | .sliceWd sl h => Sys2Proof.Machine.execSliceWd sl h s
  | .livenessPeriod failed h => Sys2Proof.Machine.execLivenessPeriod failed h s
  | .parityReport p => Sys2Proof.Machine.execParityReport p s
  | .takeoverCommit t j => Sys2Proof.Machine.execTakeoverCommit t j s
  | .restoreComplete p j => Sys2Proof.Machine.execRestoreComplete p j s
  | .idlePeriodElapse p => Sys2Proof.Machine.execIdlePeriodElapse p s
  | .dormantEntry p => Sys2Proof.Machine.execDormantEntry p s
  | .wakeComplete p => Sys2Proof.Machine.execWakeComplete p s
  | .terraceClockStop t => Sys2Proof.Machine.execTerraceClockStop t s
  | .scrubComplete p => Sys2Proof.Machine.execScrubComplete p s
  | .jtTrst => Sys2Proof.Machine.execJtTrst s
  | .extest w => Sys2Proof.Machine.execExtest w s
  | .idcode => Sys2Proof.Machine.execIdcode s
  | .samplePreload w => Sys2Proof.Machine.execSamplePreload w s
  | .clampIdle => Sys2Proof.Machine.execClampIdle s
  | .scan => Sys2Proof.Machine.execScan s
  | .mbist => Sys2Proof.Machine.execMbist s
  | .mbistComplete pass => Sys2Proof.Machine.execMbistComplete pass s
  | .storeRd phys word => Sys2Proof.Machine.execStoreRd phys word s
  | .bypass => Sys2Proof.Machine.execBypass s
  | .vddCoreReturn => Sys2Proof.Machine.execVddCoreReturn s

end Sys2Proof.Machine
end

