-- ==== Sys2Proof/Safety.lean ====
section
/-! DEFINITION. What counts as a safe run, and the terms of the statements: a channel that takes commands, rights, frames, and the invariants of the map and of the ledger. -/

namespace Sys2Proof.Machine

/-! ## Safe runs -/

/-- A command that R632 puts outside the manual in this state: the core supply goes while hrst_n is 1, or hrst_n rises without it. -/
def outside (i : Instr) (s : State) : Bool :=
  match i with
  | .vddCoreRemoval => s.hrstN
  | .hrstDeassert => !s.hrstN && !s.vddCore
  | _ => false

/-- The next command of the queue does not stop the block. -/
def State.stepSafe (s : State) : Bool :=
  match s.pending with
  | c :: rest => !outside c { s with pending := rest }
  | [] => true

/-! ## When a channel takes commands -/

/-- The data plane is powered and out of reset. -/
def State.on (s : State) : Bool := s.hrstN && s.vddCore

/-- Physical channel `p` serves `n` and runs (ACTIVE or DRAINING, R141), with no dormant entry in progress (R623). -/
def State.live (s : State) (n : Log) (p : Phys) : Bool := s.on && s.runP n == some p && s.phys[p].entry == 0

/-- `p` is live for `n`, its isolation gate is open (R514) and the wrapper leaves the pins alone (R697): the port of `n` takes packets. -/
def State.linked (s : State) (n : Log) (p : Phys) : Bool := s.live n p && s.phys[p].gate && !s.tap.drives

/-- The block's own posts and packets of `n` leave through `p`, which the map gives back (R29, R30). -/
def State.posts (s : State) (n : Log) (p : Phys) : Bool := s.live n p && s.logOf p == some n

/-- The host-port pins of the block take an event at hclk edge `h` (R335, R697). -/
def State.pinsAt (s : State) (h : Nat) : Bool := s.on && s.hclk ≤ h && !s.tap.drives

/-- A management access by a requester with every right (R541 to R543). -/
def State.mgSecure (s : State) (r : Rqr) : Bool := s.porN && s.secure r

/-- A secure requester finds terrace `t` free for a service command (R641, R654). -/
def State.svcFree (s : State) (t : Ter) (r : Rqr) : Bool :=
  s.mgSecure r && s.gate.locked && s.gate.mode && !s.svc.busy && !s.ters[t].busy && s.ters[t].cmd.isNone && s.ters[t].tko.isNone

/-! ## Frames -/

/-- Everything of queue `u` but what its data path moves: its descriptors' execution, its FIFOs with their read pointers and the credit that it owes. -/
def sameQueue (u v : Que) : Prop :=
  v = { u with acc := v.acc, link := v.link, hin := v.hin, hinR := v.hinR, hinRec := v.hinRec, linkR := v.linkR, toDrop := v.toDrop, owed := v.owed, wordCr := v.wordCr }

/-- A descriptor keeps its place, submission, stage and outcome; its execution state `x`, the payload that an INLINE takes and what goes with them may move. Its LINK_ERR appears only as a report of an earlier packet waited for (`failAt`, R108). -/
def sameAcc (a b : Acc) : Prop :=
  b = { a with x := b.x, payload := b.payload, dataIn := b.dataIn, deadline := b.deadline, credit := b.credit }
    ∧ (b.x.linkErr = a.x.linkErr ∨ a.x.linkErr = none ∧ b.x.linkErr = a.failAt) ∧ b.x.outSent = a.x.outSent ∧ b.x.finSent = a.x.finSent ∧ b.x.finA = a.x.finA
    ∧ b.x.allow = a.x.allow ∧ b.x.endAt = a.x.endAt ∧ b.x.began = a.x.began ∧ b.x.msgAbort = a.x.msgAbort

/-- Of the other logical channels nothing changes; of `n` only the queues `qs`, and what `f` lists, may. -/
def sameOthers (n : Log) (s t : State) : Prop := ∀ m, m ≠ n → t.lch[m] = s.lch[m]

/-- The other queues of `n`, its configuration and its task inputs stay. -/
def sameSiblings (n : Log) (q : Qn) (s t : State) : Prop :=
  (∀ r, r ≠ q → t.que n r = s.que n r) ∧ t.lch[n].port = s.lch[n].port ∧ t.lch[n].ins = s.lch[n].ins

/-- Nothing outside the data plane changes: pins, time, map, fence table, terraces, boot and service registers, arbiter, TAP, readback data, interrupts, and the outputs other than the link's. -/
def sameControl (s t : State) : Prop :=
  t = { s with
    lch := t.lch, phys := t.phys, slices := t.slices, doms := t.doms, rf := t.rf, linkOut := t.linkOut, ldg := t.ldg, linkIvl := t.linkIvl
    sun := t.sun, nextId := t.nextId, free := t.free }

/-- The other physical channels stay. -/
def samePhys (p : Phys) (s t : State) : Prop := ∀ r, r ≠ p → t.phys[r] = s.phys[r]

/-- The frame of a command of queue `q` of `n` on channel `p`: it leaves the control state, every other logical and physical channel and the other queues of `n` as they were, and packets that have left stay sent. -/
def channelFrame (n : Log) (q : Qn) (p : Phys) (s t : State) : Prop :=
  sameControl s t ∧ sameOthers n s t ∧ sameSiblings n q s t ∧ samePhys p s t ∧ s.linkOut <+: t.linkOut

/-! ## Invariants -/

/-- The map keeps every channel in its terrace (R28, R31), and a terrace's reserve and takeover are its own (R33, R515). -/
def State.local (s : State) : Prop :=
  (∀ (n : Log) (p : Phys), s.map[n] = some p → terP p = terL n)
    ∧ (∀ (t : Ter) (p : Phys), s.ters[t].reserve = some p → terP p = t)
    ∧ (∀ (t : Ter) (k : Tko), s.ters[t].tko = some k → terP k.new = t ∧ terL k.log = t)

/-- Each physical channel serves at most one logical channel (R30), and what keeps it so: a reserve serves none, a takeover goes to the reserve, a QUARANTINED channel is mapped only while the takeover (no swap) of what it served runs, and a RECLAIM runs only without a reserve (R653). -/
def State.exclusive (s : State) : Prop :=
  (∀ (m n : Log) (p : Phys), s.map[m] = some p → s.map[n] = some p → m = n)
    ∧ (∀ (t : Ter) (p : Phys), s.ters[t].reserve = some p → ∀ n : Log, s.map[n] ≠ some p)
    ∧ (∀ (t : Ter) (k : Tko), s.ters[t].tko = some k → s.ters[t].reserve = some k.new ∧ s.ters[t].busy = true)
    ∧ (∀ (p : Phys) (n : Log), s.phys[p].st = .quarantined → s.map[n] = some p → (s.ters[terP p].tko.any fun k => k.log == n && !k.swap) = true)
    ∧ (∀ (p : Phys) (n : Log), s.phys[p].st = .reserve → s.map[n] ≠ some p)
    ∧ (∀ t : Ter, (s.ters[t].cmd.any fun c => c.op == 6) = true → s.ters[t].reserve = none)

/-- The map is in order. -/
def State.spared (s : State) : Prop := s.local ∧ s.exclusive

/-- The posting queue of the ledger holds at most 64 records (R584). -/
def State.ledgerFits (s : State) : Prop := s.ldg.queue.length ≤ 64

/-- The command SCAN, after which the functional state is not defined (R699). -/
def isScan (i : Instr) : Bool :=
  match i with
  | .scan => true
  | _ => false

end Sys2Proof.Machine
end

