-- ==== Sys2Proof/Certificates/Slice0/Obligations.lean ====
section
/-! DEFINITION. The statements for the provers: what the block and its commands do, by the spec's rules. -/

open Sys2Proof Sys2Proof.Machine

/-! ## The whole block -/

/-- A step with a waiting command is that command's effect on the state with the rest of the queue. -/
def Obligations.StepRunsFrontCommand : Prop :=
  ∀ (s : State) (c : Instr) (rest : List Instr), s.pending = c :: rest → step s = exec c { s with pending := rest }

/-- With no command waiting one aclk passes: the model's choice (assumption log 3). The interrupt outputs then show the sources that held before it (R683), and what was set or counted in the aclk that ends joins the W1C and RC fields that software's accesses reach (R11, R684). -/
def Obligations.IdleStepPassesOneAclk : Prop :=
  ∀ s : State, s.pending = [] →
    (s.porN = false → step s = .next s)
      ∧ (s.porN = true → ∃ t, step s = .next t ∧ t.aclk = s.aclk + 1 ∧ t.irq = s.whole.sources ∧ t.pending = []
          ∧ t.porN = s.porN ∧ t.hrstN = s.hrstN ∧ t.vddCore = s.vddCore ∧ t.hclk = s.hclk ∧ t.tap = s.tap ∧ t.mgRdata = s.mgRdata
          ∧ t.edge.gate = s.whole.gate ∧ t.edge.sun = s.whole.sun ∧ t.edge.arb = s.whole.arb ∧ t.edge.hpt = s.whole.hpt
          ∧ (∀ p : Phys, t.edge.phys[p] = s.whole.phys[p].c) ∧ (∀ d : Dom, t.edge.doms[d] = s.whole.doms[d]))

/-- Every command answers a next state and leaves the queue of waiting commands alone, but for the two supply events to which R632 gives no outcome. -/
def Obligations.OnlySupplyEventsStop : Prop :=
  ∀ (c : Instr) (s : State),
    (outside c s = true → exec c s = .fault .supplyOutside)
      ∧ (outside c s = false → ∃ t, exec c s = .next t ∧ t.pending = s.pending)

/-- After power-on reset: the map and the reserves of R29, every channel OFF, every queue DISABLED with SEQ 0xFFFF before its first, and the stated reset values of the registers. -/
def Obligations.ResetStateHolds : Prop :=
  (∀ n : Log, ∃ p : Phys, State.reset.map[n] = some p ∧ p.val = 17 * (n.val / 16) + n.val % 16)
    ∧ (∀ t : Ter, ∃ p : Phys, State.reset.ters[t].reserve = some p ∧ p.val = 17 * t.val + 16)
    ∧ (∀ p : Phys, State.reset.phys[p].st = .off)
    ∧ (∀ (n : Log) (q : Qn), (State.reset.que n q).st = .disabled ∧ (State.reset.que n q).kicks = 0 ∧ (State.reset.que n q).rcnt = 0
        ∧ (State.reset.que n q).lastAcc = 0xFFFF ∧ (State.reset.que n q).lastRet = 0xFFFF)
    ∧ (∀ n : Log, State.reset.inc n = 0)
    ∧ State.reset.gate.st = .reset ∧ State.reset.gate.locked = false
    ∧ State.reset.arb.limit = 800 ∧ State.reset.arb.pmin = 4 ∧ State.reset.hpt.lease = 512
    ∧ State.reset.sun.hclk = 2000 ∧ State.reset.sun.hostLat = 300 ∧ (∀ t : Ter, State.reset.sun.cclk[t] = 1500)
    ∧ State.reset.pending = []
    ∧ State.reset.spared ∧ State.reset.ledgerFits

/-- Every step but SCAN keeps the map in order: each logical channel stays in its terrace, each physical channel serves at most one logical channel, and a reserve serves none (R28, R30, R33). -/
def Obligations.SparedKeptByEveryStep : Prop :=
  ∀ s t : State, s.spared → (∀ c rest, s.pending = c :: rest → isScan c = false) → step s = .next t → t.spared

/-- Every step but SCAN keeps the ledger's posting queue within 64 records (R584). -/
def Obligations.LedgerFitsKeptByEveryStep : Prop :=
  ∀ s t : State, s.ledgerFits → (∀ c rest, s.pending = c :: rest → isScan c = false) → step s = .next t → t.ledgerFits

/-! ## Resets and supplies -/

/-- POR_ASSERT: every register and every plane goes to its reset value; the input pins, the TAP, what has left the block and the waiting commands stay (R558, R667). -/
def Obligations.PowerOnAssertResets : Prop :=
  ∀ s : State, ∃ t, exec .porAssert s = .next t
    ∧ t.porN = false ∧ t.aclk = 0 ∧ t.gate = State.reset.gate ∧ t.ldg = State.reset.ldg ∧ t.svc = State.reset.svc
    ∧ t.arb = State.reset.arb ∧ t.hpt = State.reset.hpt ∧ t.sun = State.reset.sun ∧ t.slices = State.reset.slices
    ∧ t.fence = State.reset.fence ∧ t.map = State.reset.map ∧ t.doms = State.reset.doms ∧ t.rf = State.reset.rf
    ∧ t.ters = State.reset.ters ∧ t.phys = State.reset.phys ∧ t.irq = 0 ∧ t.edge = State.reset.edge ∧ t.jbad = State.reset.jbad
    ∧ (∀ n : Log, t.lch[n] = { State.reset.lch[n] with lkWake := s.lch[n].lkWake })
    ∧ t.hrstN = s.hrstN ∧ t.vddCore = s.vddCore ∧ t.tap = { s.tap with running := [] } ∧ t.pending = s.pending
    ∧ t.linkOut = s.linkOut ∧ t.evOut = s.evOut ∧ t.hostOut = s.hostOut ∧ t.kpOut = s.kpOut ∧ t.nvmOut = s.nvmOut
    ∧ t.rspOut = s.rspOut ∧ t.spiOut = s.spiOut ∧ t.rdPorts = State.reset.rdPorts

/-- POR_DEASSERT samples the straps, starts the frame count and requests the ledger key (R558, R563); READY_WAIT_END takes the Gatehouse from RESET to LEDGER (R561). Nothing else changes. -/
def Obligations.PowerOnStart : Prop :=
  (∀ (s : State) (quad addr4 dual : Bool), s.porN = false →
    exec (.porDeassert quad addr4 dual) s = .next { s with
      porN := true, aclk := 0, kpOut := s.kpOut ++ [1]
      gate := { s.gate with quad := quad, addr4 := addr4, dual := dual, kpReq := some (1, 0) } })
  ∧ (∀ s : State, s.porN = true → s.gate.st = .reset → 2500 ≤ s.aclk →
    exec .readyWaitEnd s = .next { s with gate := { s.gate with st := .ledger } })

/-- HRST_ASSERT: no slice holds a transaction or a lock, a lock held breaks with cause 3, and no channel holds a pending entry; the map, the incarnations, the terraces and the queues' states and counts stay (R143, R360, R362, R371). -/
def Obligations.HrstAssertStopsDataPlane : Prop :=
  ∀ s : State, s.hrstN = true → ∃ t, exec .hrstAssert s = .next t ∧ t.hrstN = false
    ∧ (∀ sl : SliceN, t.slices[sl].issue = [] ∧ t.slices[sl].hold = none ∧ t.slices[sl].out = [] ∧ t.slices[sl].lock.held = false
        ∧ (s.slices[sl].lock.held = true → t.slices[sl].lock.broken = true ∧ t.slices[sl].lock.cause = 3))
    ∧ (∀ p : Phys, t.phys[p].pend = [] ∧ t.phys[p].st = s.phys[p].st)
    ∧ (∀ n : Log, t.lch[n].fleft = 0)
    ∧ (∀ (n : Log) (q : Qn), (t.que n q).st = (s.que n q).st ∧ (t.que n q).cfg = (s.que n q).cfg ∧ (t.que n q).lastAcc = (s.que n q).lastAcc
        ∧ (t.que n q).lastRet = (s.que n q).lastRet ∧ (t.que n q).kicks = (s.que n q).kicks ∧ (t.que n q).fidx = (s.que n q).fidx
        ∧ (t.que n q).rcnt = (s.que n q).rcnt)
    ∧ t.map = s.map ∧ t.fence = s.fence ∧ t.gate = s.gate ∧ t.ters = s.ters ∧ t.sun = s.sun ∧ t.arb = s.arb ∧ t.linkOut = s.linkOut

/-- At image lock from `s` (R20, R333, R576): the Gatehouse is LOCKED, serving positions are WAKING, reserve positions keep their state, every store is to be scrubbed, and a valid DISABLED queue with INIT_STATE ACTIVE is ACTIVE. -/
def lockedFrom (s t : State) : Prop :=
  t.gate.st = .locked ∧ t.gate.locked = true ∧ t.gate.lockA = s.aclk ∧ t.map = s.map ∧ t.fence = s.fence
    ∧ (∀ p : Phys, t.phys[p].scrub = true ∧ t.phys[p].st = if p.val % 17 = 16 then s.phys[p].st else .waking)
    ∧ (∀ (n : Log) (q : Qn), (t.que n q).cfg.valid = true → (t.que n q).cfg.initActive = true → (s.que n q).st = .disabled → (t.que n q).st = .active)

/-- HRST_DEASSERT: every slice lock is free and BROKEN. A waiting image locks; otherwise every serving channel is reset: WAKING, its store to be scrubbed, its incarnation advanced (R143, R362, R561). VDD_CORE_REMOVAL under reset and VDD_CORE_RETURN change the supply alone (R631). -/
def Obligations.HrstDeassertResumes : Prop :=
  (∀ s : State, s.hrstN = false → s.vddCore = true → ∃ t, exec .hrstDeassert s = .next t ∧ t.hrstN = true ∧ t.map = s.map
    ∧ (∀ sl : SliceN, t.slices[sl].lock = { broken := true, cause := 3 })
    ∧ (s.gate.st = .lockWait → lockedFrom s t)
    ∧ (s.gate.st ≠ .lockWait → ∀ (n : Log) (p : Phys), s.servP n = some p →
        t.phys[p].st = .waking ∧ t.phys[p].wakeFor = .reset ∧ t.phys[p].scrub = true ∧ t.inc n = (s.inc n + 1) % 16))
  ∧ (∀ s : State, s.hrstN = false → exec .vddCoreRemoval s = .next { s with vddCore := false })
  ∧ (∀ s : State, exec .vddCoreReturn s = .next { s with vddCore := true })

/-! ## Start-up -/

/-- A key is four beats of 64 bits, byte j at key bits 8j + 7 to 8j; a counter is the low 32 bits of its beat, and the image key is requested after it; an error, a response with a gap, or none within 1,000 aclk, leaves no key and is remembered; a response that answers no request, or comes too late, is not looked at (R562, R563, R574). -/
def Obligations.KeyPortAnswers : Prop :=
  (∀ (s : State) (t : Nat) (b : List (BitVec 64)), s.aclk ≤ t + 1000 → b.length = 4 →
    ∃ k : List Byte, k.length = 32 ∧ (∀ j, j < 32 → k.getD j 0 = (b.getD (j / 8) 0).extractLsb' (8 * (j % 8)) 8)
      ∧ (s.gate.kpReq = some (1, t) → exec (.keyPortResponse (.key b)) s =
          .next { s with gate := { s.gate with kpReq := none }, ldg := { s.ldg with key := some k } })
      ∧ (s.gate.kpReq = some (0, t) → exec (.keyPortResponse (.key b)) s =
          .next { s with gate := { s.gate with kpReq := none, key := some k } }))
  ∧ (∀ (s : State) (t : Nat) (v : BitVec 64), s.gate.kpReq = some (2, t) → s.aclk ≤ t + 1000 →
      exec (.keyPortResponse (.counter v)) s =
        .next { s with gate := { s.gate with kpReq := some (0, s.aclk), kpCnt := v.toNat % 2 ^ 32 }, kpOut := s.kpOut ++ [0] })
  ∧ (∀ (s : State) (t : Nat) (c : Instr), (c = .keyPortTimeout ∧ t + 1000 < s.aclk) ∨ ((c = .keyPortResponse .err ∨ c = .keyPortResponse .gapped) ∧ s.aclk ≤ t + 1000) →
      (s.gate.kpReq = some (1, t) → exec c s = .next { s with gate := { s.gate with kpReq := none }, ldg := { s.ldg with key := none } })
      ∧ (s.gate.kpReq = some (2, t) → exec c s =
          .next { s with gate := { s.gate with kpReq := some (0, s.aclk), kpErr := 1 }, kpOut := s.kpOut ++ [0] })
      ∧ (s.gate.kpReq = some (0, t) → exec c s =
          .next { s with gate := { s.gate with kpReq := none, key := none, kpErr := if s.gate.kpErr = 0 then 2 else s.gate.kpErr } }))
  ∧ (∀ (s : State) (r : KpRsp), s.gate.kpReq = none ∨ (∃ sel t, s.gate.kpReq = some (sel, t) ∧ t + 1000 < s.aclk) → exec (.keyPortResponse r) s = .next s)
  ∧ (∀ s : State, s.gate.kpReq = none ∨ (∃ sel t, s.gate.kpReq = some (sel, t) ∧ s.aclk ≤ t + 1000) → exec .keyPortTimeout s = .next s)

/-- LEDGER_VALIDATION in LEDGER, once the key's request has been answered, completes: the ledger is valid and the Gatehouse goes to HEADERS (R561, R585). It reads the 16 head slots on the SPI, and opens the ledger with what R585 states for each finding. -/
def Obligations.LedgerValidationOutcome : Prop :=
  (∀ (s : State) (heads : List (List Byte)) (log : List Byte), s.gate.st = .ledger → s.gate.kpReq = none →
    ∃ t, exec (.ledgerValidation heads log) s = .next t ∧ t.gate.st = .headers ∧ t.ldg.valid = true)
  ∧ (∀ (s : State) (heads : List (List Byte)) (log : List Byte), s.gate.st = .ledger → s.gate.kpReq = none →
    ∃ t, exec (.ledgerValidation heads log) s = .next t
      ∧ t.gate = { s.gate with st := .headers } ∧ t.ldg.valid = true ∧ t.map = s.map ∧ t.phys = s.phys ∧ t.lch = s.lch
      ∧ (s.spiOut ++ [s.gate.spiRead 0x400000 512]) <+: t.spiOut
      ∧ (s.ldg.key = none → t.ldg.keyErr = true ∧ t.ldg.queue = [])
      ∧ (∀ key, s.ldg.key = some key → t.ldg.keyErr = s.ldg.keyErr
          ∧ (newestHead key heads = none → t.ldg.noHead = true ∧ t.ldg.mismatch = s.ldg.mismatch)
          ∧ (∀ b, newestHead key heads = some b → t.ldg.noHead = s.ldg.noHead
              ∧ (macOk key (logPos (lseqOf b)) log = true → log.take 24 = b.take 24 → t.ldg.mismatch = s.ldg.mismatch
                  ∧ (s.ldg.lossN = 0 → t.ldg.next = (lseqOf b + 2 + s.ldg.next) % 2 ^ 64))
              ∧ (macOk key (logPos (lseqOf b)) log = false ∨ log.take 24 ≠ b.take 24 → t.ldg.mismatch = true))))

/-- The newest valid head is a head whose MAC holds, and no other valid head has a higher LSEQ (R585). -/
def Obligations.NewestHeadIsNewest : Prop :=
  ∀ (key : List Byte) (heads : List (List Byte)),
    (∀ b, newestHead key heads = some b →
      (∃ k, heads[k]? = some b ∧ macOk key k b = true) ∧ ∀ k c, heads[k]? = some c → macOk key k c = true → lseqOf c ≤ lseqOf b)
    ∧ (newestHead key heads = none → ∀ k c, heads[k]? = some c → macOk key k c = false)

/-- HEADERS_READ: each slot that fails checks 1 to 5 has its code; the candidates load, highest VERSION first and A before B, after the request for the counter; with none the Gatehouse is FAILED (R561, R563, R573 to R575). -/
def Obligations.HeadersReadOutcome : Prop :=
  ∀ (s : State) (ha hb : List Byte), s.gate.st = .headers → ∃ t, exec (.headersRead ha hb) s = .next t
    ∧ (∀ c d, headerFail ha 1 = some (c, d) → t.gate.aReason = c) ∧ (headerFail ha 1 = none → t.gate.aReason = s.gate.aReason)
    ∧ (∀ c d, headerFail hb 1 = some (c, d) → t.gate.bReason = c) ∧ (headerFail hb 1 = none → t.gate.bReason = s.gate.bReason)
    ∧ (headerFail ha 1 = none → headerFail hb 1 = none →
        t.gate.cands = if field ha 12 4 < field hb 12 4 then [(1, field hb 8 4), (0, field ha 8 4)] else [(0, field ha 8 4), (1, field hb 8 4)])
    ∧ (headerFail ha 1 = none → (headerFail hb 1).isSome = true → t.gate.cands = [(0, field ha 8 4)])
    ∧ ((headerFail ha 1).isSome = true → headerFail hb 1 = none → t.gate.cands = [(1, field hb 8 4)])
    ∧ ((headerFail ha 1).isSome = true → (headerFail hb 1).isSome = true → t.gate.st = .failed ∧ t.gate.cands = [] ∧ t.kpOut = s.kpOut)
    ∧ (∀ slot len rest, t.gate.cands = (slot, len) :: rest →
        t.gate.st = .loading ∧ t.gate.slot = slot ∧ t.gate.first = slot ∧ t.gate.kpReq = some (2, s.aclk) ∧ t.kpOut = s.kpOut ++ [2])
    ∧ t.sun.hclk = 2000 ∧ t.hpt.lease = 512 ∧ t.arb.limit = 800 ∧ t.map = s.map ∧ t.phys = s.phys

/-- CANDIDATE_PASS locks the image, or waits for hrst_n in LOCK_WAIT; CANDIDATE_REJECT records the code and DETAIL of the first failing check, clears the configuration, and the next candidate loads or the Gatehouse is FAILED (R561, R573 to R576). -/
def Obligations.CandidateOutcome : Prop :=
  ∀ (s : State) (img : List Byte) (slot len : Nat) (rest : List (Nat × Nat)),
    s.gate.st = .loading → s.gate.kpReq = none → s.gate.cands = (slot, len) :: rest → (img.length = len ∨ s.gate.kpErr ≠ 0) →
    (s.candFail img = none → ∃ t, exec (.candidatePass img) s = .next t
        ∧ t.gate.version = field img 12 4 ∧ t.gate.key = none ∧ t.gate.slot = s.gate.slot ∧ t.map = s.map
        ∧ (s.hrstN = false → t.gate.st = .lockWait ∧ t.gate.locked = s.gate.locked ∧ t.phys = s.phys)
        ∧ (s.hrstN = true → lockedFrom s t ∧ t.gate.fallback = decide (s.gate.slot ≠ s.gate.first)))
      ∧ (∀ c d, s.candFail img = some (c, d) → ∃ t, exec (.candidateReject img) s = .next t
          ∧ (slot = 0 → t.gate.aReason = c ∧ t.gate.bReason = s.gate.bReason) ∧ (slot ≠ 0 → t.gate.bReason = c ∧ t.gate.aReason = s.gate.aReason)
          ∧ t.gate.bootDet = d ∧ t.gate.cands = rest ∧ t.sun.hclk = 2000 ∧ t.hpt.lease = 512 ∧ t.arb.limit = 800
          ∧ (∀ (n : Log) (q : Qn), (t.que n q).cfg = {}) ∧ t.map = s.map ∧ t.phys = s.phys
          ∧ (rest = [] → t.gate.st = .failed ∧ t.gate.key = none)
          ∧ (∀ slot' len' rest', rest = (slot', len') :: rest' →
              t.gate.st = .loading ∧ t.gate.slot = slot' ∧ t.gate.kpReq = some (2, s.aclk) ∧ t.kpOut = s.kpOut ++ [2]))

/-! ## The ledger -/

/-- Records that are posted together enter the queue with consecutive LSEQ and one TIME, or are lost and counted whole when they do not fit or the key failed; no other state changes (R580, R582, R584). The records of one aclk stand in plane order: control plane, data plane, management plane, and in a full queue those that stand behind a record of an earlier plane lose their place to it (R23). -/
def Obligations.PostingQueueTakesOrCounts : Prop :=
  ∀ (s : State) (rs : List LRec),
    (s.postAll rs) = { s with ldg := (s.postAll rs).ldg }
    ∧ (s.ldg.keyErr = true ∨ 64 + s.ldg.behind s.aclk ((rs.head?.map LRec.plane).getD 0) < s.ldg.queue.length + rs.length →
        (s.postAll rs).ldg.queue = s.ldg.queue ∧ (s.postAll rs).ldg.next = s.ldg.next
          ∧ (s.postAll rs).ldg.lostCnt = min 0xFFFFFFFF (s.ldg.lostCnt + rs.length))
    ∧ (s.ldg.keyErr = false → s.ldg.queue.length + rs.length ≤ 64 → (s.ldg.cur.isSome = true ∨ s.ldg.valid = false) →
        (∀ r ∈ s.ldg.cur.toList ++ s.ldg.queue, r.at_ ≠ some s.aclk) → rs.Pairwise (fun a b => a.plane ≤ b.plane) →
        ∃ new : List LRec, (s.postAll rs).ldg.queue = s.ldg.queue ++ new ∧ new.length = rs.length
          ∧ (∀ i r, new[i]? = some r → r.lseq = (s.ldg.next + i) % 2 ^ 64 ∧ r.time = (s.aclk / 100) % 2 ^ 32
              ∧ ∃ r0, rs[i]? = some r0 ∧ r.kind = r0.kind ∧ r.src = r0.src ∧ r.arg = r0.arg ∧ r.plane = r0.plane ∧ r.q = r0.q ∧ r.cont = r0.cont)
          ∧ (s.postAll rs).ldg.next = (s.ldg.next + rs.length) % 2 ^ 64 ∧ (s.postAll rs).ldg.lostCnt = s.ldg.lostCnt)
    ∧ (s.ldg.keyErr = false → s.ldg.queue.length + rs.length ≤ 64 → (s.ldg.cur.isSome = true ∨ s.ldg.valid = false) →
        ∀ old now : List LRec, s.ldg.cur.toList ++ s.ldg.queue = old ++ now → (∀ r ∈ now, r.at_ = some s.aclk) → (∀ r, old.getLast? = some r → r.at_ ≠ some s.aclk) →
        ∃ new : List LRec, (s.postAll rs).ldg.cur.toList ++ (s.postAll rs).ldg.queue = old ++ new ∧ new.length = now.length + rs.length
          ∧ (now.Pairwise (fun a b => a.plane ≤ b.plane) → new.Pairwise fun a b => a.plane ≤ b.plane)
          ∧ (∀ i r, new[i]? = some r → r.lseq = (((now.head?.map LRec.lseq).getD s.ldg.next) + i) % 2 ^ 64)
          ∧ (∀ r0 ∈ rs, ∃ r ∈ new, r.kind = r0.kind ∧ r.src = r0.src ∧ r.arg = r0.arg ∧ r.plane = r0.plane ∧ r.q = r0.q ∧ r.cont = r0.cont))
    ∧ (s.ldg.keyErr = false → s.ldg.queue.length ≤ 64 → 64 < s.ldg.queue.length + rs.length →
        s.ldg.queue.length + rs.length ≤ 64 + s.ldg.behind s.aclk ((rs.head?.map LRec.plane).getD 0) → (s.ldg.cur.isSome = true ∨ s.ldg.valid = false) →
        (∀ r ∈ s.ldg.queue, r.kind ≠ 0x3F) →
        (s.postAll rs).ldg.queue.length = 64 ∧ (s.postAll rs).ldg.lostCnt = min 0xFFFFFFFF (s.ldg.lostCnt + (s.ldg.queue.length + rs.length - 64))
          ∧ (∀ r0 ∈ rs, ∃ r ∈ (s.postAll rs).ldg.cur.toList ++ (s.postAll rs).ldg.queue, r.kind = r0.kind ∧ r.src = r0.src ∧ r.arg = r0.arg ∧ r.plane = r0.plane))

/-- A record is at its log position first, by the next aclk edge after the writer took it (the model's choice, log 12), and LEDGER_WRITE_COMPLETE puts it in its head slot, each with its MAC and each as one page program behind its write enable; the writer then takes the next record, unless a readback waits, and a LEDGER_LOST record joins the queue when records had been lost (R566, R579, R580, R583, R584). LDG_RDCTL_GO starts a readback of position LDG_RDPOS, and LDG_READBACK_DONE shows the raw bytes, between ledger writes only (R588, R589). -/
def Obligations.LedgerWritesAndReadback : Prop :=
  (∀ (s : State) (r : LRec) (key : List Byte), s.ldg.cur = some r → s.ldg.key = some key →
    let la := 0x400000 + 32 * (16 + r.lseq % 65520)
    let log := r.body ++ (hmac key (r.body ++ leBytes 4 (16 + r.lseq % 65520))).take 8
    let ha := 0x400000 + 32 * (r.lseq % 16)
    let head := r.body ++ (hmac key (r.body ++ leBytes 4 (r.lseq % 16))).take 8
    (∃ t, exec .ledgerWriteComplete s = .next t
      ∧ t.nvmOut = s.nvmOut ++ (if s.ldg.logged then [] else [(la, log)]) ++ [(ha, head)]
      ∧ t.spiOut = s.spiOut ++ (if s.ldg.logged then [] else s.gate.spiWrite la log) ++ s.gate.spiWrite ha head
      ∧ t.ldg.written = min 0xFFFFFFFF (s.ldg.written + 1) ∧ t.ldg.logged = false ∧ t = { s with nvmOut := t.nvmOut, spiOut := t.spiOut, ldg := t.ldg }
      ∧ (s.ldg.valid = true → s.ldg.keyErr = false → s.ldg.rdBusy = false → t.ldg.cur = s.ldg.queue.head?
          ∧ (s.ldg.lossN = 0 → t.ldg.queue = s.ldg.queue.tail ∧ t.ldg.next = s.ldg.next)
          ∧ (0 < s.ldg.lossN → s.ldg.queue ≠ [] → t.ldg.lossN = 0 ∧ t.ldg.next = (s.ldg.next + 1) % 2 ^ 64
              ∧ ∃ k, t.ldg.queue = s.ldg.queue.tail ++ [k] ∧ k.kind = 5 ∧ k.lseq = s.ldg.next ∧ k.arg = leBytes 4 s.ldg.lossN ++ leBytes 1 s.ldg.lossKind))
      ∧ (s.ldg.rdBusy = true → t.ldg.cur = none ∧ t.ldg.queue = s.ldg.queue))
    ∧ (s.porN = true → s.pending = [] → s.ldg.logged = false →
        ∃ t, step s = .next t ∧ t.nvmOut = s.nvmOut ++ [(la, log)] ∧ (s.spiOut ++ s.gate.spiWrite la log) <+: t.spiOut ∧ t.ldg.logged = true))
  ∧ (∀ (s : State) (r : Rqr), s.mgSecure r = true → s.ldg.rdBusy = false →
      exec (.ldgRdctlGo r) s = .next { s with ldg := { s.ldg with rdBusy := true, rdDone := false, rdAt := s.ldg.rdpos } })
  ∧ (∀ (s : State) (d : List Byte), s.ldg.rdBusy = true → d.length = 32 → s.ldg.cur = none → (s.ldg.queue = [] ∨ s.ldg.keyErr = true) →
      exec (.ldgReadbackDone d) s = .next { s with
        ldg := { s.ldg with rdBusy := false, rdDone := true, rd := d }
        spiOut := s.spiOut ++ [s.gate.spiRead (0x400000 + 32 * s.ldg.rdAt) 32] })
  ∧ (∀ (s : State) (d : List Byte), s.ldg.rdBusy = true → s.ldg.cur.isSome = true → exec (.ldgReadbackDone d) s = .next s)

/-- RECORD_INTERVAL_CLOSE: 100,000 aclk after it opened, an interval closes with one record that carries the details of its first event and its count (R708). -/
def Obligations.IntervalsCloseWithOneRecord : Prop :=
  (∀ (s : State) (n : Log) (o : Open), s.linkIvl[n] = some o → o.at_ + 100000 ≤ s.aclk →
    exec (.recordIntervalClose (.link n)) s = .next (State.postAll { s with linkIvl := s.linkIvl.set n none }
      [{ kind := 0x25, plane := 1, src := n.val, arg := leBytes 4 o.count }]))
  ∧ (∀ (s : State) (d : Dom) (o : Open), s.doms[d].rIvl = some o → o.at_ + 100000 ≤ s.aclk →
    exec (.recordIntervalClose (.region d)) s = .next (State.postAll { s with doms := s.doms.set d { s.doms[d] with rIvl := none } }
      [{ kind := 0x29, plane := 1, src := d.val, q := o.c, cont := true, arg := leBytes 7 o.a ++ leBytes 1 o.b },
        { kind := 0x3F, plane := 1, src := d.val, q := o.c, arg := leBytes 4 o.count ++ leBytes 1 o.d }]))
  ∧ (∀ (s : State) (d : Dom) (o : Open), s.doms[d].aIvl = some o → o.at_ + 100000 ≤ s.aclk →
    exec (.recordIntervalClose (.access d)) s = .next (State.postAll { s with doms := s.doms.set d { s.doms[d] with aIvl := none } }
      [{ kind := 7, plane := 2, src := d.val, arg := leBytes 4 o.a ++ leBytes 4 o.count }]))

/-! ## Management -/

/-- RC_READ returns the register's value; the RC fields clear on a secure read after lock and on no other, which returns the value before this aclk (`edge`) and leaves what the device counts in it; a refused read returns 0 and sets ACCESS_DENIED (R10, R11, R542, R543, R664, R684). -/
def Obligations.RcReadsReturnAndClear : Prop :=
  (∀ (s : State) (off : BitVec 20) (r : Rqr) (g : Reg), s.porN = true → regAt off = some g → s.mayRead r (some g) = true →
    ∃ t, exec (.rcRead off r) s = .next t
      ∧ (s.secure r = false ∨ s.gate.locked = false → t.mgRdata = s.whole.readVal r g ∧ t.edge = s.edge
          ∧ (s.gate.st ≠ .loading → s.whole.readVal r g = BitVec.ofNat 32 (s.whole.regVal r g) ∧ t = { s.capture g with mgRdata := t.mgRdata }))
      ∧ (s.secure r = true → s.gate.locked = true → s.gate.st ≠ .loading →
          t.mgRdata = BitVec.ofNat 32 ((s.held false).regVal r g)
          ∧ (g = .hptStray → t = { s with edge := { s.edge with hpt := { s.edge.hpt with stray := 0 } }, mgRdata := BitVec.ofNat 32 s.edge.hpt.stray })
          ∧ (g = .hptFenced → t = { s with edge := { s.edge with hpt := { s.edge.hpt with fenced := 0 } }, mgRdata := BitVec.ofNat 32 s.edge.hpt.fenced })
          ∧ (g = .sunMiss → t = { s with edge := { s.edge with sun := { s.edge.sun with misses := 0 } }, mgRdata := BitVec.ofNat 32 s.edge.sun.misses })
          ∧ (g = .arbStarveCnt → t = { s with edge := { s.edge with arb := { s.edge.arb with starveCnt := 0 } }, mgRdata := BitVec.ofNat 32 s.edge.arb.starveCnt })
          ∧ (g = .ldgLostcnt → t = { s with edge := { s.edge with ldg := { s.edge.ldg with lostCnt := 0 } }, mgRdata := BitVec.ofNat 32 s.edge.ldg.lostCnt })
          ∧ (∀ n x, g = .trl n x .acts → t.edge.lch[n].ins[x].acts = 0 ∧ t.lch = s.lch ∧ t.mgRdata = BitVec.ofNat 32 s.edge.lch[n].ins[x].acts)
          ∧ (∀ x, g = .ter x .takeovers → t.edge.ters[x] = { s.edge.ters[x] with takeovers := 0 } ∧ t.ters = s.ters ∧ t.mgRdata = BitVec.ofNat 32 s.edge.ters[x].takeovers)
          ∧ (∀ p off', g = .chn p off' .fcnt → s.hrstN = true → s.phys[p].st ≠ .quarantined →
              t.edge.phys[p] = { s.edge.phys[p] with faults := 0, cringFails := 0 } ∧ t.phys = s.phys)))
  ∧ (∀ (s : State) (off : BitVec 20) (r : Rqr), s.porN = true → s.mayRead r (regAt off) = false →
      ∃ t, exec (.rcRead off r) s = .next t ∧ t.mgRdata = 0 ∧ t.gate = { s.gate with denied := true } ∧ t.ldg = s.ldg ∧ t.hpt = s.hpt ∧ t.lch = s.lch ∧ t.edge = s.edge)

/-- SNAPSHOT_READ: the first register of a group captures the others, which a later read returns as captured (R665). -/
def Obligations.SnapshotReadsCapture : Prop :=
  ∀ (s : State) (r : Rqr), s.mgSecure r = true → s.gate.st ≠ .loading →
    (∃ t, exec (.snapshotRead 0x1008 r) s = .next t ∧ t.mgRdata = BitVec.ofNat 32 (s.ldg.next % 2 ^ 32)
      ∧ t = { s with ldg := { s.ldg with nextCap := some (s.ldg.next / 2 ^ 32) }, mgRdata := BitVec.ofNat 32 (s.ldg.next % 2 ^ 32) })
    ∧ (∀ v, s.ldg.nextCap = some v → exec (.snapshotRead 0x100C r) s = .next { s with mgRdata := BitVec.ofNat 32 v })
    ∧ (s.ldg.nextCap = none → exec (.snapshotRead 0x100C r) s = .next { s with mgRdata := BitVec.ofNat 32 (s.ldg.next / 2 ^ 32) })
    ∧ exec (.snapshotRead 0x1040 r) s = .next { s with ldg := { s.ldg with rdCap := some s.ldg.rd }, mgRdata := BitVec.ofNat 32 (field s.ldg.rd 0 4) }
    ∧ (∀ d, s.ldg.rdCap = some d → exec (.snapshotRead 0x1044 r) s = .next { s with mgRdata := BitVec.ofNat 32 (field d 4 4) })

/-- A register whose fields the image fixes at lock (RWL). -/
def isRwl (g : Reg) : Bool :=
  match g with
  | .ldgCfg | .arbCfg | .sunCfg | .sunCclk _ | .hptCfg => true
  | _ => false

/-- A register without a field that takes writes (R10). -/
def isRo (g : Reg) : Bool :=
  match g with
  | .glbId | .glbIrq | .ldgNextLo | .ldgLostcnt | .arbPreempt | .sunFrame | .sunMiss | .hptLock _ | .hptStray | .domRfault _ => true
  | .ter _ .takeovers | .trl _ _ .acts | .chn _ _ .fcnt => true
  | _ => false

/-- REGISTER_WRITE and RWL_WRITE_FAILED: a 1 clears a W1C bit that stood at the latest aclk edge (`edge`) and a 0 leaves it, and a set by the device in the same aclk prevails; a register without a field that takes writes keeps its value, and a write to one is refused after lock; an RWL field keeps its value and LOCKED_WRITE is set, except in FAILED, where a secure write whose values are all in range takes effect and any other is refused whole (R10, R11, R363, R395, R560, R681, R684). -/
def Obligations.RegisterWritesFollowTheirType : Prop :=
  (∀ (s : State) (v : Word) (r : Rqr), s.mgSecure r = true →
    exec (.registerWrite 0x8 v r) s = .next { s with edge := { s.edge with gate := { s.edge.gate with
      lockedWrite := s.edge.gate.lockedWrite && !v.getLsbD 1, denied := s.edge.gate.denied && !v.getLsbD 2
      unmapped := s.edge.gate.unmapped && !v.getLsbD 3 } } }
    ∧ (s.gate.lockedWrite = true → ∃ t, exec (.registerWrite 0x8 v r) s = .next t ∧ t.whole.gate.lockedWrite = true))
  ∧ (∀ (s : State) (v : Word) (r : Rqr), s.mgSecure r = true →
      exec (.registerWrite 0x3004 v r) s = .next { s with edge := { s.edge with sun := { s.edge.sun with
        miss := s.edge.sun.miss && !v.getLsbD 0, strideBound := s.edge.sun.strideBound && !v.getLsbD 1 } } })
  ∧ (∀ (s : State) (off : BitVec 20) (g : Reg) (v : Word) (r : Rqr), s.mgSecure r = true → regAt off = some g → isRo g = true →
      (s.gate.locked = false → exec (.registerWrite off v r) s = .next s)
      ∧ (s.gate.locked = true → ∃ t, exec (.registerWrite off v r) s = .next t
          ∧ (s.gate.mode = true → t.gate.denied = true ∧ t.ldg = s.ldg) ∧ (s.gate.mode = false → t.gate.lockedWrite = true)
          ∧ t.hpt = s.hpt ∧ t.sun = s.sun ∧ t.arb = s.arb ∧ t.lch = s.lch ∧ t.phys = s.phys ∧ t.map = s.map ∧ t.edge = s.edge))
  ∧ (∀ (s : State) (off : BitVec 20) (g : Reg) (v : Word) (r : Rqr), s.mgSecure r = true → regAt off = some g → isRwl g = true →
      (s.gate.locked = true ∨ s.gate.st ≠ .failed) →
      ∃ t, exec (.registerWrite off v r) s = .next t ∧ t.gate.lockedWrite = true
        ∧ t.ldg.irqEn = s.ldg.irqEn ∧ t.arb = s.arb ∧ t.sun = s.sun ∧ t.hpt = s.hpt ∧ t.lch = s.lch ∧ t.phys = s.phys ∧ t.map = s.map)
  ∧ (∀ (s : State) (v : Word) (r : Rqr) (c : Instr), s.mgSecure r = true → s.gate.locked = false → s.gate.st = .failed →
      c = .rwlWriteFailed 0x4000 v r ∨ c = .registerWrite 0x4000 v r →
      (16 ≤ (v.extractLsb' 0 10).toNat → (v.extractLsb' 0 10).toNat ≤ 512 →
        exec c s = .next { s with hpt := { s.hpt with lease := (v.extractLsb' 0 10).toNat } })
      ∧ ((v.extractLsb' 0 10).toNat < 16 ∨ 512 < (v.extractLsb' 0 10).toNat →
        ∃ t, exec c s = .next t ∧ t.hpt = s.hpt ∧ t.gate.lockedWrite = true ∧ t.ldg = s.ldg ∧ t.arb = s.arb ∧ t.sun = s.sun))

/-- QCTL_ENABLE and QCTL_DRAIN under SERVICEABLE by a secure requester at a channel that serves: a valid DISABLED queue in service becomes ACTIVE, a DRAINING one takes ENABLE_PENDING, an ACTIVE one becomes DRAINING; no other queue changes. Under ISOLATED the write is refused with LOCKED_WRITE (R46, R47, R137, R154). -/
def Obligations.QueueControlEnablesAndDrains : Prop :=
  (∀ (s : State) (p : Phys) (q : Qn) (r : Rqr) (n : Log), s.mgSecure r = true → s.gate.locked = true → s.gate.mode = true →
    s.logOf p = some n → s.phys[p].st.serves = true →
    (∃ t, exec (.qctlEnable p q r) s = .next t ∧ t = { s with lch := t.lch } ∧ sameOthers n s t ∧ sameSiblings n q s t
      ∧ ((s.que n q).st = .disabled → (s.que n q).cfg.valid = true → s.lch[n].oos = false → s.phys[p].st ≠ .draining → s.phys[p].toDrain = false →
          (t.que n q).st = .active ∧ (t.que n q).acc = (s.que n q).acc ∧ (t.que n q).fidx = (s.que n q).fidx ∧ (t.que n q).lastAcc = (s.que n q).lastAcc
            ∧ ((s.que n q).cfg.ring = true → (t.que n q).prd.out = true))
      ∧ ((s.que n q).st = .draining → t.que n q = { s.que n q with enp := true })
      ∧ ((s.que n q).st = .active ∨ (s.que n q).st = .halted → t.que n q = s.que n q))
    ∧ (∃ t, exec (.qctlDrain p q r) s = .next t ∧ t = { s with lch := t.lch, nextId := t.nextId } ∧ sameOthers n s t ∧ sameSiblings n q s t
      ∧ ((s.que n q).st = .active → t.que n q = { s.que n q with st := .draining, drainA := s.aclk, fetches := [], fltDet := false })
      ∧ ((s.que n q).st = .halted → (t.que n q).st = .draining)
      ∧ ((s.que n q).st = .disabled ∨ (s.que n q).st = .draining → t.que n q = s.que n q)))
  ∧ (∀ (s : State) (p : Phys) (q : Qn) (r : Rqr) (c : Instr), s.porN = true → s.gate.locked = true → s.gate.mode = false → c = .qctlEnable p q r ∨ c = .qctlDrain p q r →
      ∃ t, exec c s = .next t ∧ t.gate.lockedWrite = true ∧ t.lch = s.lch ∧ t.phys = s.phys ∧ t.map = s.map ∧ t.edge = s.edge)

/-- ARB_CLASS_WRITE by a secure requester: each field that agrees with its queue's reservation takes the written class; one that does not keeps its class and sets CLASS_REJECT; no queue of another register changes (R385 to R388). -/
def Obligations.ClassWritesKeepPromisesApart : Prop :=
  ∀ (s : State) (i : Fin 64) (v : Word) (r : Rqr), s.mgSecure r = true →
    ∃ t, exec (.arbClassWrite i v r) s = .next t
      ∧ (∀ (j : Fin 2) (q : Qn) (n : Log), n.val = 2 * i.val + j.val →
          let c := (v.extractLsb' (16 * j.val + 4 * q.val) 3).toNat
          let u := s.que n q
          (decide (s.arb.pmin ≤ c) = decide (0 < u.cfg.res) → t.que n q = { u with cls := c, clsWas := if c = u.cls then u.clsWas else some (u.cls, s.aclk) })
          ∧ (decide (s.arb.pmin ≤ c) ≠ decide (0 < u.cfg.res) → t.que n q = u ∧ (c ≠ u.cls → t.arb.classRej = true)))
      ∧ (∀ n : Log, n.val / 2 ≠ i.val → t.lch[n] = s.lch[n])
      ∧ t = { s with lch := t.lch, arb := t.arb, ldg := t.ldg } ∧ t.arb = { s.arb with classRej := t.arb.classRej }
      ∧ (s.arb.classRej = true → t.arb.classRej = true)

/-- An event on a line of terrace `x` at aclk `a` with generation `g` reaches every task input of the terrace that enables it, and no other input (R437, R438). -/
def lineReaches (x : Ter) (a g : Nat) (bit_ : Log → Option Nat) (s t : State) : Prop :=
  ∀ (m : Log) (i : Fin 4), (t.tin m i) = { s.tin m i with
    contrib := (s.tin m i).contrib ++ (if terL m = x then match bit_ m with
      | some b => if (s.tin m i).mask.getLsbD b then [(a, b, g)] else []
      | none => []
    else []) }

/-- The pins, the map and the queues of the other logical channels stay. -/
def sameOuts (n : Log) (s t : State) : Prop := t.map = s.map ∧ t.fence = s.fence ∧ t.phys = s.phys ∧ ∀ m : Log, m ≠ n → t.lch[m].qs = s.lch[m].qs

/-- EVENT_OUTPUT raises the oldest event of an output's backlog, once in an aclk and first in the aclk after its condition came to hold, and TER_BCAST_PULSE an event of generation 0 on the broadcast line in the next aclk; each reaches every task input of the terrace that enables it (R430, R437, R438, R444, R452). -/
def Obligations.EventsReachEnabledInputs : Prop :=
  (∀ (s : State) (n : Log) (e : Fin 4) (g : Evt) (rest : List Evt), s.runs n = true → s.tap.drives = false → s.lch[n].outs[e] = g :: rest →
    s.lch[n].outA[e] ≠ some s.aclk → g.at_ < s.aclk → rest.length < 63 → ∃ t, exec (.eventOutput n e) s = .next t
      ∧ t = { s with lch := t.lch, evOut := s.evOut ++ [(n, e, g.gen)] } ∧ t.lch[n].outs[e] = rest ∧ t.lch[n].outA[e] = some s.aclk
      ∧ (∀ m : Log, t.lch[m].qs = s.lch[m].qs)
      ∧ lineReaches (terL n) s.aclk g.gen (enableBit n e) s t)
  ∧ (∀ (s : State) (n : Log) (e : Fin 4) (g : Evt) (rest : List Evt), s.runs n = true → s.tap.drives = false → s.lch[n].outs[e] = g :: rest →
    (s.lch[n].outA[e] = some s.aclk ∨ s.aclk ≤ g.at_ → exec (.eventOutput n e) s = .next s)
    ∧ (s.lch[n].outA[e] ≠ some s.aclk → g.at_ < s.aclk → ∃ t, exec (.eventOutput n e) s = .next t
        ∧ t.evOut = s.evOut ++ [(n, e, g.gen)] ∧ t.lch[n].outA[e] = some s.aclk ∧ rest.length ≤ t.lch[n].outs[e].length ∧ sameOuts n s t))
  ∧ (∀ (s : State) (x : Ter) (r : Rqr), s.mgSecure r = true → ∃ t, exec (.terBcastPulse x r) s = .next t
      ∧ t = { s with lch := t.lch } ∧ (∀ m : Log, t.lch[m].qs = s.lch[m].qs ∧ t.lch[m].outs = s.lch[m].outs)
      ∧ lineReaches x (s.aclk + 1) 0 (fun _ => some 47) s t)

/-! ## In-service change -/

/-- The service command of OP `op` (R657). -/
def svcCmd (op : Nat) (t : Ter) (all : Bool) (k : Fin 32) (r : Rqr) : Instr :=
  match op with
  | 1 => .out t all k r
  | 2 => .ret t all k r
  | 3 => .swap t k r
  | 4 => .reset t k r
  | 5 => .stest t k r
  | _ => .reclaim t k r

/-- The command was not accepted: TER_SVCSTAT alone changes, and a record is posted (R641, R656, R658). -/
def svcRefused (t : Ter) (op : Nat) (k : Fin 32) (code : Nat) (s u : State) : Prop :=
  u.ters[t] = { s.ters[t] with op := op, target := k.val, sfail := true, result := code } ∧ (∀ x : Ter, x ≠ t → u.ters[x] = s.ters[x])
    ∧ u = { s with ters := u.ters, free := s.free + 1, ldg := u.ldg }

/-- OUT of a channel that runs begins its drain for removal: the channel and its ACTIVE and HALTED_FAULT queues are DRAINING. RETURN of a channel out of service begins its restore; of a channel that drains it sets ENABLE_PENDING, also while OUT runs; of one in service it is done at once. With ALL they name each channel of the terrace in service, or out of service; with none there they are done (R141, R145, R642, R645, R654). -/
def Obligations.OutAndReturnBegin : Prop :=
  (∀ (s : State) (t : Ter) (r : Rqr) (i : Fin 16) (k : Fin 32) (n : Log) (p : Phys),
    s.svcFree t r = true → k.val = i.val → n = logAt t i → s.map[n] = some p →
    (s.phys[p].st = .active → s.phys[p].entry = 0 → s.lch[n].oos = false → ∃ u, exec (.out t false k r) s = .next u
        ∧ u.phys[p].st = .draining ∧ u.lch[n].drain = true ∧ u.lch[n].outReq = some (s.aclk, false)
        ∧ (∀ q : Qn, (s.que n q).st ≠ .disabled → (u.que n q).st = .draining) ∧ (∀ q : Qn, (s.que n q).st = .disabled → (u.que n q).st = .disabled)
        ∧ (u.ters[t].cmd.map fun c => (c.op, c.logs)) = some (1, [n.val]) ∧ u.map = s.map ∧ u.fence = s.fence
        ∧ sameOthers n s u ∧ samePhys p s u ∧ u.gate = s.gate)
      ∧ (s.phys[p].st = .off → s.lch[n].oos = true → ∃ u, exec (.ret t false k r) s = .next u
          ∧ u.phys[p].st = .waking ∧ u.phys[p].wakeFor = .off ∧ u.phys[p].scrub = true
          ∧ (u.ters[t].cmd.map fun c => (c.op, c.logs)) = some (2, [n.val]) ∧ u.lch = s.lch ∧ u.map = s.map ∧ u.fence = s.fence
          ∧ samePhys p s u ∧ u.gate = s.gate)
      ∧ (s.phys[p].st = .draining → s.lch[n].oos = false → ∃ u, exec (.ret t false k r) s = .next u
          ∧ u.phys[p] = { s.phys[p] with chEnp := true } ∧ u.ters[t].sdone = true ∧ u.lch[n] = { s.lch[n] with retReq := some ⟨s.aclk, s.ters[t].sdone, s.phys[p].chEnp⟩ }
          ∧ sameOthers n s u ∧ u.map = s.map ∧ samePhys p s u)
      ∧ (s.phys[p].st = .dormant → s.lch[n].oos = false → ∃ u, exec (.out t false k r) s = .next u
          ∧ u.phys[p].st = .waking ∧ u.phys[p].toDrain = true ∧ u.phys[p].wakeA = some s.aclk ∧ (u.ters[t].cmd.map fun c => (c.op, c.logs)) = some (1, [n.val])
          ∧ (∀ q : Qn, u.que n q = s.que n q) ∧ u.map = s.map ∧ sameOthers n s u ∧ samePhys p s u)
      ∧ (s.phys[p].st = .waking → s.lch[n].oos = false → ∃ u, exec (.out t false k r) s = .next u
          ∧ u.phys[p] = { s.phys[p] with toDrain := true } ∧ (u.ters[t].cmd.map fun c => (c.op, c.logs)) = some (1, [n.val])
          ∧ (∀ q : Qn, u.que n q = s.que n q) ∧ u.map = s.map ∧ sameOthers n s u ∧ samePhys p s u)
      ∧ (s.phys[p].st = .active → s.phys[p].entry ≠ 0 → s.lch[n].oos = false → ∃ u, exec (.out t false k r) s = .next u
          ∧ (u.phys[p].st = .draining ∨ u.phys[p].toDrain = true) ∧ (u.ters[t].cmd.map fun c => (c.op, c.logs)) = some (1, [n.val])
          ∧ u.map = s.map ∧ sameOthers n s u ∧ samePhys p s u)
      ∧ (s.phys[p].st = .active ∨ s.phys[p].st = .waking ∨ s.phys[p].st = .dormant → s.lch[n].oos = false → ∃ u, exec (.ret t false k r) s = .next u
          ∧ u.phys = s.phys ∧ u.ters[t].sdone = true ∧ u.ters[t].result = 0 ∧ u.ters[t].cmd = none ∧ (∀ q : Qn, u.que n q = s.que n q)
          ∧ sameOthers n s u ∧ u.map = s.map))
  ∧ (∀ (s : State) (t : Ter) (r : Rqr) (k : Fin 32), s.svcFree t r = true → s.spared →
    let go := (logsOf t).filter fun n => (s.servP n).isSome && !s.lch[n].oos
    let back := (logsOf t).filter fun n => s.lch[n].oos
    (go = [] → ∃ u, exec (.out t true k r) s = .next u ∧ u.ters[t].sdone = true ∧ u.ters[t].result = 0 ∧ u.ters[t].cmd = none ∧ u = { s with ters := u.ters })
      ∧ (go ≠ [] → ∃ u, exec (.out t true k r) s = .next u ∧ (u.ters[t].cmd.map fun c => (c.op, c.logs)) = some (1, go.map fun n => n.val) ∧ u.map = s.map
          ∧ (∀ n ∈ go, u.lch[n].outReq = some (s.aclk, true) ∧ ∀ p : Phys, s.map[n] = some p → s.phys[p].st = .active → s.phys[p].entry = 0 →
              u.phys[p].st = .draining ∧ u.lch[n].drain = true)
          ∧ (∀ n : Log, n ∉ go → u.lch[n] = s.lch[n]))
      ∧ (back = [] → ∃ u, exec (.ret t true k r) s = .next u ∧ u.ters[t].sdone = true ∧ u.ters[t].result = 0 ∧ u.ters[t].cmd = none ∧ u.map = s.map
          ∧ (∀ (n : Log) (q : Qn), u.que n q = s.que n q))
      ∧ (back ≠ [] → ∃ u, exec (.ret t true k r) s = .next u ∧ (u.ters[t].cmd.map fun c => (c.op, c.logs)) = some (2, back.map fun n => n.val) ∧ u.map = s.map
          ∧ (∀ n ∈ back, ∀ p : Phys, s.map[n] = some p → s.phys[p].st = .off → u.phys[p].st = .waking ∧ u.phys[p].wakeFor = .off ∧ u.phys[p].scrub = true)
          ∧ (∀ (n : Log) (q : Qn), u.que n q = s.que n q)))
  ∧ (∀ (s : State) (t : Ter) (r : Rqr) (i : Fin 16) (k : Fin 32) (n : Log) (p : Phys) (c : SvcCmd), s.mgSecure r = true → s.gate.locked = true → s.gate.mode = true →
    s.svc.busy = false → s.ters[t].busy = false → s.ters[t].tko = none → s.ters[t].cmd = some c → c.op = 1 → k.val = i.val → n = logAt t i → s.map[n] = some p →
    s.phys[p].st = .draining → ∃ u, exec (.ret t false k r) s = .next u ∧ u.phys[p] = { s.phys[p] with chEnp := true } ∧ samePhys p s u
      ∧ u.ters[t] = { s.ters[t] with op := 2, target := k.val, sdone := true, result := 0 } ∧ (∀ q : Qn, u.que n q = s.que n q) ∧ sameOthers n s u ∧ u.map = s.map)

/-- SWAP of a channel out of service aims the terrace's reserve at it, and without a reserve it fails with NO_RESERVE; RESET of a channel in service resets it: WAKING, to be scrubbed, its incarnation advanced. A command that is not accepted changes TER_SVCSTAT alone, with the code of what refuses it: rights, a takeover of its aclk, a terrace that is busy, a load, or a state or target that the command does not take; whoever has the rights of R543 commands as the secure domain does (R47, R49, R143, R641, R646, R648, R654, R658). -/
def Obligations.SwapAndResetBegin : Prop :=
  (∀ (s : State) (t : Ter) (r : Rqr) (i : Fin 16) (k : Fin 32) (n : Log), s.svcFree t r = true → k.val = i.val → n = logAt t i →
    (∀ p : Phys, s.lch[n].oos = true → s.ters[t].reserve = some p → ∃ u, exec (.swap t k r) s = .next u
        ∧ (u.ters[t].tko.map fun x => (x.log, x.new, x.swap, x.oos)) = some (n, p, true, true) ∧ u.ters[t].busy = true
        ∧ (u.ters[t].cmd.map fun c => (c.op, c.logs)) = some (3, [n.val])
        ∧ u.map = s.map ∧ u.lch = s.lch ∧ u.phys = s.phys ∧ u.fence = s.fence ∧ u.gate = s.gate)
      ∧ (s.lch[n].oos = true → s.ters[t].reserve = none → ∃ u, exec (.swap t k r) s = .next u
          ∧ u.ters[t].sfail = true ∧ u.ters[t].result = 5 ∧ u.ters[t].cmd = none ∧ u.map = s.map ∧ u.lch = s.lch ∧ u.phys = s.phys)
      ∧ (∀ p : Phys, s.servP n = some p → s.lch[n].oos = false → ∃ u, exec (.reset t k r) s = .next u
          ∧ u.phys[p].st = .waking ∧ u.phys[p].wakeFor = .reset ∧ u.phys[p].scrub = true ∧ u.phys[p].pend = []
          ∧ u.inc n = (s.inc n + 1) % 16 ∧ (∀ m : Log, m ≠ n → u.inc m = s.inc m)
          ∧ (∀ q : Qn, (u.que n q).st = (s.que n q).st ∧ (u.que n q).lastAcc = (s.que n q).lastAcc ∧ (u.que n q).kicks = (s.que n q).kicks)
          ∧ (u.ters[t].cmd.map fun c => (c.op, c.logs)) = some (4, [n.val]) ∧ u.map = s.map ∧ sameOthers n s u ∧ samePhys p s u)
      ∧ (s.map[n] = none → ∀ p : Phys, s.ters[t].reserve = some p → ∃ u, exec (.swap t k r) s = .next u
          ∧ (u.ters[t].tko.map fun x => (x.log, x.new, x.swap)) = some (n, p, true) ∧ u.ters[t].busy = true
          ∧ (u.ters[t].cmd.map fun c => (c.op, c.logs)) = some (3, [n.val]) ∧ u.map = s.map ∧ u.lch = s.lch ∧ u.phys = s.phys))
  ∧ (∀ (s : State) (t : Ter) (r : Rqr) (i : Fin 16) (k : Fin 32) (n : Log) (op code : Nat), s.svcFree t r = true → k.val = i.val → n = logAt t i →
    (op = 1 ∧ code = 2 ∧ (s.servP n = none ∨ s.lch[n].oos = true)) ∨ (op = 2 ∧ code = 2 ∧ s.map[n] = none)
      ∨ (op = 3 ∧ code = 2 ∧ s.lch[n].oos = false ∧ s.map[n].isSome = true)
      ∨ (op = 3 ∧ code = 5 ∧ (s.lch[n].oos = true ∨ s.map[n] = none) ∧ s.ters[t].reserve = none)
      ∨ (op = 4 ∧ code = 2 ∧ (s.servP n = none ∨ s.lch[n].oos = true)) →
    ∃ u, exec (svcCmd op t false k r) s = .next u ∧ svcRefused t op k code s u)
  ∧ (∀ (s : State) (t : Ter) (r : Rqr) (k : Fin 32) (op : Nat) (all : Bool), s.porN = true → 1 ≤ op → op ≤ 6 → (3 ≤ op → all = false) →
    let c := svcCmd op t all k r
    let ls := if op ≤ 4 then namedBy t op all k.val else []
    (s.gate.locked = false → (s.secure r = true → ∃ u, exec c s = .next u ∧ svcRefused t op k 1 s u)
        ∧ (s.secure r = false → ∃ u, exec c s = .next u ∧ u.gate.denied = true ∧ u.ters = s.ters ∧ u.lch = s.lch ∧ u.phys = s.phys ∧ u.map = s.map))
      ∧ (s.gate.locked = true → s.gate.mode = false → ∃ u, exec c s = .next u ∧ u.gate.lockedWrite = true ∧ u.ters = s.ters ∧ u.lch = s.lch ∧ u.phys = s.phys ∧ u.map = s.map)
      ∧ (s.gate.locked = true → s.gate.mode = true → s.secure r = false → 5 ≤ op ∨ s.right r DomSt.svc = false → ∃ u, exec c s = .next u ∧ u.gate.denied = true
          ∧ u.ters[t] = { s.ters[t] with op := op, target := k.val, sfail := true, result := 1 } ∧ u.lch = s.lch ∧ u.phys = s.phys ∧ u.map = s.map)
      ∧ (s.gate.locked = true → s.gate.mode = true → op ≤ 4 → s.mayServe r ls = true → ∀ r' : Rqr, s.secure r' = true → exec c s = exec (svcCmd op t all k r') s)
      ∧ (s.gate.locked = true → s.gate.mode = true → s.secure r = true →
          (∀ x, s.ters[t].tko = some x → x.swap = false → x.at_ = s.aclk → x.log ∈ ls → ∃ u, exec c s = .next u ∧ svcRefused t op k 4 s u)
          ∧ ((∀ x, s.ters[t].tko = some x → x.swap = true ∨ x.at_ ≠ s.aclk ∨ x.log ∉ ls) →
            (s.ters[t].busy = true ∨ (∃ x, s.ters[t].cmd = some x ∧ (op ≠ 2 ∨ x.op ≠ 1)) → ∃ u, exec c s = .next u ∧ svcRefused t op k 3 s u)
            ∧ (s.ters[t].busy = false → s.ters[t].cmd = none → s.svc.busy = true → (∃ n ∈ ls, n.val ∈ s.svc.named) → ∃ u, exec c s = .next u ∧ svcRefused t op k 6 s u)))
      ∧ (s.svcFree t r = true → all = false → (op ≤ 4 → 16 ≤ k.val) → 17 ≤ k.val ∨ op ≤ 4 → ∃ u, exec c s = .next u ∧ svcRefused t op k 2 s u))

/-- STEST of a QUARANTINED channel runs; STEST_COMPLETE sets its TER_STEST bit and DONE on a pass, and clears the bit with TEST_FAIL otherwise; RECLAIM of a tested channel in a terrace without a reserve scrubs its store first; of another it is refused with STATE, NOT_TESTED or RESERVE_HELD (R652, R653, R658). -/
def Obligations.SelfTestAndReclaimBegin : Prop :=
  ∀ (s : State) (t : Ter) (r : Rqr) (i : Fin 17) (k : Fin 32) (p : Phys), k.val = i.val → p = physAt t i →
    (s.svcFree t r = true → s.phys[p].st = .quarantined → ∃ u, exec (.stest t k r) s = .next u
        ∧ (u.ters[t].cmd.map fun c => (c.op, c.phys)) = some (5, p.val) ∧ u.ters[t].stopped = false
        ∧ u = { s with ters := u.ters } ∧ (∀ x : Ter, x ≠ t → u.ters[x] = s.ters[x]) ∧ u.ters[t].reserve = s.ters[t].reserve)
      ∧ (∀ c : SvcCmd, s.ters[t].cmd = some c → c.op = 5 → c.phys = p.val →
          (∃ u, exec (.stestComplete t true) s = .next u ∧ u.ters[t].stest.getLsbD i.val = true ∧ u.ters[t].sdone = true ∧ u.ters[t].cmd = none
            ∧ u.phys[p] = { s.phys[p] with scrub := false, scrubbed := true, kept := none } ∧ samePhys p s u ∧ u = { s with ters := u.ters, phys := u.phys })
          ∧ (∃ u, exec (.stestComplete t false) s = .next u ∧ u.ters[t].stest.getLsbD i.val = false ∧ u.ters[t].sfail = true
            ∧ u.ters[t].result = 9 ∧ u.ters[t].cmd = none ∧ u = { s with ters := u.ters }))
      ∧ (s.svcFree t r = true → s.phys[p].st = .quarantined → s.ters[t].stest.getLsbD i.val = true → s.ters[t].reserve = none →
          ∃ u, exec (.reclaim t k r) s = .next u ∧ u.phys[p] = { s.phys[p] with scrub := true }
            ∧ (u.ters[t].cmd.map fun c => (c.op, c.phys)) = some (6, p.val) ∧ samePhys p s u ∧ u = { s with ters := u.ters, phys := u.phys })
      ∧ (s.svcFree t r = true → s.phys[p].st ≠ .quarantined →
          (∃ u, exec (.stest t k r) s = .next u ∧ svcRefused t 5 k 2 s u) ∧ (∃ u, exec (.reclaim t k r) s = .next u ∧ svcRefused t 6 k 2 s u))
      ∧ (s.svcFree t r = true → s.phys[p].st = .quarantined → s.ters[t].stest.getLsbD i.val = false → ∃ u, exec (.reclaim t k r) s = .next u ∧ svcRefused t 6 k 7 s u)
      ∧ (s.svcFree t r = true → s.phys[p].st = .quarantined → s.ters[t].stest.getLsbD i.val = true → s.ters[t].reserve.isSome = true →
          ∃ u, exec (.reclaim t k r) s = .next u ∧ svcRefused t 6 k 8 s u)

/-- SERVICE_LOAD_GO under a locked image with SVC_PATH, at a good address and header and with the rights, makes the load busy and requests the counter; SERVICE_LOAD_END finishes it: a failing check leaves the configuration as it was and reports its code, and a pass writes the named channels and reports DONE (R563, R614, R649, R660). -/
def Obligations.ServiceLoadsRunAndEnd : Prop :=
  (∀ (s : State) (hdr : List Byte) (r : Rqr), s.mgSecure r = true → s.gate.locked = true → s.gate.mode = true → s.gate.svcPath = true →
    s.svc.busy = false → 0x200000 ≤ s.svc.addr → s.svc.addr ≤ 0x3FFFC0 → headerFail hdr 2 = none → s.svc.addr + field hdr 8 4 ≤ 0x400000 →
    ∃ t, exec (.serviceLoadGo hdr r) s = .next t ∧ t.svc.busy = true ∧ t.svc.named = lmask hdr ∧ t.svc.len = field hdr 8 4
      ∧ t.gate = { s.gate with key := none, kpErr := 0, kpReq := some (2, s.aclk) } ∧ t.kpOut = s.kpOut ++ [2]
      ∧ t = { s with svc := t.svc, gate := t.gate, kpOut := t.kpOut, spiOut := t.spiOut })
  ∧ (∀ (s : State) (img : List Byte), s.svc.busy = true → s.gate.kpReq = none → (img.length = s.svc.len ∨ s.gate.kpErr ≠ 0) →
      (img = [] ∨ s.svc.len ≤ s.svc.pos ∨ s.ldg.idle = true) →
      (∀ c d, s.loadFail img = some (c, d) → ∃ t, exec (.serviceLoadEnd img) s = .next t
        ∧ t.svc.busy = false ∧ t.svc.fail = true ∧ t.svc.code = c ∧ t.svc.det = d ∧ t.gate = { s.gate with key := none }
        ∧ t = { s with svc := t.svc, gate := t.gate, ldg := t.ldg, spiOut := t.spiOut })
      ∧ (s.loadFail img = none → ∃ t, exec (.serviceLoadEnd img) s = .next t
        ∧ t.svc.busy = false ∧ t.svc.done = true ∧ t.svc.fail = s.svc.fail
        ∧ (∀ m : Log, m.val ∉ lmask img → (∀ x ∈ sections img, x.inst % 128 ≠ m.val) → t.lch[m] = s.lch[m])
        ∧ (∀ m : Log, m.val ∈ lmask img → t.lch[m].reloaded = true ∧ ∀ q : Qn, (t.que m q).lastAcc = 0xFFFF ∧ (t.que m q).rcnt = 0 ∧ (t.que m q).fidx = 0)
        ∧ t.map = s.map ∧ t.phys = s.phys ∧ t.fence = s.fence ∧ t.ters = s.ters))

/-! ## The link -/

/-- The NAK reason that R705 gives a CMD with SEQ `seq` and `k` payload words whose fault is `f`, by the first of rows 2 to 10 that applies; rows 1, 6, 11 and 12 give none. -/
def nakRow (u : Que) (f : CmdFault) (seq k : Nat) : Option Nat :=
  if f = .parity then some 3
  else if f = .format ∨ f = .sop then some 4
  else if u.st = .disabled ∨ u.cfg.ring = true then some 8
  else if u.cfg.stream = false ∧ u.wordCr < k then some 7
  else if seqAfter seq u.lastAcc = false then none
  else if u.st = .draining then some 9
  else if u.st = .halted then some 5
  else if seq ≠ (u.lastAcc + 1) % 65536 then some 2
  else if u.cfg.window < (seq + 65536 - u.lastRet) % 65536 ∨ 16 ≤ u.subs then some 6
  else none

/-- A CMD whose PAY_BYTES exceed 8,192 has a format error (R59), and that is how `nakRow` takes it. A CMD that a row of R705 refuses is answered with that row's NAK; its queue enters the discard state and accepts nothing; so is one that the Sundial refuses, with NAK BUSY and the wait until the queue's horizon, at most 65,535 aclk. A CMD that the discard state drops has no answer (R73, R414, R415, R705). -/
def Obligations.RefusedCommandsAreAnswered : Prop :=
  ∀ (s : State) (n : Log) (p : Phys) (c : CmdPkt), s.linked n p = true →
    let u := s.que n c.queue
    (∀ reason, u.drops c.seq.toNat = false → nakRow u (framing c) c.seq.toNat (ceilDiv c.payload.length 64) = some reason →
      ∃ t, exec (.cmd n c) s = .next t
        ∧ (n, .nak c.queue c.seq.toNat reason 0 ((u.lastAcc + 1) % 65536)) ∈ t.linkOut
        ∧ (t.que n c.queue).discard = some c.seq.toNat ∧ (t.que n c.queue).acc = u.acc ∧ (t.que n c.queue).lastAcc = u.lastAcc
        ∧ (t.que n c.queue).link = u.link ∧ channelFrame n c.queue p s t)
    ∧ (u.drops c.seq.toNat = true → ∃ t, exec (.cmd n c) s = .next t
        ∧ (t.que n c.queue).discard = u.discard ∧ (t.que n c.queue).acc = u.acc ∧ (t.que n c.queue).lastAcc = u.lastAcc
        ∧ (∀ k ∈ t.linkOut.drop s.linkOut.length, ∃ inc, k = (n, .credit c.queue inc)) ∧ channelFrame n c.queue p s t)
    ∧ (let d : Desc := c.desc
      u.drops c.seq.toNat = false → nakRow u (framing c) c.seq.toNat (ceilDiv c.payload.length 64) = none → seqAfter c.seq.toNat u.lastAcc = true → 0 < u.cfg.res →
      (∀ gap : Bool, gap = false ∨ u.cfg.stream = true → descFail c.desc c.descPsn (u.dctx c.payload.length true gap) = none) →
      d.op ≠ 0x38 → d.hold = false → d.fence = false → d.isParterre = false → recordOnly d none = false →
      (∀ x ∈ u.acc, x.runs = true → x.begun = false → x.startKind = false) → s.aclk < u.f →
      ∃ t, exec (.cmd n c) s = .next t
        ∧ (n, .nak c.queue c.seq.toNat 1 (min (u.f - s.aclk) 65535) ((u.lastAcc + 1) % 65536)) ∈ t.linkOut
        ∧ t.sun = { s.sun with refuse := min 0xFFFFFFFF (s.sun.refuse + 1), strideBound := s.sun.strideBound || strideBound d }
        ∧ (t.que n c.queue).discard = some c.seq.toNat ∧ (t.que n c.queue).acc = u.acc ∧ (t.que n c.queue).lastAcc = u.lastAcc
        ∧ (t.que n c.queue).link = u.link ∧ channelFrame n c.queue p s t)

/-- A CMD that no row refuses is accepted when the Sundial accepts it, which it always does on a queue without a promise, behind a free horizon, and for a descriptor that fails its checks, is anchored at its start or only writes a record: it is the queue's last accepted SEQ, the descriptor stands in the queue, and ACK ACCEPTED leaves (R68, R414, R705). -/
def Obligations.AdmittedCommandsAreAccepted : Prop :=
  ∀ (s : State) (n : Log) (p : Phys) (c : CmdPkt), s.linked n p = true →
    let q := c.queue
    let u := s.que n q
    u.drops c.seq.toNat = false → nakRow u (framing c) c.seq.toNat (ceilDiv c.payload.length 64) = none → seqAfter c.seq.toNat u.lastAcc = true →
    (u.cfg.res = 0 ∨ ((descFail c.desc c.descPsn (u.dctx c.payload.length true false)).isSome = true ∧ u.cfg.stream = false) ∨ u.f ≤ s.aclk
        ∨ Desc.op c.desc = 0x38 ∨ Desc.hold c.desc = true ∨ Desc.fence c.desc = true ∨ Desc.isParterre c.desc = true ∨ recordOnly c.desc none = true
        ∨ ((∀ x ∈ u.acc, x.id < s.nextId) ∧ (u.acc.any fun x => x.runs && !x.begun && x.startKind) = true)) →
      ∃ t, exec (.cmd n c) s = .next t ∧ (t.que n q).lastAcc = c.seq.toNat ∧ (t.que n q).discard = none
        ∧ (∃ a ∈ (t.que n q).acc, a.seq = c.seq.toNat ∧ a.bytes = c.desc ∧ a.origin = .cmd ∧ a.stage = .accepted
            ∧ a.id = s.nextId + if u.cfg.stream then 1 else 0)
        ∧ (t.que n q).acc.length = u.acc.length + 1 ∧ (t.que n q).st = u.st ∧ (t.que n q).recs = u.recs
        ∧ (n, .ack q c.seq.toNat 0) ∈ t.linkOut ∧ channelFrame n q p s t

/-- DELIVER_IN on a CREDITED queue: the words within the credit enter the link FIFO behind what it holds, each with its poison and with the poison of a parity error of its store word, the credit falls by them, words beyond it are a link error, and the data path then runs; a parity error of the store is counted in area 5 (R62, R105, R303, R319, R326, R331). One whose PAY_BYTES exceed 8,192 is a format error and brings no word (R59, R105). -/
def Obligations.DeliveredWordsEnterTheFifo : Prop :=
  ∀ (s : State) (n : Log) (p : Phys) (q : Qn) (payload : List Byte) (psn : List Bool) (par : Nat) (final : Bool) (upset : List Nat),
    s.linked n p = true → s.lch[n].lastPend = false →
    (8192 < payload.length → ∃ t, exec (.deliverIn n q payload psn par final upset) s = .next t ∧ t.phys[p].c.lkind = 5
      ∧ (∀ r : Qn, (t.que n r).link = (s.que n r).link ∧ (t.que n r).wordCr = (s.que n r).wordCr) ∧ t.linkOut = s.linkOut ∧ sameOthers n s t)
    ∧ (payload.length ≤ 8192 → (s.que n q).cfg.stream = false → (s.que n q).dropPkt = false →
    let ws := wordsOf payload psn upset
    let bad := upset.countP (· < ws.length)
    let k := min ws.length (s.que n q).wordCr
    ∃ v, exec (.deliverIn n q payload psn par final upset) s = .next (v.flow n q)
      ∧ (v.que n q).link = (s.que n q).link ++ ws.take k ++ [.eop final] ∧ ws.length = ceilDiv payload.length 64
      ∧ (∀ i, i < ws.length → ws[i]? = some (.word ((payload.drop (64 * i)).take 64) (psn.getD i false || upset.contains i)))
      ∧ (v.que n q).wordCr = (s.que n q).wordCr - k
      ∧ (v.que n q).acc.map Acc.id = (s.que n q).acc.map Acc.id
      ∧ (par = 0 → ws.length ≤ (s.que n q).wordCr → v.phys[p].c.lerrs = s.phys[p].c.lerrs)
      ∧ ((s.que n q).wordCr < ws.length → v.phys[p].c.lkind = 15)
      ∧ (0 < bad → v.phys[p].c.parErr = min 0xFFFF (s.phys[p].c.parErr + bad) ∧ v.phys[p].c.lastArea = 5)
      ∧ channelFrame n q p s v ∧ v.linkOut = s.linkOut)

/-- Under STREAM flow no word is lost uncounted: the words kept and the words dropped are the words that came, the markers count those dropped, and the FIFO never holds more words than its area, one marker in a full area apart; words that a standing newest marker counts take no word of it (R320, R321). -/
def Obligations.StreamFifoCountsWhatItDrops : Prop :=
  ∀ (ws : List (LEnt × Bool)) (l : List LEnt) (free : Nat) (old : Option Nat) (new : Nat), (∀ w ∈ ws, ∃ b p, w.1 = .word b p) →
    let r := streamIn ws l free old new
    payWords r.1 + r.2.1 = payWords l + ws.length
      ∧ (inputWords l + ws.length ≤ 0xFFFFFFFF → inputWords r.1 = inputWords l + ws.length)
      ∧ entryWords r.1 ≤ entryWords l + max free 1
      ∧ (ws.length < free → r = (l ++ ws.map Prod.fst, 0, if ws = [] then old else none))
      ∧ (free ≤ 1 → r.2.1 = ws.length)
      ∧ (∀ m, free = 0 → old = some m → m ∈ markersOf l → entryWords r.1 = entryWords l)

/-- CREDIT_IN adds its flits to the outstanding flit credit; one that would pass 65,535 saturates it and is a link error of kind 9 (R61, R64). -/
def Obligations.CreditSaturates : Prop :=
  ∀ (s : State) (n : Log) (p : Phys) (q : Qn) (inc : BitVec 16), s.linked n p = true →
    ∃ t, exec (.creditIn n q inc) s = .next t
      ∧ (t.que n q).flitCr = min 65535 ((s.que n q).flitCr + inc.toNat)
      ∧ (65535 < (s.que n q).flitCr + inc.toNat → t.phys[p].c.lerrs = min 0xFFFF (s.phys[p].c.lerrs + 1) ∧ t.phys[p].c.lkind = 9 ∧ t.phys[p].c.creditOvf = true)
      ∧ ((s.que n q).flitCr + inc.toNat ≤ 65535 → t.phys[p].c = s.phys[p].c)
      ∧ (t.que n q).link = (s.que n q).link ∧ (t.que n q).acc.map Acc.id = (s.que n q).acc.map Acc.id
      ∧ t.linkOut = s.linkOut ∧ channelFrame n q p s t

/-- RESUME_IN releases a halted queue whose faulted descriptor it names: the queue is ACTIVE, and the retry position stands in it, to run again under RETRY or to retire unrun under SKIP (a descriptor fed by DELIVER data is not run again). Any other RESUME is a link error of kind 10 and has no other effect (R84, R491 to R493). One that comes in an aclk in which a task input has applied takes its turn in the next aclk, before the inputs (R135). -/
def Obligations.ResumeReleasesTheNamedHalt : Prop :=
  ∀ (s : State) (n : Log) (p : Phys) (q : Qn) (seq : BitVec 16) (mode : RMode), s.linked n p = true →
    let applied : Bool := s.lch[n].ins.toList.any fun i => i.doneA == some s.aclk
    (∀ h, applied = false → (s.que n q).st = .halted → (s.que n q).halt = some h → h.seq = seq.toNat →
      ∃ t, exec (.resumeIn n q seq mode) s = .next t ∧ (t.que n q).st = .active
        ∧ (∃ a ∈ (t.que n q).acc, a.id = s.nextId ∧ a.seq = seq.toNat ∧ a.retry = true ∧ a.stage = .accepted
            ∧ (h.held = none → a.notRun = !(mode == .retry && !h.noRetry)) ∧ (a.notRun = false → mode = .retry ∧ h.noRetry = false))
        ∧ (t.que n q).acc.length = (s.que n q).acc.length + 1 ∧ (t.que n q).lastAcc = (s.que n q).lastAcc
        ∧ (t.que n q).recs = (s.que n q).recs ∧ channelFrame n q p s t)
    ∧ (applied = false → (s.que n q).st ≠ .halted ∨ (∀ h, (s.que n q).halt = some h → h.seq ≠ seq.toNat) →
        ∃ t, exec (.resumeIn n q seq mode) s = .next t ∧ t.lch = s.lch ∧ t.linkOut = s.linkOut
          ∧ t.phys[p].c = { s.phys[p].c with lerrs := min 0xFFFF (s.phys[p].c.lerrs + 1), lkind := 10 }
          ∧ channelFrame n q p s t)
    ∧ (applied = true → ∃ t, exec (.resumeIn n q seq mode) s = .next t
        ∧ t.lch[n] = { s.lch[n] with resPend := s.lch[n].resPend ++ [(q, seq.toNat, mode)] } ∧ t.phys[p].c = s.phys[p].c
        ∧ t.linkOut = s.linkOut ∧ channelFrame n q p s t)

/-- STATUS_ASLEEP while no link message is open marks the consumer asleep; while one is open it takes effect when that message ends. WAKE_READY marks the consumer awake and ends the WAKE REQUEST (R96, R97). -/
def Obligations.ConsumerSleepsAndWakes : Prop :=
  ∀ (s : State) (n : Log) (p : Phys), s.linked n p = true →
    (∃ t, exec (.statusAsleep n) s = .next t
      ∧ (s.lch[n].msg = none → t.lch[n] = { s.lch[n] with asleep := true })
      ∧ (s.lch[n].msg.isSome = true → t.lch[n] = { s.lch[n] with asleepPend := true }
          ∧ ((t.msgEnd n).lch[n].asleep = true ∧ (t.msgEnd n).lch[n].msg = none))
      ∧ sameOthers n s t ∧ samePhys p s t ∧ sameControl s t ∧ t.linkOut = s.linkOut)
    ∧ (∃ t, exec (.wakeReady n) s = .next t ∧ t.lch[n].asleep = false ∧ t.lch[n].asleepPend = false ∧ t.lch[n].wakeReq = none
      ∧ t.lch[n].msg = s.lch[n].msg ∧ (∀ q : Qn, (t.que n q).st = (s.que n q).st ∧ (t.que n q).link = (s.que n q).link
          ∧ (t.que n q).acc.map Acc.id = (s.que n q).acc.map Acc.id)
      ∧ sameOthers n s t ∧ samePhys p s t ∧ sameControl s t ∧ t.linkOut = s.linkOut)

/-- STATUS_LINK_ERR, LINK_WD_CREDIT, LINK_WD_WAKE and VERDICT_TIMEOUT end the descriptor that they concern with LINK_ERR at the output offset of its first packet that did not arrive; the watchdog's cases set its flag, the report is a link error of kind 14. A report of a descriptor that executes again and has not come to that packet waits for it (R106, R108, R479). -/
def Obligations.LinkFailuresEndDescriptors : Prop :=
  (∀ (s : State) (n : Log) (p : Phys) (q : Qn) (seq : BitVec 16) (off : BitVec 32) (a : Acc), s.linked n p = true →
    (s.que n q).acc.find? (fun a => a.seq = seq.toNat && a.sends && a.x.linkErr.isNone && (a.x.finSent || a.x.outSent > 0 || a.x.began)) = some a →
    ∃ t, exec (.statusLinkErr n q seq off) s = .next t ∧ (∃ b ∈ (t.que n q).acc, b.id = a.id ∧ b.x.linkErr = some off.toNat)
      ∧ t.phys[p].c.lerrs = min 0xFFFF (s.phys[p].c.lerrs + 1) ∧ t.phys[p].c.lkind = 14
      ∧ (t.que n q).acc.length = (s.que n q).acc.length ∧ (t.que n q).st = (s.que n q).st ∧ sameOthers n s t ∧ samePhys p s t ∧ sameControl s t)
  ∧ (∀ (s : State) (n : Log) (p : Phys) (q : Qn) (seq : BitVec 16) (off : BitVec 32) (a : Acc), s.linked n p = true →
    (s.que n q).acc.find? (fun a => a.seq = seq.toNat && a.sends && a.x.linkErr.isNone && (a.x.finSent || a.x.outSent > 0 || a.x.began)) = none →
    (s.que n q).acc.find? (fun a => a.seq = seq.toNat && a.sends && a.x.linkErr.isNone && a.replayed) = some a → a.failAt = none →
    ∃ t, exec (.statusLinkErr n q seq off) s = .next t ∧ (∃ b ∈ (t.que n q).acc, b.id = a.id ∧ b.failAt = some off.toNat)
      ∧ t.phys[p].c.lerrs = min 0xFFFF (s.phys[p].c.lerrs + 1) ∧ t.phys[p].c.lkind = 14 ∧ sameOthers n s t ∧ samePhys p s t ∧ sameControl s t)
  ∧ (∀ (s : State) (n : Log) (p : Phys) (q : Qn) (a : Acc) (k : OutPkt) (t0 : Nat), s.live n p = true → s.lch[n].ready q = some (a, k) →
    a.x.creditA = some t0 → t0 + s.lch[n].port.linkWd ≤ s.aclk →
    ∃ t, exec (.linkWdCredit n q) s = .next t ∧ (∃ b ∈ (t.que n q).acc, b.id = a.id ∧ b.x.linkErr = some k.off) ∧ t.phys[p].c.wdCut = true
      ∧ (t.que n q).acc.length = (s.que n q).acc.length ∧ (t.que n q).st = (s.que n q).st ∧ sameOthers n s t ∧ samePhys p s t ∧ sameControl s t)
  ∧ (∀ (s : State) (n : Log) (p : Phys) (t0 : Nat), s.live n p = true → s.lch[n].wakeReq = some t0 → t0 + s.lch[n].port.linkWd ≤ s.aclk →
    ∃ t, exec (.linkWdWake n) s = .next t ∧ t.lch[n].wakeReq = none ∧ t.phys[p].c.wdCut = true ∧ (s.lch[n].asleep = true → t.lch[n].asleep = true)
      ∧ (∀ (q : Qn) (a : Acc) (k : OutPkt), a ∈ (s.que n q).acc → a.sends = true → a.sentAll = false →
          a.nextPkt s.lch[n].port.dmax s.lch[n].bed = some k → ∃ b ∈ (t.que n q).acc, b.id = a.id ∧ b.x.linkErr.isSome = true)
      ∧ (∀ q : Qn, (t.que n q).acc.length = (s.que n q).acc.length ∧ (t.que n q).st = (s.que n q).st)
      ∧ sameOthers n s t ∧ samePhys p s t ∧ sameControl s t)
  ∧ (∀ (s : State) (n : Log) (p : Phys) (q : Qn) (a : Acc) (t0 : Nat), s.live n p = true → (s.que n q).awaiting = some a →
    a.x.finA = some t0 → t0 + s.lch[n].port.linkWd ≤ s.aclk →
    ∃ t, exec (.verdictTimeout n q) s = .next t ∧ (∃ b ∈ (t.que n q).acc, b.id = a.id ∧ b.x.linkErr = some a.d.len)
      ∧ t = { s with lch := t.lch } ∧ sameOthers n s t ∧ sameSiblings n q s t)

/-- VERDICT is taken for the oldest DIGEST of its queue whose FINAL has left, within LINK_WD of it, codes above 3 as ENGINE_ERR; one that does not name it or comes later is a link error of kind 13, and one whose DIG_LEN exceeds 64 one of kind 5 (R59, R479). -/
def Obligations.VerdictsSettleTheirDigest : Prop :=
  ∀ (s : State) (n : Log) (p : Phys) (q : Qn) (seq : BitVec 16) (code : Byte) (dig : List Byte), s.linked n p = true →
    (∀ a, dig.length ≤ 64 → (s.que n q).awaiting = some a → a.seq = seq.toNat → (∀ t0, a.x.finA = some t0 → s.aclk ≤ t0 + s.lch[n].port.linkWd) →
      ∃ t, exec (.verdict n q seq ⟨code, dig⟩ 0) s = .next t
        ∧ (∃ b ∈ (t.que n q).acc, b.id = a.id ∧ b.verdict = some (min code.toNat 3))
        ∧ t.phys[p].c = s.phys[p].c ∧ t.linkOut = s.linkOut ∧ (t.que n q).acc.length = (s.que n q).acc.length ∧ channelFrame n q p s t)
    ∧ (dig.length ≤ 64 → ((s.que n q).awaiting = none ∨ ∃ a, (s.que n q).awaiting = some a ∧ (a.seq ≠ seq.toNat ∨ ∃ t0, a.x.finA = some t0 ∧ t0 + s.lch[n].port.linkWd < s.aclk)) →
      ∃ t, exec (.verdict n q seq ⟨code, dig⟩ 0) s = .next t ∧ t.lch = s.lch
        ∧ t.phys[p].c = { s.phys[p].c with lerrs := min 0xFFFF (s.phys[p].c.lerrs + 1), lkind := 13 } ∧ channelFrame n q p s t)
    ∧ (64 < dig.length → ∃ t, exec (.verdict n q seq ⟨code, dig⟩ 0) s = .next t ∧ t.lch = s.lch
        ∧ t.phys[p].c = { s.phys[p].c with lerrs := min 0xFFFF (s.phys[p].c.lerrs + 1), lkind := 5 } ∧ channelFrame n q p s t)

/-- LINK_ERROR and LINK_WD_PACKET_CUT count the error with its kind, and count or open the port's interval of R708; a CMD that was cut and not dropped is answered NAK FORMAT, or NAK PARITY with a mismatch in a body flit that came; a flit at a sleeping channel is an error of kind 11. The packet that was open is gone: the words of a DELIVER open at a FLUSH stop being dropped, and a LAST that waited for its end applies (R95, R102, R105, R106, R323, R705). -/
def Obligations.LinkErrorsAreCounted : Prop :=
  (∀ (s : State) (n : Log) (p : Phys) (k : LErr) (cut : Option CutCmd) (c : Instr), s.linked n p = true →
    c = .linkWdPacketCut n cut ∨ (c = .linkError n k cut ∧ k = .sopInside) →
    ∃ t, exec c s = .next t ∧ t.phys[p].c.lerrs = min 0xFFFF (s.phys[p].c.lerrs + 1)
      ∧ t.phys[p].c.lkind = (if c = .linkWdPacketCut n cut then 12 else 6) ∧ (c = .linkWdPacketCut n cut → t.phys[p].c.wdCut = true)
      ∧ (s.linkIvl[n] = none → t.linkIvl[n] = some { at_ := s.aclk, count := 1, a := 0, b := 0, c := 0, d := 0 })
      ∧ (s.lch[n].lastPend = false → ∀ x : CutCmd, cut = some x → (s.que n x.queue).drops x.seq.toNat = false →
          t.linkOut = s.linkOut ++ [(n, .nak x.queue x.seq.toNat (if x.par then 3 else 4) 0 (((s.que n x.queue).lastAcc + 1) % 65536))]
            ∧ (t.que n x.queue).discard = some x.seq.toNat ∧ (t.que n x.queue).acc = (s.que n x.queue).acc)
      ∧ (s.lch[n].lastPend = false → cut = none → (∀ q : Qn, t.que n q = { s.que n q with dropPkt := false }) ∧ t.linkOut = s.linkOut)
      ∧ t.lch[n].lastPend = false
      ∧ sameOthers n s t ∧ samePhys p s t ∧ sameControl s t)
  ∧ (∀ (s : State) (n : Log) (p : Phys) (k : LErr) (cut : Option CutCmd), s.linked n p = true → k ≠ .asleep → k ≠ .sopInside → s.lch[n].lastPend = false →
    ∃ t, exec (.linkError n k cut) s = .next t ∧ (∀ q : Qn, t.que n q = { s.que n q with dropPkt := false }) ∧ sameOthers n s t ∧ t.linkOut = s.linkOut
      ∧ t.phys[p].c = { s.phys[p].c with lerrs := min 0xFFFF (s.phys[p].c.lerrs + 1), lkind := t.phys[p].c.lkind }
      ∧ [(LErr.header, 1), (LErr.psnHeader, 2), (LErr.format, 5), (LErr.noPacket, 7), (LErr.badType, 8)].contains (k, t.phys[p].c.lkind) = true
      ∧ samePhys p s t ∧ sameControl s t)
  ∧ (∀ (s : State) (n : Log) (p : Phys) (k : LErr) (cut : Option CutCmd), s.on = true → s.tap.drives = false → s.map[n] = some p →
    s.phys[p].st = .dormant → s.phys[p].gate = true →
    ∃ t, exec (.linkError n k cut) s = .next t ∧ t.lch = s.lch ∧ t.linkOut = s.linkOut
      ∧ t.phys[p] = { s.phys[p] with c := { s.phys[p].c with lerrs := min 0xFFFF (s.phys[p].c.lerrs + 1), lkind := 11 } } ∧ sameControl s t)

/-- SINGLE and BURST add a pending request of 64 bytes or of the port's burst, up to 15, beyond which REQ_OVERRUN is set; with nothing accepted the ring's PIDX is read. LAST ends the link input of the head after the data received so far; of paced output it stands behind the requests before it, once, and ends it where the last one served ends when none waits; one that comes while a DELIVER is open waits for its end (R99, R101 to R103, R114). -/
def Obligations.RequestLinesQueueRequests : Prop :=
  ∀ (s : State) (n : Log) (p : Phys) (q : Qn), s.linked n p = true → s.lch[n].port.reqQ = some q →
    (∀ (c : Instr) (bytes : Nat), (c = .single n ∧ bytes = 64) ∨ (c = .burst n ∧ bytes = s.lch[n].port.burst) →
      ((s.que n q).acc.head?.any fun a => a.d.takesDeliver) = false → ∃ t, exec c s = .next t
        ∧ (s.lch[n].reqs.countP (· ≠ 0) < 15 → t.lch[n].reqs = s.lch[n].reqs ++ [bytes] ∧ t.phys[p].c = s.phys[p].c
            ∧ ((s.que n q).acc = [] → (s.que n q).cfg.ring = true → (t.que n q).prd.out = true))
        ∧ (15 ≤ s.lch[n].reqs.countP (· ≠ 0) → t.lch = s.lch ∧ t.phys[p].c = { s.phys[p].c with reqOvr := true })
        ∧ (t.que n q).acc = (s.que n q).acc ∧ t.linkOut = s.linkOut ∧ channelFrame n q p s t)
    ∧ (∀ a, (s.que n q).acc.head? = some a → a.d.takesDeliver = true → (s.que n q).lastEnds = true → ∃ v, exec (.last ⟨n, false⟩) s = .next (v.flow n q)
        ∧ v.que n q = { s.que n q with link := (s.que n q).link ++ [.last] } ∧ v.lch[n].reqs = s.lch[n].reqs
        ∧ v.linkOut = s.linkOut ∧ channelFrame n q p s v)
    ∧ (∀ a, (s.que n q).acc.head? = some a → s.lch[n].paces q a.d = true → a.x.allow = none ∨ s.lch[n].reqs ≠ [] → ∃ t, exec (.last ⟨n, false⟩) s = .next t
        ∧ t.lch[n].reqs = (if s.lch[n].reqs.getLast? = some 0 then s.lch[n].reqs else s.lch[n].reqs ++ [0]) ∧ t.que n q = s.que n q
        ∧ t.linkOut = s.linkOut ∧ channelFrame n q p s t)
    ∧ (∀ a cuts, (s.que n q).acc.head? = some a → s.lch[n].paces q a.d = true → a.x.allow = some cuts → s.lch[n].reqs = [] →
        ∃ v, exec (.last ⟨n, false⟩) s = .next (v.flow n q) ∧ (∃ b ∈ (v.que n q).acc, b.id = a.id ∧ b.x.endAt = some (cuts.getLast?.getD 0))
          ∧ v.que n q = { s.que n q with acc := (v.que n q).acc } ∧ (v.que n q).acc.length = (s.que n q).acc.length ∧ v.lch[n].reqs = []
          ∧ v.linkOut = s.linkOut ∧ channelFrame n q p s v)
    ∧ (∃ t, exec (.last ⟨n, true⟩) s = .next t ∧ t.lch[n] = { s.lch[n] with lastPend := true } ∧ t.linkOut = s.linkOut ∧ channelFrame n q p s t)

/-- FLUSH empties the FIFO area of REQ_QUEUE: nothing stands in the host-in FIFO, in the link FIFO one marker counts the words, each where it stood, and the ends of the packets and inputs received stay, no request is pending, the flag is set, and the marks of host-out writes in progress clear, while those of completion records stay; the CREDITED words that it frees return as credit. LK_WAKE follows the line, and its rise wakes a DORMANT channel (R93, R94, R315, R317, R323 to R325, R624). -/
def Obligations.FlushAndWakeLine : Prop :=
  (∀ (s : State) (n : Log) (p : Phys) (q : Qn) (op bad : Bool), s.linked n p = true → s.lch[n].port.reqQ = some q →
    ∃ v, exec (.flush n ⟨op, bad⟩) s = .next (v.flow n q) ∧ v.lch[n].reqs = [] ∧ (v.que n q).hin = [] ∧ (v.que n q).dropPkt = op
      ∧ (v.que n q).link = (s.que n q).link.map (fun e => match e with
          | .word _ _ => .gap 1 bad (s.nextId + 1)
          | .gap k _ _ => .gap k bad (s.nextId + 1)
          | .eop f => .eop f
          | .last => .last)
      ∧ entryWords (v.que n q).link ≤ 1 ∧ inputWords (v.que n q).link = inputWords (s.que n q).link
      ∧ v.phys[p].c.flushed = s.phys[p].c.flushed ||| (1#4 <<< q.val)
      ∧ (∀ e ∈ v.phys[p].pend, e.phys = p → e.q = q → e.granted = true → e.kind = .write →
          (∃ id k a, e.own = .wr id k ∧ v.acc n q id = some a ∧ a.d.viaHout = true) → e.noMark = true)
      ∧ (∀ e ∈ s.phys[p].pend, (∀ id k, e.own ≠ .wr id k) → (∀ f ∈ s.phys[p].pend, e.isEntry f = true → f = e) → e ∈ v.phys[p].pend)
      ∧ (let k := (s.que n q).owed + (if (s.que n q).cfg.stream then 0 else (s.que n q).occ - (v.que n q).occ)
        (k = 0 → v.linkOut = s.linkOut) ∧ (0 < k → v.linkOut = s.linkOut ++ [(n, .credit q k)]))
      ∧ (v.que n q).st = (s.que n q).st ∧ (v.que n q).acc.map Acc.id = (s.que n q).acc.map Acc.id
      ∧ sameOthers n s v ∧ sameSiblings n q s v ∧ samePhys p s v)
  ∧ (∀ (s : State) (n : Log) (level : Bool), s.tap.drives = true → exec (.lkWake n level) s = .next s)
  ∧ (∀ (s : State) (n : Log) (level : Bool), s.tap.drives = false → ∃ t, exec (.lkWake n level) s = .next t
      ∧ t.lch[n] = { s.lch[n] with lkWake := level } ∧ sameOthers n s t
      ∧ (∀ p : Phys, s.on = true → level = true → s.lch[n].lkWake = false → s.map[n] = some p → s.phys[p].st = .dormant →
          t.phys[p].st = .waking ∧ t.phys[p].wakeA = some s.aclk ∧ t.phys[p].missed = 0 ∧ t.ters[terP p].stopped = false ∧ samePhys p s t)
      ∧ (level = false ∨ s.lch[n].lkWake = true ∨ s.on = false → t.phys = s.phys ∧ t.ters = s.ters))

/-- DELIVER_OUT: the queue's next packet leaves when its credit covers it, nothing parks it and the queue is the first of the highest class in the round robin; it takes its flits of credit. To a consumer asleep a WAKE REQUEST leaves first, once (R61, R85, R96). STATUS_PARKED reports a queue that waits behind an open message (R90). -/
def Obligations.PacketsLeaveInTurn : Prop :=
  (∀ (s : State) (n : Log) (p : Phys) (q : Qn) (a : Acc) (k : OutPkt) (final msg : Bool) (gap : Nat) (payload : List Byte) (psn : List Bool),
    s.live n p = true → s.tap.drives = false →
    let u := match s.lch[n].port.reqQ with
      | some r => s.serveLink n r
      | none => s
    u.lch[n].ready q = some (a, k) → k.k = .deliver final msg gap payload psn → u.lch[n].parked q (a, k) = false →
    (u.lch[n].asleep = false → u.lch[n].sendable q = true → u.pickQ n u.lch[n].rrOut u.lch[n].sendable = some q →
      ∃ t, exec (.deliverOut n q) s = .next t
        ∧ (n, .deliver q a.seq a.d.tag final msg a.replayed (decide (gap > 0)) k.off (min gap 0xFFFFFFFF) payload psn) ∈ t.linkOut
        ∧ s.linkOut <+: t.linkOut ∧ (t.que n q).flitCr = (s.que n q).flitCr - k.flits ∧ t.lch[n].rrOut = (q.val + 1) % 4
        ∧ (∃ b ∈ (t.que n q).acc, b.id = a.id ∧ b.x.outSent = k.next ∧ b.x.finSent = final)
        ∧ (t.que n q).acc.length = (s.que n q).acc.length ∧ (t.que n q).st = (s.que n q).st ∧ sameOthers n s t ∧ samePhys p s t ∧ sameControl s t)
    ∧ (u.lch[n].asleep = true → u.lch[n].wakeReq = none → ∃ t, exec (.deliverOut n q) s = .next t
        ∧ t.linkOut = s.linkOut ++ [(n, .wakeReq)] ∧ t.lch[n].wakeReq = some s.aclk ∧ (t.que n q).flitCr = (s.que n q).flitCr
        ∧ sameOthers n s t ∧ t.phys = s.phys ∧ sameControl s t))
  ∧ (∀ (s : State) (n : Log) (p : Phys) (q : Qn) (a : Acc) (k : OutPkt), s.live n p = true → s.tap.drives = false →
    s.lch[n].ready q = some (a, k) → s.lch[n].parked q (a, k) = true → (s.que n q).parked = none →
    ∃ t, exec (.statusParked n q) s = .next t ∧ t.linkOut = s.linkOut ++ [(n, .status q 1 a.seq (s.parkedFor n a))]
      ∧ t.que n q = { s.que n q with parked := some (a.id, s.aclk) } ∧ sameSiblings n q s t ∧ sameOthers n s t ∧ t = { s with lch := t.lch, linkOut := t.linkOut })

/-! ## Rings and descriptors -/

/-- PIDX_RETURN: a valid index governs what may be fetched; any other sets RING_ERR, drops what was found and fetched, and is posted (R115, R116). A fetched ring entry that the Sundial admits, which it always does on a queue without a promise and for one that fails its checks, is accepted at the end of its queue, and FIDX passes it; a refused entry or member is fetched again after the wait, which ends at the queue's horizon, and no entry is accepted meanwhile or while the queue is not in service. A chain member follows its predecessor directly, a retry position that stands before it kept before it; behind a fault that drains its queue it is not run. Bytes that were fetched again go to the entry they were fetched for; a retry of bytes that take inbound data is not run (R115, R117, R119, R137, R493, R502). REFETCH_EXPIRY ends the waits that are over (R117, R119). -/
def Obligations.RingsAndChainsFeedTheQueue : Prop :=
  ∀ (s : State) (n : Log) (p : Phys) (q : Qn), s.live n p = true →
    let u := s.que n q
    (∀ r, u.prd.data = some r →
      (∀ v, r = some v → u.off v ≤ 2 ^ u.cfg.ringLog → ∃ t, exec (.pidxReturn n q) s = .next t
        ∧ (t.que n q).shown = u.off v ∧ (t.que n q).prd = u.prd.next ∧ (∀ f ∈ (t.que n q).fetches, f ∈ u.fetches ∧ u.off f.idx < u.off v)
        ∧ (t.que n q).ringErr = u.ringErr ∧ (t.que n q).acc = u.acc ∧ t = { s with lch := t.lch } ∧ sameOthers n s t ∧ sameSiblings n q s t)
      ∧ ((∀ v, r = some v → 2 ^ u.cfg.ringLog < u.off v) → ∃ w, exec (.pidxReturn n q) s = .next (w.post 0x23 1 n (leBytes 4 (r.getD 0xFFFFFFFF) ++ leBytes 4 u.fidx) q)
        ∧ (w.que n q).ringErr = true ∧ (w.que n q).shown = 0 ∧ (w.que n q).fetches = [] ∧ (w.que n q).acc = u.acc
        ∧ w = { s with lch := w.lch } ∧ sameOthers n s w ∧ sameSiblings n q s w))
    ∧ (∀ (f : Fetch) (fs : List Fetch) (d : Option RWord × Nat), s.refill n q Origin.isRing = none → u.fetches = f :: fs → f.data = some d →
        u.st = .active → u.refetch = none →
        let a := fetched u (f.idx % 65536) 0 f.dg (.ring f.idx) d
        ((u.cfg.res = 0 ∨ a.pre.isSome = true ∨ a.subst = true) → ∃ v, exec (.ringEntryReturn n q) s = .next (v.flow n q)
          ∧ (v.que n q).acc = u.acc ++ [{ a with id := s.nextId }] ∧ (v.que n q).fidx = (u.fidx + 1) % 2 ^ 32 ∧ (v.que n q).lastAcc = f.idx % 65536
          ∧ (v.que n q).fetches = fs ∧ v.nextId = s.nextId + 1 ∧ v = { s with lch := v.lch, nextId := v.nextId } ∧ sameOthers n s v ∧ sameSiblings n q s v)
        ∧ (u.f ≤ s.aclk ∨ (∃ t, s.accept n q a none = .inl t) → ∃ v b, exec (.ringEntryReturn n q) s = .next (v.flow n q)
          ∧ (v.que n q).acc = u.acc ++ [b] ∧ b.id = s.nextId ∧ b.seq = f.idx % 65536 ∧ b.bytes = a.bytes ∧ b.pre = a.pre ∧ b.stage = .accepted ∧ b.notRun = false
          ∧ (v.que n q).fidx = (u.fidx + 1) % 2 ^ 32 ∧ (v.que n q).lastAcc = f.idx % 65536 ∧ (v.que n q).fetches = fs
          ∧ v.sun.refuse = s.sun.refuse ∧ v = { s with lch := v.lch, nextId := s.nextId + 1, sun := v.sun } ∧ sameOthers n s v ∧ sameSiblings n q s v)
        ∧ (∀ w, s.accept n q a none = .inr w → u.f = s.aclk + w ∧ 0 < w ∧ ∃ t, exec (.ringEntryReturn n q) s = .next t
          ∧ t.que n q = { u with fetches := f.again :: fs, refetch := some (s.aclk + w) }
          ∧ t.sun = { s.sun with refuse := min 0xFFFFFFFF (s.sun.refuse + 1), strideBound := s.sun.strideBound || strideBound a.d }
          ∧ t = { s with lch := t.lch, sun := t.sun } ∧ sameOthers n s t ∧ sameSiblings n q s t))
    ∧ (s.refill n q Origin.isRing = none → u.st ≠ .active ∨ u.refetch.isSome = true → exec (.ringEntryReturn n q) s = .next s)
    ∧ (∀ (c : Instr) (isO : Origin → Bool), (c = .ringEntryReturn n q ∧ isO = Origin.isRing) ∨ (c = .chainMemberReturn n q ∧ isO = Origin.isChain) →
        ∀ (f : Fetch) (d : Option RWord × Nat), (u.refills.find? fun f => f.data.isSome && u.acc.any fun a => a.id == f.after && isO a.origin) = some f → f.data = some d →
        ∃ v a b, exec c s = .next (v.flow n q) ∧ a ∈ u.acc ∧ b ∈ (v.que n q).acc ∧ a.id = f.after ∧ b.id = f.after ∧ b.seq = a.seq ∧ b.have_ = true
          ∧ (let new := fetched u a.seq a.member a.dg a.origin d
            let barred := a.retry && !new.tagF && new.d.takesDeliver
            (barred = false → b.bytes = new.bytes ∧ b.pre = new.pre ∧ b.notRun = a.notRun) ∧ (barred = true → b.bytes = a.bytes ∧ b.notRun = true))
          ∧ (v.que n q).refills = u.refills.filter (fun g => g.id ≠ f.id) ∧ (v.que n q).acc.map Acc.id = u.acc.map Acc.id
          ∧ v = { s with lch := v.lch } ∧ sameOthers n s v ∧ sameSiblings n q s v)
    ∧ (∀ (f : Fetch) (d : Option RWord × Nat) (l r : List Acc), s.refill n q Origin.isChain = none → u.chain = some f → f.data = some d →
        u.rechain = none → u.acc = l ++ r →
        let ok (y : Acc) : Bool := y.retry || if u.acc.any (fun z => z.id == f.after) then y.id == f.after else y.begun
        (l = [] ∨ l.getLast?.any ok = true) → (∀ y ∈ r, ok y = false) →
        let a := { fetched u f.seq f.member f.dg (.chain f.addr) d with exempt := f.exempt }
        let lateRun : Bool := u.st = .draining && u.fltDet && a.pre.isNone
        ((u.cfg.res = 0 ∨ a.pre.isSome = true ∨ a.subst = true) → ∃ v, exec (.chainMemberReturn n q) s = .next (v.flow n q)
          ∧ (v.que n q).acc = l ++ (if lateRun then { a with id := s.nextId, notRun := true, deadline := none } else { a with id := s.nextId }) :: r ∧ (v.que n q).chain = none ∧ (v.que n q).lastAcc = u.lastAcc
          ∧ (v.que n q).fidx = u.fidx ∧ v = { s with lch := v.lch, nextId := v.nextId } ∧ sameOthers n s v ∧ sameSiblings n q s v)
        ∧ (u.f ≤ s.aclk ∨ (∃ t, s.accept n q a (some f.after) = .inl t) → ∃ v b, exec (.chainMemberReturn n q) s = .next (v.flow n q)
          ∧ (v.que n q).acc = l ++ b :: r ∧ b.id = s.nextId ∧ b.seq = f.seq ∧ b.member = f.member ∧ b.bytes = a.bytes ∧ b.pre = a.pre ∧ b.stage = .accepted
          ∧ b.notRun = lateRun ∧ (v.que n q).chain = none ∧ (v.que n q).lastAcc = u.lastAcc ∧ (v.que n q).fidx = u.fidx
          ∧ v.sun.refuse = s.sun.refuse ∧ v = { s with lch := v.lch, nextId := s.nextId + 1, sun := v.sun } ∧ sameOthers n s v ∧ sameSiblings n q s v)
        ∧ (∀ w, s.accept n q a (some f.after) = .inr w → u.f = s.aclk + w ∧ 0 < w ∧ ∃ t, exec (.chainMemberReturn n q) s = .next t
          ∧ t.que n q = { u with chain := some f.again, rechain := some (s.aclk + w) }
          ∧ t.sun = { s.sun with refuse := min 0xFFFFFFFF (s.sun.refuse + 1), strideBound := s.sun.strideBound || strideBound a.d }
          ∧ t = { s with lch := t.lch, sun := t.sun } ∧ sameOthers n s t ∧ sameSiblings n q s t))
    ∧ (∀ t0, u.refetch = some t0 ∨ u.rechain = some t0 → t0 ≤ s.aclk → ∃ t, exec (.refetchExpiry n q) s = .next t
        ∧ t.que n q = { u with refetch := u.refetch.filter (s.aclk < ·), rechain := u.rechain.filter (s.aclk < ·) } ∧ t = { s with lch := t.lch, phys := t.phys } ∧ sameOthers n s t ∧ sameSiblings n q s t ∧ samePhys p s t)

/-- DESCRIPTOR_START: the head of the start order that is ready and wins a slot starts: its start time, slot and stage are noted, a HOLD takes one kick, and everything else of the queue's order stays; an error in its words of the store fails it with PARITY in place of starting (R125 to R128, R131, R326). -/
def Obligations.DescriptorsStart : Prop :=
  ∀ (s : State) (n : Log) (p : Phys) (q : Qn) (a : Acc) (own : Bool) (bad : List (Fin 16)), s.live n p = true → (s.que n q).head = some a →
    s.slotFor n q = some own → s.ready n q a = true →
    (∃ v, exec (.descriptorStart n q ⟨false, bad⟩) s = .next (v.flow n q)
      ∧ (∃ b ∈ (v.que n q).acc, b.id = a.id ∧ b.seq = a.seq ∧ b.bytes = a.bytes ∧ b.stage ≠ .accepted ∧ (a.isWait = false → b.stage = .started)
          ∧ b.own2 = own ∧ b.startA = s.aclk)
      ∧ (v.que n q).kicks = (if a.d.hold && !a.replayed then (s.que n q).kicks - 1 else (s.que n q).kicks)
      ∧ (v.que n q).st = (s.que n q).st ∧ (v.que n q).lastAcc = (s.que n q).lastAcc ∧ (v.que n q).recs = (s.que n q).recs
      ∧ (v.que n q).link = (s.que n q).link ∧ (∀ r : Qn, r ≠ q → v.que n r = s.que n r) ∧ v.lch[n].port = s.lch[n].port
      ∧ (a.isWait = false → v.lch[n].ins = s.lch[n].ins) ∧ samePhys p s v ∧ (bad = [] ∨ a.d.isVec = false → v.phys = s.phys)
      ∧ v.linkOut = s.linkOut ∧ sameOthers n s v ∧ sameControl s v)
    ∧ (∃ t, exec (.descriptorStart n q ⟨true, bad⟩) s = .next t
      ∧ (∃ b ∈ (t.que n q).acc, b.id = a.id ∧ b.pre = some (0x0B, 0xFFFF) ∧ b.tagF = true ∧ b.deadline = none)
      ∧ (t.que n q).kicks = (s.que n q).kicks ∧ (t.que n q).acc.length = (s.que n q).acc.length
      ∧ t.phys[p].c = { s.phys[p].c with parErr := min 0xFFFF (s.phys[p].c.parErr + 1), lastArea := 4 }
      ∧ channelFrame n q p s t ∧ t.linkOut = s.linkOut)

/-- DESCRIPTOR_VISIBLE makes a settled descriptor visible, and the horizon falls to now when it was the last one booked (R125, R416). DESCRIPTOR_RETIRE takes the head of the queue out, issues its 16-byte record with the next record number, counts the submission, and on a fault in an ACTIVE queue that does not skip halts it and reports STATUS HALTED; the parity errors that the scrub of a group's staging buffer or of a bed set's slots meets are counted (R120, R123, R130, R140, R326, R489). -/
def Obligations.DescriptorsRetireInOrder : Prop :=
  ∀ (s : State) (n : Log) (p : Phys) (q : Qn) (a : Acc) (upset : List (BitVec 11)), s.live n p = true →
    (∀ id, s.acc n q id = some a → a.stage = .started → a.settled s.lch[n].bed = true → ∃ t, exec (.descriptorVisible n q id) s = .next t
      ∧ t.acc n q id = some { a with stage := .visible, visA := s.aclk }
      ∧ (t.que n q).f = (if (s.que n q).lastB = some id then min (s.que n q).f s.aclk else (s.que n q).f)
      ∧ t.que n q = { s.que n q with acc := (t.que n q).acc, f := (t.que n q).f } ∧ (t.que n q).acc.length = (s.que n q).acc.length
      ∧ t = { s with lch := t.lch } ∧ sameOthers n s t ∧ sameSiblings n q s t)
    ∧ (∀ rest, (s.que n q).acc = a :: rest → (s.que n q).mayRetire a = true →
      let o := outcome a s.lch[n].bed
      s.roomToRetire n a o (s.retireCore n p q a o) = true → ∃ v, exec (.descriptorRetire n ⟨q, upset⟩) s =
          .next ((v.flow n q).partUpset p (a.d.isVec && a.stage ≠ .accepted) (s.lch[n].bed.isSome && (bedAfter a o s.lch[n].bed).isNone) upset)
        ∧ (∃ k : Rec, (v.que n q).recs = (s.que n q).recs ++ [k] ∧ k.n = (s.que n q).rcnt ∧ k.bytes = recordBytes a o ∧ k.bytes.length = 16
            ∧ k.done = raisesDone a o ∧ k.fault = o.isFault ∧ k.group = raisesGroup a ∧ k.seq = a.seq ∧ k.dg = a.dg)
        ∧ (v.que n q).acc.map Acc.id = rest.map Acc.id ∧ (v.que n q).rcnt = ((s.que n q).rcnt + 1) % 2 ^ 32
        ∧ (v.que n q).lastRet = (if !a.retry && seqAfter a.seq (s.que n q).lastRet && !a.goesOn then a.seq else (s.que n q).lastRet)
        ∧ (v.que n q).lastAcc = (s.que n q).lastAcc ∧ (v.que n q).kicks = (s.que n q).kicks
        ∧ (o.isFault = false ∨ (s.que n q).cfg.skip = true → (v.que n q).st = (s.que n q).st)
        ∧ (o.isFault = false → v.phys[p].c = s.phys[p].c)
        ∧ (o.isFault = true → v.phys[p].c = { s.phys[p].c with faults := min 0xFFFF (s.phys[p].c.faults + 1) }
            ∧ (v.que n q).qSeq = a.seq ∧ (v.que n q).qCause = o.cause)
        ∧ (o.isFault = true → (s.que n q).cfg.skip = false → (s.que n q).st = .active → (s.que n q).halt = none →
            (v.que n q).st = .halted ∧ ((v.que n q).halt.map fun h => (h.seq, h.cause)) = some (a.seq, o.cause) ∧ (v.que n q).fetches = []
              ∧ (s.tap.drives = false → (n, .status q 2 a.seq o.cause) ∈ v.linkOut))
        ∧ channelFrame n q p s v)
    ∧ (∀ (w : State) (group bed : Bool), let t := w.partUpset p group bed upset
        let k := upset.countP fun i => (group && areaOf i.toNat = 3) || (bed && (areaOf i.toNat = 1 || areaOf i.toNat = 2))
        t = { w with phys := t.phys } ∧ samePhys p w t ∧ (k = 0 → t = w) ∧ (0 < k → t.phys[p].c.parErr = min 0xFFFF (w.phys[p].c.parErr + k)))

/-- QUEUE_DRAIN_COMPLETE: a drained queue with ENABLE_PENDING goes to ACTIVE, any other to DISABLED, where its pending kicks clear and a bed set it holds open is abandoned and its slots scrubbed; in a channel that drains it goes to DISABLED and keeps ENABLE_PENDING (R131, R138, R139, R295, R333). CHANNEL_DRAIN_COMPLETE: under ENABLE_PENDING the channel is ACTIVE again with the queues it had; otherwise it goes OFF, scrubbed with its page cleared and its FIFOs empty, and its logical channel is out of service (R145, R548, R643, R679). -/
def Obligations.DrainsComplete : Prop :=
  ∀ (s : State) (n : Log) (p : Phys) (upset : List (BitVec 11)),
    (∀ q : Qn, s.heldP n = some p → (s.que n q).st = .draining → (s.que n q).acc = [] → (s.que n q).chain = none → (s.que n q).drainA < s.aclk →
      ∃ t, exec (.queueDrainComplete n ⟨q, upset⟩) s = .next t
        ∧ (s.phys[p].st ≠ .draining → (s.que n q).enp = true → (t.que n q).st = .active ∧ (t.que n q).enp = false ∧ (t.que n q).kicks = (s.que n q).kicks)
        ∧ (s.phys[p].st ≠ .draining → (s.que n q).enp = false → (t.que n q).st = .disabled ∧ (t.que n q).kicks = 0)
        ∧ (s.phys[p].st = .draining → (t.que n q).st = .disabled ∧ (t.que n q).enp = (s.que n q).enp ∧ (t.que n q).kicks = 0)
        ∧ (t.que n q).acc = [] ∧ (t.que n q).recs = (s.que n q).recs ∧ t.linkOut = s.linkOut
        ∧ (upset = [] → t.phys[p] = { s.phys[p] with partEnd := t.phys[p].partEnd, partComb := t.phys[p].partComb })
        ∧ ((t.que n q).st = .active ∨ s.lch[n].bed.map Bed.q ≠ some q → t.phys = s.phys)
        ∧ ((t.que n q).st = .disabled → s.lch[n].bed.map Bed.q = some q → t.lch[n].bed = none ∧ t.phys[p].partComb = true)
        ∧ channelFrame n q p s t)
    ∧ (s.on = true → s.logOf p = some n → s.phys[p].st = .draining → (∀ q : Qn, (s.que n q).st = .disabled) →
      (s.phys[p].chEnp = true → ∃ t, exec (.channelDrainComplete p) s = .next t ∧ t.phys[p] = { s.phys[p] with st := .active, chEnp := false }
        ∧ t.lch[n].drain = false
        ∧ (∀ q : Qn, (t.que n q).st = (if (s.que n q).cfg.valid && ((s.que n q).wasOn || (s.que n q).enp) then .active else .disabled))
        ∧ t.map = s.map ∧ t.fence = s.fence ∧ sameOthers n s t ∧ samePhys p s t)
      ∧ (s.phys[p].chEnp = false → s.quietHost p = true → s.lch[n].noEvents = true → s.lch[n].msg = none → ∃ t, exec (.channelDrainComplete p) s = .next t
        ∧ t.phys[p].st = .off ∧ t.phys[p].scrubbed = true ∧ t.phys[p].scrub = false ∧ t.lch[n].oos = true ∧ t.lch[n].drain = false
        ∧ (∀ q : Qn, t.que n q = { s.que n q with link := [], mark := none, dropPkt := false, toDrop := [], hin := [], hinR := 0, hinRec := [], hout := [], houtR := 0, linkR := 0 })
        ∧ t.phys[p].c = {} ∧ t.edge.phys[p] = {} ∧ t.map = s.map ∧ t.fence = s.fence ∧ sameOthers n s t ∧ samePhys p s t))

/-- WAIT_TIMEOUT ends a WAIT that nothing satisfied in time; DEADLINE_MISS counts a promised descriptor that passed its deadline, once, and posts its record; POOL_REREAD reads the pool header again and POOL_EMPTY fails the row that needed the chunk with cause 7 (R273, R421, R423, R470). -/
def Obligations.WaitsEnd : Prop :=
  ∀ (s : State) (n : Log) (q : Qn) (a : Acc),
    (∀ id, s.acc n q id = some a → a.isWait = true → a.stage = .started → a.runs = true → a.startA + 100 * field a.d 28 4 ≤ s.aclk →
      (s.tin n (Fin.ofNat 4 (a.d.b 24))).dueNow s.aclk = false → ∃ t, exec (.waitTimeout n q id) s = .next t
        ∧ (∃ b, t.acc n q id = some b ∧ b.timedOut = true ∧ b.stage = .visible ∧ b.visA = s.aclk ∧ b.satA = a.satA ∧ b.seq = a.seq)
        ∧ t = { s with lch := t.lch, phys := t.phys, ters := t.ters } ∧ sameOthers n s t ∧ sameSiblings n q s t)
    ∧ (∀ id dl, s.acc n q id = some a → a.due s.aclk = some dl → dl < s.aclk → a.stage ≠ .visible → a.missed = false →
      ∃ w, exec (.deadlineMiss n q id) s = .next (w.post 0x20 0 n (leBytes 1 (missKind s n q a) ++ leBytes 1 0x0A ++ leBytes 2 a.seq
          ++ leBytes 2 (if a.tagF then 0xFFFF else a.d.tag) ++ leBytes 2 (dl % 65536)) q)
        ∧ w.acc n q id = some { a with missed := true } ∧ w.sun = { s.sun with misses := min 0xFFFFFFFF (s.sun.misses + 1), miss := true }
        ∧ w = { s with lch := w.lch, sun := w.sun } ∧ sameOthers n s w ∧ sameSiblings n q s w)
    ∧ (s.lch[n].poolWait = some (q, a) → s.acc n q a.id = some a → s.runs n = true →
        (a.x.pool = 5 → a.x.poolR + 100 ≤ s.aclk → ∃ t, exec (.poolReread n) s = .next t
          ∧ (∃ b, t.acc n q a.id = some b ∧ b.x.pool = 1 ∧ b.x.poolA = a.x.poolA ∧ b.x.flt = a.x.flt)
          ∧ t = { s with lch := t.lch } ∧ sameOthers n s t ∧ sameSiblings n q s t)
        ∧ (a.x.pool ≠ 3 → a.x.pool ≠ 4 → field a.d 38 2 * 1600 ≤ a.x.poolUs + (s.aclk - a.x.poolA.getD s.aclk) → ∃ v, exec (.poolEmpty n) s = .next (v.flow n q)
          ∧ (∃ b, v.acc n q a.id = some b ∧ b.x.pool = 0 ∧ b.x.poolA = none
              ∧ (a.x.flt = none → b.x.flt = some ⟨(partEval a (s.bedOf n)).n, 7, 0⟩))
          ∧ v = { s with lch := v.lch } ∧ sameOthers n s v ∧ sameSiblings n q s v))

/-- NARROW rounds as R254's table says, with no intermediate limit: TRUNC and HALF_UP are floors, HALF_EVEN is the nearest integer and on a tie the even one; an element that does not saturate is that integer in the output's width, read as SIGNED says. -/
def Obligations.NarrowRoundsExactly : Prop :=
  (∀ (x : ℤ) (s : ℕ), roundTo x s 0 = ⌊(x : ℚ) / 2 ^ s⌋ ∧ roundTo x s 1 = ⌊(x : ℚ) / 2 ^ s + 1 / 2⌋
      ∧ (∀ z : ℤ, |(x : ℚ) / 2 ^ s - roundTo x s 2| ≤ |(x : ℚ) / 2 ^ s - z|)
      ∧ ((∃ k : ℤ, (x : ℚ) / 2 ^ s = k + 1 / 2) → roundTo x s 2 % 2 = 0)
      ∧ ∀ m : ℕ, m < 3 → roundTo x 0 m = x)
  ∧ (∀ (d : Desc) (n : ℕ), 0 < d.win → n < 2 ^ (8 * d.win) →
      let x : ℤ := if bit (d.b 25) 0 then (BitVec.ofNat (8 * d.win) n).toInt else n
      (narrowVal d n).2 = false → ∃ k : ℤ, ((narrowVal d n).1 : ℤ) = roundTo x (d.b 26) (bits (d.b 25) 2 1) + k * 2 ^ (8 * d.wout))

/-! ## Activations -/

/-- The row that takes KICK input `b` of `n` in mode `m`. -/
def kickOf (n : Log) (b : Fin 2) (m : Nat) (ext : List Ext := []) : Instr :=
  match m with
  | 0 => .kickDoorbell n b ext
  | 1 => .kickRelease n b ext
  | _ => .kickEnable n b ext

/-- `c` is the command of task input `x` of `n` in its mode, with the external events `ext`. -/
def inputCmd (s : State) (n : Log) (x : Fin 4) (ext : List Ext) (c : Instr) : Prop :=
  (c = .drain n ext ∧ x = 2) ∨ (c = .wake n ext ∧ x = 3) ∨ ∃ b : Fin 2, x = kickIn b ∧ (s.tin n x).mode < 3 ∧ c = kickOf n b (s.tin n x).mode ext

/-- One contribution of generation `g` is due at task input `x` of a served channel after lock, nothing holds it back, and nothing is due at an input that applies before it in the aclk (R135, R439, R442, R445). -/
def kickDue (s : State) (n : Log) (x : Fin 4) (g : Nat) : Prop :=
  s.gate.locked = true ∧ s.gate.lockA < s.aclk ∧ s.map[n].isSome = true ∧ (s.tin n x).doneA ≠ some s.aclk ∧ (s.tin n x).heldGen = none ∧ g < 7
    ∧ (∃ at_ bit_, at_ < s.aclk ∧ (s.tin n x).contrib = [(at_, bit_, g)]) ∧ (∀ a, (s.tin n x).lastAct = some a → a + (s.tin n x).rate ≤ s.aclk)
    ∧ (∀ y ∈ inputsBefore x, (s.tin n y).doneA = some s.aclk ∨ (s.tin n y).dueNow s.aclk = false)

/-- What an activation leaves alone: of `n`, its configuration, and everything but its channels, terraces and the counters that follow a release. -/
def activationFrame (n : Log) (s t : State) : Prop :=
  t = { s with lch := t.lch, phys := t.phys, ters := t.ters, nextId := t.nextId } ∧ sameOthers n s t ∧ t.lch[n].port = s.lch[n].port

/-- An activation of a task input is counted with its generation, and has the effect of R134's table on the bound queue: a PIDX read, a pending kick up to 15 and OVERRUN beyond, an enable, a drain, a release, or a wake demand only. RATE_HELD_APPLY applies a held activation. A DRAIN that is due in the aclk of a KICK applies before it. Contributions of one aclk are one event of their highest generation; those of generation 7 are dropped and counted, RATE holds an event back, and external events join the contributions of every input that enables their line (R131, R134, R135, R137, R438 to R442). -/
def Obligations.ActivationsFollowTheTable : Prop :=
  (∀ (s : State) (n : Log) (b : Fin 2) (m g : Nat), m < 3 → (s.tin n (kickIn b)).mode = m → kickDue s n (kickIn b) g →
    let x := kickIn b
    let q := (s.tin n x).queue
    let u := s.que n q
    let full : Bool := 15 ≤ u.kicks
    let counts : Bool := m = 1 && (u.st = .active || u.st = .draining || (u.st = .halted && (s.tin n x).haltAct ≠ 1 && (s.tin n x).haltAct ≠ 2))
    ∃ t, exec (kickOf n b m) s = .next t ∧ activationFrame n s t ∧ (∀ r : Qn, r ≠ q → (t.que n r).st = (s.que n r).st ∧ (t.que n r).kicks = (s.que n r).kicks)
      ∧ (t.tin n x).lastAct = some s.aclk ∧ (t.tin n x).lastGen = g ∧ (t.tin n x).contrib = []
      ∧ (t.que n q).kicks = (if counts && !full then u.kicks + 1 else u.kicks)
      ∧ (counts = true → full = true → (t.tin n x).overrun = true)
      ∧ (u.st = .disabled → m ≠ 2 → (t.que n q).st = .disabled ∧ (t.que n q).enp = u.enp)
      ∧ (u.st = .disabled → m = 2 → u.cfg.valid = true → s.lch[n].oos = false → (∀ p, s.servP n = some p → s.phys[p].st = .active ∧ s.phys[p].toDrain = false) →
          (t.que n q).st = .active)
      ∧ (u.st = .active → (t.que n q).st = .active ∧ (u.cfg.ring = true → counts = false ∨ full = false → (t.que n q).prd.out = true))
      ∧ (u.st = .draining → (t.que n q).st = .draining ∧ (t.que n q).enp = (u.enp || m = 2))
      ∧ (u.st = .halted → (t.que n q).st = (if (s.tin n x).haltAct = 1 ∨ (s.tin n x).haltAct = 2 then .active else .halted)))
  ∧ (∀ (s : State) (n : Log) (g : Nat), kickDue s n 2 g → ∃ t, exec (.drain n []) s = .next t ∧ activationFrame n s t
      ∧ (∀ q : Qn, bit (s.tin n 2).drainMask q = false → (t.que n q).st = (s.que n q).st)
      ∧ (∀ q : Qn, bit (s.tin n 2).drainMask q = true → (t.que n q).st = (if (s.que n q).st = .disabled then .disabled else .draining)
          ∧ ((s.que n q).st = .draining → (t.tin n 2).overrun = true)))
  ∧ (∀ (s : State) (n : Log) (g : Nat), kickDue s n 3 g → ∃ t, exec (.wake n []) s = .next t ∧ activationFrame n s t
      ∧ (∀ q : Qn, (t.que n q).st = (s.que n q).st ∧ (t.que n q).kicks = (s.que n q).kicks) ∧ (t.tin n 3).lastAct = some s.aclk
      ∧ (∀ p : Phys, s.map[n] = some p → s.phys[p].st = .dormant → t.phys[p].st = .waking))
  ∧ (∀ (s : State) (n : Log) (x : Fin 4) (g : Nat), s.gate.locked = true → s.gate.lockA < s.aclk → s.map[n].isSome = true → (s.tin n x).doneA ≠ some s.aclk →
      (∀ y ∈ inputsBefore x, (s.tin n y).doneA = some s.aclk ∨ (s.tin n y).dueNow s.aclk = false) → (s.tin n x).heldGen = some g → (s.tin n x).contrib = [] → (∀ a, (s.tin n x).lastAct = some a → a + (s.tin n x).rate ≤ s.aclk) →
      ∃ t, exec (.rateHeldApply n x []) s = .next t ∧ activationFrame n s t ∧ (t.tin n x).heldGen = none ∧ (t.tin n x).lastAct = some s.aclk
        ∧ (t.tin n x).lastGen = g ∧ (t.tin n x).acts = min 0xFFFFFFFF ((s.tin n x).acts + 1) ∧ (t.tin n x).merged = (s.tin n x).merged)
  ∧ (∀ (s : State) (n : Log) (b : Fin 2) (m g : Nat), m < 3 → (s.tin n (kickIn b)).mode = m → kickDue s n 2 g →
      ∃ t, exec (.drain n []) s = .next t ∧ (t.tin n 2).doneA = some s.aclk ∧ exec (kickOf n b m) s = exec (kickOf n b m) t)
  ∧ (∀ (s : State) (n : Log) (x : Fin 4) (c : Instr) (a0 : Nat) (l : List (Nat × Nat)), s.gate.locked = true → s.gate.lockA < s.aclk → s.map[n].isSome = true →
      (s.tin n x).doneA ≠ some s.aclk → (∀ y ∈ inputsBefore x, (s.tin n y).doneA = some s.aclk ∨ (s.tin n y).dueNow s.aclk = false) → inputCmd s n x [] c →
      a0 < s.aclk → (s.tin n x).contrib = l.map (fun e => (a0, e.1, e.2)) →
      let i := s.tin n x
      let good := l.filter fun e => e.2 < 7
      let wait : Bool := i.lastAct.any fun a => decide (s.aclk < a + i.rate)
      ∃ t, exec c s = .next t ∧ t = { s with lch := t.lch, phys := t.phys, ters := t.ters, nextId := t.nextId, ldg := t.ldg } ∧ sameOthers n s t
        ∧ t.lch[n].port = s.lch[n].port ∧ (t.tin n x).contrib = []
        ∧ (t.tin n x).loops = (if good.length < l.length then min 255 (i.loops + (l.length - good.length)) else i.loops)
        ∧ (t.tin n x).loop = (i.loop || decide (good.length < l.length))
        ∧ (t.tin n x).merged = (if 2 ≤ good.length ∨ good ≠ [] ∧ i.heldGen.isSome = true then min 255 (i.merged + 1) else i.merged)
        ∧ (wait = false → good ≠ [] ∨ i.heldGen.isSome = true → (t.tin n x).lastAct = some s.aclk ∧ (t.tin n x).heldGen = none
            ∧ (t.tin n x).lastGen = (good.map Prod.snd).foldl max (i.heldGen.getD 0) ∧ (t.tin n x).acts = min 0xFFFFFFFF (i.acts + 1))
        ∧ (wait = true → good ≠ [] → (t.tin n x).heldGen = some ((good.map Prod.snd).foldl max (i.heldGen.getD 0)))
        ∧ (wait = true ∨ good = [] ∧ i.heldGen = none → (t.tin n x).lastAct = i.lastAct ∧ (t.tin n x).lastGen = i.lastGen ∧ (t.tin n x).acts = i.acts
            ∧ (∀ q : Qn, t.que n q = s.que n q) ∧ t.phys = s.phys ∧ t.ters = s.ters))
  ∧ (∀ (s : State) (n : Log) (x : Fin 4) (ext : List Ext) (c d : Instr), s.gate.locked = true → s.gate.lockA < s.aclk → s.map[n].isSome = true →
      s.tap.drives = false → inputCmd s n x ext c → inputCmd s n x [] d →
      ∃ z, exec c s = exec d z ∧ z = { s with lch := z.lch } ∧ sameOthers n s z ∧ (∀ q : Qn, z.que n q = s.que n q)
        ∧ ∀ i : Fin 4, z.tin n i = { s.tin n i with contrib := (s.tin n i).contrib
            ++ ((ext.filter fun e => (s.tin n i).mask.getLsbD (45 + e.line.val)).map fun e => (s.aclk - 1, 45 + e.line.val, e.gen.val)) })

/-! ## The host port -/

/-- The slice of an address: bits 11 to 8 combined with bits 19 to 16, so that the 16 blocks of an aligned 4 KiB range fall on 16 different slices (R41). -/
def Obligations.SliceHashSpreadsBlocks : Prop :=
  (∀ a : Nat, (sliceOf a).val = Nat.xor (a / 256 % 16) (a / 65536 % 16))
    ∧ (∀ k i j : Nat, i < 16 → j < 16 → sliceOf (4096 * k + 256 * i) = sliceOf (4096 * k + 256 * j) → i = j)

/-- The pending entry of a request of `n` at channel `p` (R368). -/
def newEntry (s : State) (p : Phys) (n : Log) (r : Req) (tag : Nat) : Txn :=
  { phys := p, log := n, inc := s.inc n, q := r.q, kind := r.kind, addr := r.addr, size := r.size, tag, own := r.own, cells := r.cells,
    postH := s.hclk, postA := s.aclk, prom := decide (0 < (s.que n r.q).cfg.res), vec := r.vec }

/-- Channel `p` has `e` as its newest pending entry and is no longer quiet; its other entries and the other channels stay. -/
def postsOne (p : Phys) (e : Txn) (s t : State) : Prop :=
  t.phys[p].pend = s.phys[p].pend ++ [e] ∧ t.phys[p].quiet = 0 ∧ t.phys[p].st = s.phys[p].st ∧ samePhys p s t

/-- `z` is `s` with the staging paths as they stand at the start of hclk `h`: what has staged whole has left its entry, its words have left the host-out FIFO, and nothing else has moved (R316, R371, R372). -/
def settledTo (s : State) (h : Nat) (z : State) : Prop :=
  z = { s with hclk := h, slices := z.slices, phys := z.phys, lch := z.lch, arb := z.arb }
    ∧ (∀ r : Phys, z.phys[r] = { s.phys[r] with pend := z.phys[r].pend } ∧ z.phys[r].pend.Sublist s.phys[r].pend)
    ∧ (∀ (m : Log) (k : Qn), z.que m k = { s.que m k with hout := (z.que m k).hout, houtR := (z.que m k).houtR })
    ∧ ((∀ sl : SliceN, s.slices[sl].hold = none) → z = { s with hclk := h })

/-- TRANSACTION_POST puts the next transaction of its request at the end of the channel's pending queue, once its region check passes and the regulator, the tag space, the entries and the band allow it: the PIDX read, a ring entry's or chain member's fetch, a descriptor's data read, its LOCK_READ, the header read and LOCK_READ of a chunk take, its write and its LOCK_WRITE, and the oldest unposted completion record. A read that fails its region check is not posted and counts a region fault. The staging paths are first as they stand at the start of the hclk: a write that has staged whole has left its entry (R39, R114, R115, R119, R123, R368, R371, R402, R462, R523, R538). -/
def Obligations.PostsEnterThePendingQueue : Prop :=
  ∀ (s : State) (n : Log) (p : Phys) (q : Qn) (tag : Fin 256) (h : Nat) (z : State), s.posts n p = true → s.hclk ≤ h → z = ({ s with hclk := h } : State).settled h →
    let u := z.que n q
    settledTo s h z
    ∧ (let r : Req := { q, kind := .read, addr := u.cfg.pidxAddr / 64 * 64, own := .pidx };
      u.prd.out = true → u.prd.posted = false → z.regionOk u.cfg.dom .read u.cfg.pidxAddr = true → z.mayPost p n r tag = true →
        ∃ t, exec (.transactionPost p (.pidx q) tag h) s = .next t ∧ postsOne p (newEntry z p n r tag) z t ∧ (t.que n q).prd = { u.prd with posted := true }
          ∧ (0 < u.cfg.res → (t.que n q).bal[r.ix] = { v := u.bal[r.ix].val u.cfg.res s.aclk - 100, at_ := s.aclk })
          ∧ (t.que n q).acc = u.acc ∧ t.hclk = h ∧ sameOthers n z t ∧ sameSiblings n q z t)
    ∧ (let f : Fetch := { id := s.nextId, idx := (u.fidx + u.fetches.length) % 2 ^ 32, addr := u.cfg.ringAt ((u.fidx + u.fetches.length) % 2 ^ 32),
                          dg := u.foundDg ((u.fidx + u.fetches.length) % 2 ^ 32) };
      let r : Req := { q, kind := .read, addr := f.addr, own := .ring f.id };
      u.lacks Origin.isRing = none → u.st = .active → u.refetch = none → u.fetches.find? (fun f => !f.posted) = none → (∀ g ∈ u.refills ++ u.fetches, g.id ≠ s.nextId) →
      u.fetches.length < u.shown → u.fetches.length + u.waiting < u.cfg.fetchAhead → u.subs + u.fetches.length < 16 →
      z.regionOk u.cfg.dom .read f.addr = true → z.mayPost p n r tag = true → ∃ t, exec (.transactionPost p (.ring q) tag h) s = .next t
          ∧ postsOne p (newEntry z p n r tag) z t ∧ (t.que n q).fetches = u.fetches ++ [{ f with posted := true }] ∧ (t.que n q).fidx = u.fidx
          ∧ (t.que n q).acc = u.acc ∧ t.hclk = h ∧ sameOthers n z t ∧ sameSiblings n q z t)
    ∧ (∀ f : Fetch, let r : Req := { q, kind := .read, addr := f.addr, own := .chain, exempt := f.exempt, acc := some f.after,
                                      rep := (z.acc n q f.after).any Acc.replayed };
      u.lacks Origin.isChain = none → u.chain = some f → f.posted = false → u.rechain = none → z.regionOk u.cfg.dom .read f.addr = true →
      z.mayPost p n r tag = true → ∃ t, exec (.transactionPost p (.chain q) tag h) s = .next t
          ∧ postsOne p (newEntry z p n r tag) z t ∧ (t.que n q).chain = some { f with posted := true }
          ∧ (t.que n q).acc.map Acc.id = u.acc.map Acc.id ∧ t.hclk = h ∧ sameOthers n z t ∧ sameSiblings n q z t)
    ∧ (∀ k : Rec, let a := u.cfg.recAt k.n
      let r : Req := { q, kind := .write, addr := a / 64 * 64, own := .rcd k.n, exempt := true,
                       cells := k.bytes.zipIdx.map fun (b, i) => (⟨a + i, b, false, 0, true⟩ : Cell) };
      u.recs.find? (fun k => !k.posted) = some k → z.regionOk u.cfg.dom .write a = true → z.mayPost p n r tag = true →
        ∃ t, exec (.transactionPost p (.record q) tag h) s = .next t ∧ postsOne p (newEntry z p n r tag) z t
          ∧ (t.que n q).recs.map Rec.n = u.recs.map Rec.n ∧ (∃ y ∈ (t.que n q).recs, y.n = k.n ∧ y.posted = true)
          ∧ (t.que n q).acc = u.acc ∧ (t.que n q).bal = u.bal ∧ t.hclk = h ∧ sameOthers n z t ∧ sameSiblings n q z t)
    ∧ (∀ (a : Acc) (i : Nat) (x : RPlan), z.acc n q a.id = some a → a.stage = .started → a.runs = true → a.d.op ≠ 0x31 →
      (a.d.op = 0x28 → z.postTake p n q a tag = none) → nextRead a = some (i, x) → u.readTurn a z.lch[n].bed = true →
      let r : Req := { q, kind := .read, addr := x.addr, size := x.size, own := .rd a.id a.x.reads.length, vec := a.d.isVec, rep := a.replayed, acc := some a.id };
      (z.regionOk u.cfg.dom .read x.addr = true → z.mayPost p n r tag = true → ∃ v, exec (.transactionPost p (.rd q a.id) tag h) s = .next (v.flow n q)
          ∧ postsOne p (newEntry z p n r tag) z v ∧ v.hclk = h ∧ sameOthers n z v ∧ sameSiblings n q z v
          ∧ (∃ b, v.acc n q a.id = some b ∧ b.x.ri = i + 1
              ∧ b.x.reads = a.x.reads ++ [{ stream := x.stream, addr := x.addr, size := x.size, lo := x.lo, kind := .read, st := .posted, data := [] }])
          ∧ (v.que n q).hin = (if hostIn a.d x.stream then u.hin ++ [(a.id, a.x.reads.length)] else u.hin))
      ∧ (z.regionOk u.cfg.dom .read x.addr = false → ∃ v, exec (.transactionPost p (.rd q a.id) tag h) s = .next (v.flow n q)
          ∧ v.phys = z.phys ∧ v.doms[u.cfg.dom].rfault = min 0xFFFFFFFF (s.doms[u.cfg.dom].rfault + 1) ∧ (v.que n q).hin = u.hin
          ∧ sameOthers n z v ∧ sameSiblings n q z v))
    ∧ (∀ a : Acc, z.acc n q a.id = some a → a.stage = .started → a.runs = true → a.d.op = 0x31 → a.lk = .none →
      let r : Req := { q, kind := .lockRead, addr := a.d.dst / 64 * 64, own := .rd a.id a.x.reads.length, vec := a.d.isVec, rep := a.replayed,
                       acc := some a.id, entries := 2 };
      z.regionOk u.cfg.dom .lockRead r.addr = true → z.mayPost p n r tag = true → ∃ t, exec (.transactionPost p (.rd q a.id) tag h) s = .next t
          ∧ postsOne p (newEntry z p n r tag) z t ∧ t.phys[p].locked = some (q, a.id) ∧ (∃ b, t.acc n q a.id = some b ∧ b.lk = .intent)
          ∧ t.hclk = h ∧ sameOthers n z t ∧ sameSiblings n q z t)
    ∧ (∀ (a : Acc) (lock : Bool), z.acc n q a.id = some a → a.stage = .started → a.runs = true → a.d.op = 0x28 → a.x.pool = (if lock then 3 else 1) →
      (a.x.reads.any fun y => y.stream == if lock then 6 else 4) = false →
      let r : Req := { q, kind := if lock then .lockRead else .read, addr := (z.bedOf n).dst, own := .rd a.id a.x.reads.length, vec := a.d.isVec, rep := a.replayed,
                       acc := some a.id, entries := if lock then 2 else 1 };
      z.regionOk u.cfg.dom r.kind r.addr = true → z.mayPost p n r tag = true → ∃ v, exec (.transactionPost p (.rd q a.id) tag h) s = .next (v.flow n q)
          ∧ postsOne p (newEntry z p n r tag) z v ∧ v.phys[p].locked = (if lock then some (q, a.id) else z.phys[p].locked)
          ∧ (∃ b, v.acc n q a.id = some b ∧ b.x.pool = a.x.pool ∧ b.x.reads = a.x.reads ++ [{ stream := if lock then 6 else 4, addr := r.addr, size := 64, lo := 0, kind := r.kind, st := .posted, data := [] }])
          ∧ v.hclk = h ∧ sameOthers n z v ∧ sameSiblings n q z v)
    ∧ (∀ (a b : Acc) (i : Nat) (x : WPlan), z.acc n q a.id = some a → a.stage = .started → a.runs = true → a.x.lockPost = false →
      let y := z.serveReq n q a
      y.acc n q a.id = some b → nextWrite b y.lch[n].bed = some (i, x) → b.writeOpen y.lch[n].bed x = true →
      (b.d.viaHout = true → (y.que n q).houtHeld + x.size / 64 ≤ 32) →
      let r : Req := { q, kind := .write, addr := x.addr, size := x.size, own := .wr b.id b.x.writes.length, cells := x.cells, vec := b.d.isVec,
                       rep := b.replayed, acc := some b.id };
      z.regionOk u.cfg.dom .write x.addr = true → y.mayPost p n r tag = true → ∃ v, exec (.transactionPost p (.wr q a.id) tag h) s = .next (v.flow n q)
          ∧ postsOne p (newEntry z p n r tag) z v ∧ v.hclk = h ∧ sameOthers n z v ∧ sameSiblings n q z v
          ∧ (∃ c, v.acc n q a.id = some c ∧ c.x.wi = i + 1 ∧ c.x.writes.length = b.x.writes.length + 1)
          ∧ (v.que n q).hout = (if b.d.viaHout then u.hout ++ [⟨b.id, b.x.writes.length, x.size / 64, false⟩] else u.hout))
    ∧ (∀ a : Acc, z.acc n q a.id = some a → a.stage = .started → a.runs = true → a.x.lockPost = true → a.d.op = 0x31 →
      let r : Req := { q, kind := .lockWrite, addr := a.d.dst / 64 * 64, own := .wr a.id 0, rep := a.replayed, acc := some a.id,
                       cells := ((a.x.lockWord.bind (lockedNew a)).map (lockedCells a)).getD [] };
      z.mayPost p n r tag = true → ∃ t, exec (.transactionPost p (.wr q a.id) tag h) s = .next t
          ∧ postsOne p (newEntry z p n r tag) z t ∧ (∃ b, t.acc n q a.id = some b ∧ b.x.lockPost = false ∧ b.lk = a.lk)
          ∧ t.hclk = h ∧ sameOthers n z t ∧ sameSiblings n q z t)

/-- SLICE_GRANT grants one transaction of the decision of hclk `h`: of the candidates one of the highest class, and of those the first in the round robin from the class's pointer, which then moves past it; it leaves the pending queue unless it may still be preempted, takes an issue position or the staging path, and a LOCK_READ takes the slice's lock; every entry that waits at the slice has its HINT of this decision, 63 at most (R358, R371, R372, R375, R383). -/
def Obligations.SlicesGrantTheWinner : Prop :=
  ∀ (s : State) (sl : SliceN) (h : Nat) (gaps : List (Option Nat)) (w : Txn), s.on = true → s.hclk ≤ h → s.slices[sl].lastH ≠ some h →
    let u := (((({ s with hclk := h } : State).settle sl h).rejectStale sl h).lostLocks sl h).markHeld sl h
    let cand := (u.aged sl h).filter fun t => u.fresh t && u.eligible sl h t
    let cls := fun (t : Txn) => (u.que t.log t.q).cls
    let rank := fun (t : Txn) => (t.requester + 544 - u.slices[sl].rr[Fin.ofNat 8 (cls w)]) % 544
    u.winner sl cand = some w → w ∈ cand ∧ (∀ c ∈ cand, cls c ≤ cls w ∧ (cls c = cls w → rank w ≤ rank c))
      ∧ ∃ t, exec (.sliceGrant sl h gaps) s = .next t
        ∧ t.slices[sl].lastH = some h ∧ t.slices[sl].park = some w.requester ∧ t.slices[sl].rr[Fin.ofNat 8 (cls w)] = (w.requester + 1) % 544
        ∧ (w.kind.isWrite = false → (t.slices[sl].issue.getLast?.map fun y => (y.phys, y.addr, y.tag, y.readyH)) = some (w.phys, w.addr, w.tag, h + 1)
            ∧ t.slices[sl].issue.length = u.slices[sl].issue.length + 1 ∧ t.slices[sl].hold = u.slices[sl].hold)
        ∧ (w.kind.isWrite = true → (t.slices[sl].hold.map fun y => (y.t.phys, y.t.addr, y.t.tag, y.grantH)) = some (w.phys, w.addr, w.tag, h)
            ∧ t.slices[sl].issue = u.slices[sl].issue)
        ∧ (∀ (p : Phys) (e : Txn), e ∈ t.phys[p].pend → sliceOf e.addr = sl → e.granted = false → e.hint ≤ 63 ∧ e.hint = u.hintOf sl h cand e)
        ∧ (w.kind = .lockRead → t.slices[sl].lock.held = true ∧ t.slices[sl].lock.owner = w.log.val ∧ t.slices[sl].lock.block = w.addr)
        ∧ t = { s with hclk := h, slices := t.slices, phys := t.phys, lch := t.lch, arb := t.arb, hpt := t.hpt, doms := t.doms, rf := t.rf,
                       linkOut := t.linkOut, ldg := t.ldg }

/-- TRANSACTION_PRESENT drives the first ready transaction of the slice with its domain, secure attribute and class, and it is then outstanding; the second fence check rejects and counts one whose incarnation is stale or whose channel no longer serves it, so that nothing stale is ever presented. A write takes hp_w for its beats from then on, and no request leaves before the latest has been accepted. That a write which waits for hp_w holds those behind it back is the model's reading (log 62) (R335, R338, R339, R353, R372). -/
def Obligations.PresentedTransactionsPassTheFence : Prop :=
  (∀ (s : State) (sl : SliceN) (h wait stretch : Nat) (upset window : List (Fin 4)) (w : Txn), s.pinsAt h = true →
    let u := ({ s with hclk := h } : State).settle sl h
    ((u.slices[sl].lastP.any fun y => h ≤ y.1) = true → exec (.transactionPresent sl ⟨h, wait, stretch, upset, window⟩) s = .next u)
    ∧ ((u.slices[sl].lastP.any fun y => h ≤ y.1) = false → u.slices[sl].issue.find? (u.slices[sl].readyAt h) = some w →
      (w.kind.isWrite = true → u.slices[sl].wFree ≤ h) →
    (u.fresh w = true → ∃ t, exec (.transactionPresent sl ⟨h, wait, stretch, upset, window⟩) s = .next t
        ∧ (∃ e : HReq, t.hostOut = s.hostOut ++ [(sl, e)] ∧ e.t = { w with presA := s.aclk } ∧ e.dom = (s.que w.log w.q).cfg.dom.val
            ∧ e.sec = s.secOf (s.que w.log w.q).cfg.dom ∧ e.cls = (s.que w.log w.q).cls
            ∧ e.beats.length = (if w.kind.isWrite then w.beats else 0)
            ∧ (upset = [] → window = [] → e.beats = w.wbeats []))
        ∧ t.slices[sl].out = s.slices[sl].out ++ [{ w with presA := s.aclk }] ∧ (upset = [] → window = [] → t.lch = u.lch ∧ t.phys = u.phys)
        ∧ t.slices[sl].lastP = some (h + wait, w.prom) ∧ t.hpt = s.hpt ∧ t.hclk = h
        ∧ (w.kind.isWrite = true → t.slices[sl].wFree = h + w.beats + stretch))
    ∧ (u.fresh w = false → ∃ t, exec (.transactionPresent sl ⟨h, wait, stretch, upset, window⟩) s = .next t ∧ t.hostOut = s.hostOut ∧ t.slices[sl].out = s.slices[sl].out
        ∧ t.hpt = { s.hpt with fenced := min 0xFFFFFFFF (s.hpt.fenced + 1) } ∧ (∀ m : Log, t.lch[m].qs = u.lch[m].qs) ∧ t.hclk = h)))
  ∧ (∀ (s : State) (sl : SliceN) (h : PresentAt), ∃ t, exec (.transactionPresent sl h) s = .next t ∧ s.hostOut <+: t.hostOut
      ∧ (∀ e ∈ t.hostOut.drop s.hostOut.length, s.map[e.2.t.log] = some e.2.t.phys ∧ s.inc e.2.t.log = e.2.t.inc)
      ∧ t.map = s.map ∧ t.fence = s.fence)

/-- The transaction of an outstanding list that a response names by its tag (R337). -/
def named (s : State) (sl : SliceN) (wr : Bool) (tag : BitVec 20) : Option Txn :=
  s.slices[sl].out.find? fun t => (t.kind.isWrite == wr) && t.hpTag == tag.toNat

/-- READ_RESPONSE on a slice that carries no earlier response: one that no outstanding read awaits is stray; one of a stale incarnation is discarded and counted; one for which the host-in FIFO and the return buffer have no room is refused and counted, and stays outstanding; otherwise it is no longer outstanding, its data or error reaches the read, fetch or LOCKED that asked for it, with the poison of parity errors of the store, and an error is counted; a LOCKED whose LOCK_READ fails, brings poison or changes nothing gives its lock back. RETURN_BUFFER_MOVE takes the next word of the next held response into the FIFO when there is room, one in each hclk; with its last word the response has landed (R326, R346 to R348, R352, R354, R355). -/
def Obligations.ReadResponsesReachTheirRead : Prop :=
  (∀ (s : State) (sl : SliceN) (tag : BitVec 20) (data : List RWord) (resp : BitVec 2) (h : Nat) (gaps upset : List Nat), s.pinsAt h = true → s.rBusy sl h = false →
    (named s sl false tag = none → exec (.readResponse sl tag data resp h ⟨gaps, upset⟩) s =
        .next { s with hclk := h, hpt := { s.hpt with stray := min 0xFFFFFFFF (s.hpt.stray + 1) } })
    ∧ (∀ w, named s sl false tag = some w → (resp ≠ 0 ∨ data.length = w.beats) →
      (s.inc w.log ≠ w.inc → ∃ t, exec (.readResponse sl tag data resp h ⟨gaps, upset⟩) s = .next t
        ∧ t.slices[sl].out = dropFirst (fun y => y.isEntry w) s.slices[sl].out ∧ t.hpt = { s.hpt with fenced := min 0xFFFFFFFF (s.hpt.fenced + 1) }
        ∧ (∀ m : Log, t.lch[m].qs = s.lch[m].qs) ∧ t.phys = s.phys ∧ t.hclk = h)
      ∧ (s.inc w.log = w.inc → w.own = .pidx → w.kind = .read → ∃ t, exec (.readResponse sl tag data resp h ⟨gaps, upset⟩) s = .next t
        ∧ t.slices[sl].out = dropFirst (fun y => y.isEntry w) s.slices[sl].out
        ∧ (t.que w.log w.q).prd.data = some (if resp ≠ 0 then none else data.head?.bind fun d =>
            if d.psn then none else some (field d.bytes ((s.que w.log w.q).cfg.pidxAddr % 64) 4))
        ∧ t.hpt.herr = (if resp ≠ 0 then min 0xFFFFFFFF (s.hpt.herr + 1) else s.hpt.herr) ∧ t.phys = s.phys ∧ sameOthers w.log s t ∧ sameSiblings w.log w.q s t)
      ∧ (∀ (id : Nat) (l m : List Fetch) (f : Fetch), s.inc w.log = w.inc → w.own = .ring id → w.kind = .read → f.id = id → (∀ g ∈ l, g.id ≠ id) →
          ∃ t, exec (.readResponse sl tag data resp h ⟨gaps, upset⟩) s = .next t ∧ t.slices[sl].out = dropFirst (fun y => y.isEntry w) s.slices[sl].out
          ∧ (let got : Fetch := { f with data := some (if resp ≠ 0 then none else data.head?, 2) }
            ((s.que w.log w.q).fetches = l ++ f :: m → (t.que w.log w.q).fetches = l ++ got :: m)
            ∧ ((s.que w.log w.q).refills = l ++ f :: m → (t.que w.log w.q).refills = l ++ got :: m))
          ∧ (t.que w.log w.q).acc = (s.que w.log w.q).acc ∧ t.hpt.herr = (if resp ≠ 0 then min 0xFFFFFFFF (s.hpt.herr + 1) else s.hpt.herr)
          ∧ t.phys = s.phys ∧ sameOthers w.log s t ∧ sameSiblings w.log w.q s t)
      ∧ (∀ f : Fetch, s.inc w.log = w.inc → w.own = .chain → w.kind = .read → (s.que w.log w.q).chain = some f →
          ∃ t, exec (.readResponse sl tag data resp h ⟨gaps, upset⟩) s = .next t ∧ t.slices[sl].out = dropFirst (fun y => y.isEntry w) s.slices[sl].out
          ∧ (t.que w.log w.q).chain = some { f with data := some (if resp ≠ 0 then none else data.head?, 2) }
          ∧ (t.que w.log w.q).fetches = (s.que w.log w.q).fetches ∧ (t.que w.log w.q).acc.map Acc.id = (s.que w.log w.q).acc.map Acc.id
          ∧ t.hpt.herr = (if resp ≠ 0 then min 0xFFFFFFFF (s.hpt.herr + 1) else s.hpt.herr)
          ∧ t.phys = s.phys ∧ sameOthers w.log s t ∧ sameSiblings w.log w.q s t)
      ∧ (∀ (id k : Nat) (a : Acc) (r : RTx), s.inc w.log = w.inc → w.own = .rd id k → w.kind = .lockRead → s.acc w.log w.q id = some a → a.d.op = 0x31 →
          a.x.reads[k]? = some r → r.stream = 6 → (id, k) ∉ (s.que w.log w.q).hin →
          ∃ v, exec (.readResponse sl tag data resp h ⟨gaps, upset⟩) s = .next (v.flow w.log w.q)
            ∧ v.slices[sl].out = dropFirst (fun y => y.isEntry w) s.slices[sl].out
            ∧ v.hpt.herr = (if resp ≠ 0 then min 0xFFFFFFFF (s.hpt.herr + 1) else s.hpt.herr)
            ∧ (resp ≠ 0 → v.phys[w.phys].locked = none ∧ (s.slices[sl].lock.ownedBy w = true → v.slices[sl].lock.held = false)
                ∧ ∃ b, v.acc w.log w.q id = some b ∧ b.lk = .errRead)
            ∧ (∀ d, resp = 0 → data.head? = some d →
              (d.psn = true → v.phys[w.phys].locked = none ∧ (s.slices[sl].lock.ownedBy w = true → v.slices[sl].lock.held = false)
                ∧ ∃ b, v.acc w.log w.q id = some b ∧ b.lk = .poisoned ∧ b.x.psnSeen = true)
              ∧ (d.psn = false → lockedNew a d = none → v.phys[w.phys].locked = none ∧ (s.slices[sl].lock.ownedBy w = true → v.slices[sl].lock.held = false)
                ∧ ∃ b, v.acc w.log w.q id = some b ∧ b.lk = .noWrite (field d.bytes (a.d.dst % 64) a.d.opw))
              ∧ (d.psn = false → (lockedNew a d).isSome = true → v.phys = s.phys
                ∧ (s.slices[sl].lock.ownedBy w = true → v.slices[sl].lock.held = true ∧ v.slices[sl].lock.answered = true)
                ∧ ∃ b, v.acc w.log w.q id = some b ∧ b.lk = a.lk ∧ b.x.lockPost = true))
            ∧ sameOthers w.log s v ∧ sameSiblings w.log w.q s v ∧ samePhys w.phys s v)
      ∧ (∀ (id k : Nat) (a : Acc) (r : RTx), s.inc w.log = w.inc → w.own = .rd id k → w.kind = .read → s.acc w.log w.q id = some a → a.x.reads[k]? = some r →
          r.stream < 4 ∨ 8 ≤ r.stream → r.st = .posted →
          (s.landing w.log w.q id k h = none → ∃ t, exec (.readResponse sl tag data resp h ⟨gaps, upset⟩) s = .next t
              ∧ t.hpt = { s.hpt with defer := min 0xFFFFFFFF (s.hpt.defer + 1) } ∧ t.rspOut = s.rspOut ++ [(sl, tag.toNat, true)]
              ∧ (∀ x : SliceN, t.slices[x] = { s.slices[x] with rdP := t.slices[x].rdP })
              ∧ t = { s with hclk := h, hpt := t.hpt, rspOut := t.rspOut, slices := t.slices, rdPorts := t.rdPorts })
          ∧ (∀ st, s.landing w.log w.q id k h = some st →
            let fifo := st == .landed || st == .held
            let bad := if fifo || a.d.isVec || decide (8 ≤ r.stream) then upset.filter (fun i => i < if a.d.isVec then 16 else data.length) else []
            ∃ v, exec (.readResponse sl tag data resp h ⟨gaps, upset⟩) s = .next (v.flow w.log w.q)
              ∧ v.slices[sl].out = dropFirst (fun y => y.isEntry w) s.slices[sl].out
              ∧ (∃ b, v.acc w.log w.q id = some b ∧ b.x.reads[k]? = some { r with
                    st := if resp ≠ 0 then .err else st,
                    data := if resp ≠ 0 then [] else if a.d.isVec then data else data.zipIdx.map fun (w, i) => { w with psn := w.psn || bad.contains i } }
                  ∧ (a.d.isVec = true → resp = 0 → b.x.badEls = a.x.badEls ++ bad))
              ∧ (resp ≠ 0 → (id, k) ∉ (v.que w.log w.q).hin) ∧ (resp = 0 → (v.que w.log w.q).hin = (s.que w.log w.q).hin)
              ∧ v.hpt.herr = (if resp ≠ 0 then min 0xFFFFFFFF (s.hpt.herr + 1) else s.hpt.herr)
              ∧ (bad = [] ∨ resp ≠ 0 → v.phys = s.phys) ∧ samePhys w.phys s v ∧ v.rspOut = s.rspOut ++ [(sl, tag.toNat, false)]
              ∧ (bad ≠ [] → resp = 0 → v.phys[w.phys].c.parErr = min 0xFFFF (s.phys[w.phys].c.parErr + bad.length)
                  ∧ v.phys[w.phys].c.lastArea = (if fifo then 5 else if a.d.isVec then 3 else 0))
              ∧ sameOthers w.log s v ∧ sameSiblings w.log w.q s v))))
  ∧ (∀ (s : State) (n : Log) (p : Phys) (q : Qn) (x : Nat × Nat) (r : RTx) (h : Nat), s.on = true → s.logOf p = some n → (s.runP n).isSome = true → s.hclk ≤ h → (s.que n q).moveH ≤ h →
      (s.que n q).hin.find? (fun x => ((s.que n q).readAt x).any fun r => r.st == .held) = some x → (s.que n q).readAt x = some r →
      (s.que n q).nextIn x = true → s.hinRoom n q h 1 = true →
      ∃ v, exec (.returnBufferMove p ⟨q, h⟩) s = .next (v.flow n q) ∧ (v.que n q).hin = (s.que n q).hin
        ∧ (v.que n q).readAt x = some { r with moved := r.moved + 1, st := if r.moved + 1 < r.words then .held else .landed }
        ∧ (v.que n q).moveH = h + 1 ∧ v = { s with lch := v.lch, hclk := h } ∧ sameOthers n s v ∧ sameSiblings n q s v)

/-- WRITE_RESPONSE, one in an hclk on a slice: one that no outstanding write awaits is stray; one of a stale incarnation is discarded and counted; otherwise the write is no longer outstanding and has its outcome, an error is counted, the response of a LOCK_WRITE frees the slice's lock and settles the LOCKED, or the take of a PARTITION, and a completion record that is visible behind all before it raises what it owes, or waits for room in the backlogs; one whose write failed is counted and owes FAULT in place of DONE (R136, R269, R335, R350, R352, R354, R355, R359, R431, R462, R485). That a group whose record write fails still raises GROUP is the model's choice (log 41). -/
def Obligations.WriteResponsesSettleTheirWrite : Prop :=
  ∀ (s : State) (sl : SliceN) (tag : BitVec 20) (resp : BitVec 2) (h : Nat), s.pinsAt h = true → s.slices[sl].lastB ≠ some h →
    (named s sl true tag = none → exec (.writeResponse sl tag resp h) s =
        .next { (s.modS sl fun x => { x with lastB := some h }) with hclk := h, hpt := { s.hpt with stray := min 0xFFFFFFFF (s.hpt.stray + 1) } })
    ∧ (∀ w, named s sl true tag = some w →
      let herr := if resp ≠ 0 then min 0xFFFFFFFF (s.hpt.herr + 1) else s.hpt.herr
      (s.inc w.log ≠ w.inc → ∃ t, exec (.writeResponse sl tag resp h) s = .next t
        ∧ t.slices[sl].out = dropFirst (fun y => y.isEntry w) s.slices[sl].out ∧ t.hpt = { s.hpt with fenced := min 0xFFFFFFFF (s.hpt.fenced + 1) }
        ∧ (∀ m : Log, t.lch[m].qs = s.lch[m].qs) ∧ t.phys = s.phys ∧ t.hclk = h)
      ∧ (∀ (id k : Nat) (a : Acc) (x : WTx), s.inc w.log = w.inc → w.own = .wr id k → w.kind = .write → s.acc w.log w.q id = some a → a.x.writes[k]? = some x →
          ∃ v, exec (.writeResponse sl tag resp h) s = .next (v.flow w.log w.q)
            ∧ v.slices[sl].out = dropFirst (fun y => y.isEntry w) s.slices[sl].out
            ∧ (∃ b, v.acc w.log w.q id = some b ∧ b.x.writes[k]? = some { x with st := if resp ≠ 0 then .err else .ok }
                ∧ (resp ≠ 0 → a.d.isVec = false → b.x.flt.isSome = true) ∧ (resp = 0 → b.x.flt = a.x.flt))
            ∧ v.hpt.herr = herr ∧ v.phys = s.phys ∧ sameOthers w.log s v ∧ sameSiblings w.log w.q s v)
      ∧ (∀ (id k : Nat) (a : Acc), s.inc w.log = w.inc → w.own = .wr id k → w.kind = .lockWrite → s.slices[sl].lock.ownedBy w = true →
          s.acc w.log w.q id = some a → a.d.op ≠ 0x28 → ∃ v, exec (.writeResponse sl tag resp h) s = .next (v.flow w.log w.q)
            ∧ v.slices[sl].lock.held = false ∧ v.phys[w.phys].locked = none
            ∧ (∃ b o, v.acc w.log w.q id = some b ∧ b.lk = (if resp ≠ 0 then .errWrite o else .written o))
            ∧ v.hpt.herr = herr ∧ samePhys w.phys s v ∧ sameOthers w.log s v ∧ sameSiblings w.log w.q s v)
      ∧ (∀ (r : Rec) (rs : List Rec), s.inc w.log = w.inc → w.own = .rcd r.n → (s.que w.log w.q).recs = r :: rs → resp = 0 → (∀ y ∈ rs, y.seen = false) → s.lch[w.log].roomFor r = true →
          let put (b : Bool) (l : List Evt) : List Evt := if b then insertEvt ⟨r.dg, s.aclk, r.ord⟩ l else l
          ∃ t, exec (.writeResponse sl tag resp h) s = .next t ∧ t.slices[sl].out = dropFirst (fun y => y.isEntry w) s.slices[sl].out
            ∧ (t.que w.log w.q).recs = rs
            ∧ t.lch[w.log].outs[0] = put r.done s.lch[w.log].outs[0]
            ∧ t.lch[w.log].outs[1] = put r.fault s.lch[w.log].outs[1] ∧ t.lch[w.log].outs[2] = put r.group s.lch[w.log].outs[2]
            ∧ (s.tap.drives = false → t.linkOut = (if r.ack then s.linkOut ++ [(w.log, .ack w.q r.seq 1)] else s.linkOut))
            ∧ t.hpt = s.hpt ∧ t.phys = s.phys ∧ sameOthers w.log s t ∧ sameSiblings w.log w.q s t)
      ∧ (∀ (id k : Nat) (a : Acc) (b : Bed) (x : Take), s.inc w.log = w.inc → w.own = .wr id k → w.kind = .lockWrite → s.acc w.log w.q id = some a → a.d.op = 0x28 →
          s.lch[w.log].bed = some b → b.takes.getLast? = some x → ∃ v, exec (.writeResponse sl tag resp h) s = .next (v.flow w.log w.q)
            ∧ v.phys[w.phys].locked = none ∧ (s.slices[sl].lock.ownedBy w = true → v.slices[sl].lock.held = false)
            ∧ (v.lch[w.log].bed.map Bed.takes) = some (b.takes.dropLast ++ [{ x with out :=
                if resp ≠ 0 ∨ (x.ids.any fun i => i ≥ b.pchunks || i ≥ 2 ^ 23) = true then .unknown else .taken }])
            ∧ v.hpt.herr = herr ∧ samePhys w.phys s v ∧ sameOthers w.log s v ∧ sameSiblings w.log w.q s v)
      ∧ (∀ (r : Rec) (rs : List Rec), s.inc w.log = w.inc → w.own = .rcd r.n → (s.que w.log w.q).recs = r :: rs → resp ≠ 0 → (∀ y ∈ rs, y.seen = false) →
          s.lch[w.log].roomFor { r with done := false, fault := true } = true →
          let put (b : Bool) (l : List Evt) : List Evt := if b then insertEvt ⟨r.dg, s.aclk, r.ord⟩ l else l
          ∃ t, exec (.writeResponse sl tag resp h) s = .next t ∧ t.slices[sl].out = dropFirst (fun y => y.isEntry w) s.slices[sl].out
            ∧ (t.que w.log w.q).recs = rs ∧ t.lch[w.log].outs[0] = s.lch[w.log].outs[0]
            ∧ t.lch[w.log].outs[1] = put true s.lch[w.log].outs[1] ∧ t.lch[w.log].outs[2] = put r.group s.lch[w.log].outs[2]
            ∧ t.linkOut = (if r.ack then s.linkOut ++ [(w.log, .ack w.q r.seq 1)] else s.linkOut)
            ∧ t.phys[w.phys].c = { s.phys[w.phys].c with cringFails := min 0xFFFF (s.phys[w.phys].c.cringFails + 1) }
            ∧ t.hpt.herr = herr ∧ samePhys w.phys s t ∧ sameOthers w.log s t ∧ sameSiblings w.log w.q s t)
      ∧ (∀ (r : Rec) (ls rs : List Rec), s.inc w.log = w.inc → w.own = .rcd r.n → (s.que w.log w.q).recs = ls ++ r :: rs → ls ≠ [] →
          (∀ y ∈ ls, y.n ≠ r.n ∧ y.seen = false) → resp = 0 → ∃ t, exec (.writeResponse sl tag resp h) s = .next t
            ∧ (t.que w.log w.q).recs = ls ++ { r with seen := true } :: rs
            ∧ t.lch[w.log].outs = s.lch[w.log].outs ∧ t.linkOut = s.linkOut ∧ t.hpt = s.hpt ∧ t.phys = s.phys
            ∧ sameOthers w.log s t ∧ sameSiblings w.log w.q s t)
      ∧ (∀ (r : Rec) (rs : List Rec), s.inc w.log = w.inc → w.own = .rcd r.n → (s.que w.log w.q).recs = r :: rs → resp = 0 → s.lch[w.log].roomFor r = false →
          ∃ t, exec (.writeResponse sl tag resp h) s = .next t ∧ (t.que w.log w.q).recs = { r with seen := true } :: rs
            ∧ t.lch[w.log].outs = s.lch[w.log].outs ∧ t.linkOut = s.linkOut ∧ t.hpt = s.hpt ∧ t.phys = s.phys
            ∧ sameOthers w.log s t ∧ sameSiblings w.log w.q s t))

/-- LOCK_LEASE_EXPIRY breaks a lock whose lease has run out, with cause 2 and its record; STARVE marks an unpromised entry that has waited too long, to its grant if it is granted, once, with its queue's bit and record; SLICE_WD takes the staging path from a channel without a beat for 1,024 hclk, counts the bite, posts its record and reports the channel (R359, R360, R389, R392, R393). -/
def Obligations.LocksAndWaitsExpire : Prop :=
  (∀ (s : State) (sl : SliceN) (h l : Nat), s.on = true → s.hclk ≤ h → s.slices[sl].lock.held = true → s.slices[sl].lock.granted = false →
    s.leaseStart sl h = some l → l + s.hpt.lease ≤ h → ∃ w : State, exec (.lockLeaseExpiry sl h) s = .next
        (w.post 0x17 1 sl (leBytes 1 s.slices[sl].lock.owner ++ leBytes 1 s.slices[sl].lock.inc ++ leBytes 1 2))
      ∧ w.slices[sl] = { s.slices[sl] with lock := { broken := true, cause := 2 } } ∧ (∀ x : SliceN, x ≠ sl → w.slices[x] = s.slices[x])
      ∧ w.hpt = { s.hpt with lbreak := min 0xFFFFFFFF (s.hpt.lbreak + 1) } ∧ w = { s with hclk := h, slices := w.slices, hpt := w.hpt })
  ∧ (∀ (s : State) (p : Phys) (entry : Fin 8) (e : Txn), s.phys[p].pend[entry.val]? = some e → e.prom = false → e.starved = false →
    e.postA + s.arb.limit < (if e.granted then e.presA else s.aclk) → ∃ w : State, exec (.starve p entry) s = .next (w.post 0x21 1 e.log (leBytes 1 (sliceOf e.addr)) e.q)
      ∧ w.phys[p].pend[entry.val]? = some { e with starved := true } ∧ w.phys[p].pend.length = s.phys[p].pend.length
      ∧ w.arb.starve.getLsbD (4 * e.log.val + e.q.val) = true ∧ w.arb.starveCnt = min 0xFFFFFFFF (s.arb.starveCnt + 1)
      ∧ w = { s with phys := w.phys, arb := w.arb } ∧ samePhys p s w)
  ∧ (∀ (s : State) (sl : SliceN) (h : Nat) (y : Hold), s.on = true → s.hclk ≤ h → s.slices[sl].hold = some y →
    (s.slices[sl].times y).length < y.t.beats ∨ h ≤ (s.slices[sl].times y).getLast?.getD 0 → 1024 ≤ s.slices[sl].idle h →
    ∃ t, exec (.sliceWd sl h) s = .next t ∧ t.slices[sl].hold = none ∧ t.arb.bites = min 0xFFFFFFFF (s.arb.bites + 1)
      ∧ (s.phys[y.t.phys].st ≠ .quarantined → t.arb.wdBite = true ∧ t.arb.wdSlice = sl.val ∧ t.arb.wdPhys = y.t.phys.val)
      ∧ ((s.phys[y.t.phys].st.monitored || s.phys[y.t.phys].st == .dormant) = true → s.phys[y.t.phys].dieA = none → t.phys[y.t.phys].dieA = some (s.aclk, 3))
      ∧ (y.t.preemptible = true → t.phys[y.t.phys].pend = dropFirst (fun e => e.isEntry y.t) s.phys[y.t.phys].pend)
      ∧ (∀ x : SliceN, x ≠ sl → t.slices[x] = s.slices[x]) ∧ samePhys y.t.phys s t
      ∧ t = { s with hclk := h, slices := t.slices, phys := t.phys, arb := t.arb, ldg := t.ldg })

/-! ## Sparing, sleep and test -/

/-- LIVENESS_PERIOD: a monitored channel without its pulse counts one more missed period and one with it counts none; while none reaches three, nothing is declared. The third miss of one serving channel declares it, unless a command of the same aclk is undone first: it is QUARANTINED behind its closed gate with no pending entry, the incarnation of what it served advances, and the terrace's free reserve is aimed at that logical channel, which is left unserved when there is none; of two that die in one aclk the lower logical channel takes it. A RESET of the same aclk neither hides the third miss nor stands: it fails with TAKEOVER. PARITY_REPORT is noted for the next aclk, and an error of the cursor table counts in area 2; one that a journal entry shows outside a restore is counted, and an uncorrectable one posted once and kept with the entry (R33, R34, R49, R331, R509 to R518, R654). That a SWAP which holds the reserve leaves the dead channel's logical channel unserved is the model's choice (log 47). -/
def Obligations.MissedPulsesQuarantine : Prop :=
  (∀ (s : State) (failed : List Phys) (h : Nat), s.on = true → s.hclk ≤ h → s.gate.locked = true → s.aclk % 16 = 0 → s.lastLive ≠ some s.aclk →
    ∀ z : State, z = ({ s with hclk := h } : State).settled h →
    ((∀ p : Phys, s.phys[p].missed < 2) → ∃ t, exec (.livenessPeriod failed h) s = .next t ∧ t.lastLive = some s.aclk ∧ t.map = s.map ∧ t.fence = s.fence
      ∧ t.lch = z.lch ∧ (∀ p : Phys, t.phys[p].st = s.phys[p].st ∧ t.phys[p].gate = s.phys[p].gate
          ∧ t.phys[p].missed = (if s.phys[p].st.monitored && !s.ters[terP p].stopped && decide (s.phys[p].monA < s.aclk ∧ s.ters[terP p].runA < s.aclk)
              then (if z.noPulse failed p then s.phys[p].missed + 1 else 0) else s.phys[p].missed)))
    ∧ (∀ (p : Phys) (n : Log), s.phys[p].missed = 2 → s.phys[p].monA < s.aclk → s.ters[terP p].runA < s.aclk → s.phys[p].st.monitored = true → s.phys[p].st ≠ .reserve →
        s.ters[terP p].stopped = false → z.noPulse failed p = true → s.logOf p = some n →
        (∀ r : Phys, r ≠ p → s.phys[r].missed < 2) →
        (s.ters[terL n].cmd.any fun c => c.at_ == s.aclk) = false → (s.lch[n].retReq.any fun r => r.at_ == s.aclk) = false →
        let x := s.ters[terP p]
        let later : Bool := x.tko.any fun k => !k.swap && k.at_ == s.aclk && decide (n < k.log)
        ∃ t, exec (.livenessPeriod failed h) s = .next t ∧ t.phys[p].st = .quarantined ∧ t.phys[p].gate = false ∧ t.phys[p].pend = []
          ∧ t.inc n = (s.inc n + 1) % 16 ∧ (∀ m : Log, m ≠ n → t.inc m = s.inc m)
          ∧ (t.ters[terP p].lastPhys, t.ters[terP p].lastLog, t.ters[terP p].lastCause) = (p.val, n.val, 1) ∧ t.gate.dead.getLsbD (terP p).val = true
          ∧ (∀ r, x.reserve = some r → x.busy = false ∨ later = true → t.ters[terP p].busy = true
              ∧ (t.ters[terP p].tko.map fun k => (k.log, k.new, k.old)) = some (n, r, p.val)
              ∧ (x.busy = false → t.map = s.map) ∧ (∀ k, x.busy = true → x.tko = some k → t.map = s.map.set k.log none ∧ t.ters[terL k.log].noRes = true))
          ∧ (x.reserve = none ∨ x.busy = true ∧ later = false → t.map = s.map.set n none ∧ t.ters[terL n].noRes = true)
          ∧ (∀ r : Phys, r ≠ p → t.phys[r].st = s.phys[r].st) ∧ (x.reserve = none ∨ x.busy = false ∨ later = false → sameOthers n z t))
    ∧ (∀ (p : Phys) (n : Log) (x : PreRst) (c : SvcCmd), s.phys[p].preRst = some x → x.at_ = s.aclk → s.phys[p].missed = 2 →
        s.phys[p].st = .waking → s.phys[p].monA < s.aclk → s.ters[terP p].runA < s.aclk → s.ters[terP p].stopped = false → z.noPulse failed p = true → s.logOf p = some n →
        (∀ r : Phys, r ≠ p → s.phys[r].missed < 2) →
        s.ters[terL n].cmd = some c → c.op = 4 → c.at_ = s.aclk → c.logs = [n.val] → s.lch[n].retReq = none →
        ∃ t, exec (.livenessPeriod failed h) s = .next t ∧ t.phys[p].st = .quarantined ∧ t.inc n = s.inc n % 16
          ∧ t.ters[terL n].cmd = none ∧ t.ters[terL n].sfail = true ∧ t.ters[terL n].result = 4))
  ∧ (∀ (s : State) (p : Phys) (cursor : Bool), s.on = true → ∃ t, exec (.parityReport (if cursor then .cursor p else .control p)) s = .next t ∧ t.phys[p].parity = true
      ∧ (cursor = true → t.phys[p].c.parErr = min 0xFFFF (s.phys[p].c.parErr + 1) ∧ t.phys[p].c.lastArea = 2) ∧ (cursor = false → t.phys[p].c = s.phys[p].c)
      ∧ (s.phys[p].dieA = none → (s.phys[p].st.monitored || s.phys[p].st == .dormant) = true → t.phys[p].dieA = some (s.aclk, 2))
      ∧ t.phys[p].st = s.phys[p].st ∧ samePhys p s t ∧ t = { s with phys := t.phys })
  ∧ (∀ (s : State) (n : Log), s.gate.locked = true →
      (s.jbad[n] = none → ∃ w : State, exec (.parityReport (.journal n .uncorrectable)) s =
          .next { (w.post 0x14 0 n (leBytes 1 (terL n))) with jbad := s.jbad.set n (some s.lch[n]) }
        ∧ w.ters[terL n] = { s.ters[terL n] with jue := true, juec := min 0xFFFF (s.ters[terL n].juec + 1) }
        ∧ (∀ x : Ter, x ≠ terL n → w.ters[x] = s.ters[x]) ∧ w = { s with ters := w.ters })
      ∧ (s.jbad[n].isSome = true → exec (.parityReport (.journal n .uncorrectable)) s = .next s)
      ∧ (∀ k : Nat, ∃ t, exec (.parityReport (.journal n (.corrected k))) s = .next t
        ∧ t.ters[terL n] = { s.ters[terL n] with jecc := min 0xFFFF (s.ters[terL n].jecc + k) }
        ∧ (∀ x : Ter, x ≠ terL n → t.ters[x] = s.ters[x]) ∧ t = { s with ters := t.ters }))

/-- TAKEOVER_COMMIT with a sound journal gives the logical channel to the reserve, which is then ACTIVE, or DRAINING under a channel drain, and no longer a reserve; its CMD queues in service announce themselves with RESUME; an uncorrectable journal entry, found now or before, leaves it unserved. RESTORE_COMPLETE ends a reset or return the same way, once the scrub and a wake are over (R32, R77, R142, R143, R518, R519, R625). -/
def Obligations.RestoresEndInService : Prop :=
  (∀ (s : State) (t : Ter) (k : Tko) (j : JErr) (bad : List Qn), s.ters[t].tko = some k → s.phys[k.new].st = .reserve →
    (j ≠ .uncorrectable → s.jbad[k.log] = none → ∃ u, exec (.takeoverCommit t ⟨j, bad⟩) s = .next u ∧ u.map = s.map.set k.log (some k.new) ∧ u.fence = s.fence
      ∧ u.phys[k.new].st = (if s.lch[k.log].drain then .draining else .active) ∧ u.phys[k.new].gate = true ∧ u.phys[k.new].missed = s.phys[k.new].missed
      ∧ u.ters[t].reserve = none ∧ u.ters[t].tko = none ∧ u.ters[t].busy = false ∧ samePhys k.new s u ∧ sameOthers k.log s u
      ∧ (k.swap = false → u.ters[t].takeovers = min 0xFFFFFFFF (s.ters[t].takeovers + 1))
      ∧ (∀ q : Qn, (u.que k.log q).acc.map Acc.id = (s.que k.log q).acc.map Acc.id ∧ (u.que k.log q).lastAcc = (s.que k.log q).lastAcc
          ∧ (u.que k.log q).lastRet = (s.que k.log q).lastRet)
      ∧ (k.swap = false → s.returning k.log = false → s.on = true → s.tap.drives = false →
          ∀ q : Qn, (s.que k.log q).st ≠ .disabled → (s.que k.log q).cfg.ring = false →
            ∃ replay, (k.log, .resume q (s.que k.log q).lastAcc true replay (s.inc k.log) (s.que k.log q).lastRet (s.que k.log q).cfg.window
              (if (s.que k.log q).cfg.stream then 0 else (s.que k.log q).cfg.initWords)) ∈ u.linkOut))
    ∧ (j = .uncorrectable ∨ s.jbad[k.log].isSome = true → k.swap = false → ∃ u, exec (.takeoverCommit t ⟨j, bad⟩) s = .next u ∧ u.map = s.map.set k.log none
      ∧ u.ters[t].tko = none ∧ u.ters[t].busy = false ∧ u.ters[t].reserve = s.ters[t].reserve ∧ (s.jbad[k.log] = none → u.ters[terL k.log].jue = true) ∧ u.jbad[k.log] = none ∧ u.ters[terL k.log].noRes = true
      ∧ u.phys = s.phys ∧ u.fence = s.fence ∧ sameOthers k.log s u))
  ∧ (∀ (s : State) (p : Phys) (n : Log) (j : JErr) (bad : List Qn), s.on = true → s.logOf p = some n → s.phys[p].st = .waking → s.phys[p].wakeFor ≠ .dormant →
    s.phys[p].scrub = false → s.phys[p].woken s.aclk = true →
    (j ≠ .uncorrectable → s.jbad[n] = none → ∃ u, exec (.restoreComplete p ⟨j, bad⟩) s = .next u
      ∧ u.phys[p].st = (if s.lch[n].drain || s.phys[p].toDrain then .draining else .active) ∧ u.phys[p].toDrain = false ∧ u.map = s.map ∧ u.fence = s.fence
      ∧ samePhys p s u ∧ sameOthers n s u)
    ∧ (j = .uncorrectable ∨ s.jbad[n].isSome = true → ∃ u, exec (.restoreComplete p ⟨j, bad⟩) s = .next u ∧ u.phys[p].st = .quarantined ∧ u.phys[p].gate = false
      ∧ u.map = s.map.set n none ∧ (s.jbad[n] = none → u.ters[terL n].jue = true) ∧ u.jbad[n] = none ∧ u.ters[terL n].noRes = true ∧ u.fence = s.fence ∧ samePhys p s u ∧ sameOthers n s u))

/-- IDLE_PERIOD_ELAPSE begins the dormant entry of a channel quiet for its limit, DORMANT_ENTRY ends it, WAKE_COMPLETE ends the wake of 24 aclk, TERRACE_CLOCK_STOP stops the tree of a terrace asleep for 8 aclk, and SCRUB_COMPLETE clears a store and counts the parity errors of its verification, which at a terrace's reserve position makes the reserve and after a RECLAIM puts the channel there (R326, R332, R528, R622, R623, R625, R627, R653). -/
def Obligations.SleepAndScrubTransitions : Prop :=
  ∀ (s : State) (p : Phys), s.on = true →
    (∀ n : Log, s.logOf p = some n →
      (s.phys[p].st = .active → s.phys[p].entry = 0 → 0 < s.lch[n].port.idle → s.lch[n].port.idle ≤ s.phys[p].quiet →
        ∃ t, exec (.idlePeriodElapse p) s = .next t ∧ t.phys[p] = { s.phys[p] with entry := s.aclk + 1 } ∧ samePhys p s t ∧ t = { s with phys := t.phys })
      ∧ (∀ k, s.phys[p].st = .waking → s.phys[p].wakeFor = .dormant → s.phys[p].wakeA = some k → k + 24 ≤ s.aclk → ∃ t, exec (.wakeComplete p) s = .next t
        ∧ t.phys[p].st = (if s.lch[n].drain || s.phys[p].toDrain then .draining else .active) ∧ t.phys[p].wakeA = none
        ∧ t.phys[p].c = { s.phys[p].c with wakes := min 0xFFFFFFFF (s.phys[p].c.wakes + 1) } ∧ samePhys p s t ∧ sameOthers n s t
        ∧ t = { s with phys := t.phys, lch := t.lch, nextId := t.nextId }))
    ∧ (s.phys[p].st = .active → 0 < s.phys[p].entry → s.phys[p].entry - 1 + s.step1 (terP p) ≤ s.aclk → ∃ t, exec (.dormantEntry p) s = .next t
        ∧ t.phys[p] = { s.phys[p] with st := .dormant, entry := 0, quiet := 0, c := { s.phys[p].c with entries := min 0xFFFF (s.phys[p].c.entries + 1) } }
        ∧ samePhys p s t ∧ t = { s with phys := t.phys })
    ∧ (∀ t : Ter, s.ters[t].stopped = false → 8 ≤ s.ters[t].asleepA → s.asleep t = true → ∃ u, exec (.terraceClockStop t) s = .next u
        ∧ u.ters[t] = { s.ters[t] with stopped := true, clkstops := min 0xFFFFFFFF (s.ters[t].clkstops + 1) }
        ∧ (∀ x : Ter, x ≠ t → u.ters[x] = s.ters[x]) ∧ u = { s with ters := u.ters })
    ∧ (∀ upset : List (BitVec 11), s.phys[p].scrub = true → ∃ t, exec (.scrubComplete ⟨p, upset⟩) s = .next t ∧ t.phys[p].scrub = false ∧ t.phys[p].scrubbed = true
        ∧ t.phys[p].kept = none ∧ samePhys p s t
        ∧ (s.phys[p].st = .off → s.ters[terP p].reserve = some p → t.phys[p].st = .reserve ∧ t.phys[p].missed = 0 ∧ t.ters = s.ters)
        ∧ (s.phys[p].st = .quarantined → (s.ters[terP p].cmd.any fun k => k.op == 6 && k.phys = p.val) = true →
            t.phys[p].st = .reserve ∧ t.phys[p].gate = true ∧ t.phys[p].c = {} ∧ t.edge.phys[p] = {} ∧ t.ters[terP p].reserve = some p ∧ t.ters[terP p].cmd = none
              ∧ t.ters[terP p].sdone = true)
        ∧ (s.phys[p].st ≠ .off → s.phys[p].st ≠ .quarantined → t.phys[p].st = s.phys[p].st ∧ t.ters = s.ters
            ∧ (upset ≠ [] → t.phys[p].c.parErr = min 0xFFFF (s.phys[p].c.parErr + upset.length)) ∧ (upset = [] → t.phys[p].c = s.phys[p].c))
        ∧ t = { s with phys := t.phys, ters := t.ters, ldg := t.ldg, edge := t.edge })

/-- Instructions of the test port that act as BYPASS after lock without TEST_OPEN (R552). -/
def closedTests : List Instr := [.clampIdle, .scan, .mbist]

/-- IDCODE reads 0x2, 0x0136, jt_mfr and 1 from bit 31 down. -/
def Obligations.IdentificationRegister : Prop :=
  ∀ s : State, ∃ t, exec .idcode s = .next t ∧ t.tap.ir = .idcode ∧ t.tap.dr.extractLsb' 28 4 = 0x2#4 ∧ t.tap.dr.extractLsb' 12 16 = 0x0136#16
    ∧ t.tap.dr.extractLsb' 1 11 = s.tap.mfr ∧ t.tap.dr.getLsbD 0 = true ∧ t = { s with tap := t.tap }

/-- The test port: JT_TRST makes IDCODE current, EXTEST drives and SAMPLE_PRELOAD preloads the wrapper word, and both capture; CLAMP_IDLE, SCAN, MBIST and STORE_RD have their function only while the port is open to them and act as BYPASS otherwise. SCAN leaves the pins, the TAP, the key registers and what was driven (the functional state after it is free); MBIST runs on the stores of OFF and QUARANTINED channels, and its end gives each its two bits; STORE_RD reads zeros from a scrubbed store and is refused elsewhere (R552, R696 to R701). That JT_TRST selects IDCODE is the model's choice (PRESUMED, IEEE 1149.1). -/
def Obligations.TestPortInstructions : Prop :=
  (∀ s : State, exec .jtTrst s = .next { s with tap := { s.tap with ir := .idcode } })
  ∧ (∀ s : State, exec .bypass s = .next { s with tap := { s.tap with ir := .bypass } })
  ∧ (∀ (s : State) (w : BitVec 90992), ∃ t, exec (.extest w) s = .next t ∧ t.tap.ir = .extest ∧ t.tap.drives = true ∧ t.tap.wrap = w
      ∧ (∀ i : Nat, inCells.getLsbD i = false → t.tap.cap.getLsbD i = w.getLsbD i) ∧ t = { s with tap := t.tap, free := s.free + 1 })
  ∧ (∀ (s : State) (w : BitVec 90992), ∃ t, exec (.samplePreload w) s = .next t ∧ t.tap.ir = .sample ∧ t.tap.drives = false ∧ t.tap.wrap = w
      ∧ t = { s with tap := t.tap, free := s.free + 1 })
  ∧ (∀ (s : State) (c : Instr), c ∈ closedTests → s.gate.locked = true → s.gate.testOpen = false →
      exec c s = .next { s with tap := { s.tap with ir := .bypass } })
  ∧ (∀ (s : State) (phys : Byte) (word : BitVec 11), s.gate.locked = true → s.gate.testOpen = false →
      exec (.storeRd phys word) s = .next { s with tap := { s.tap with ir := .bypass } })
  ∧ (∀ s : State, s.gate.locked = false ∨ s.gate.testOpen = true →
      exec .clampIdle s = .next { s with tap := { s.tap with ir := .clampIdle } }
      ∧ (∃ t, exec .scan s = .next t ∧ t.tap = { s.tap with ir := .scan } ∧ t.pending = s.pending ∧ (t.porN, t.hrstN, t.vddCore) = (s.porN, s.hrstN, s.vddCore)
          ∧ t.linkOut = s.linkOut ∧ t.hostOut = s.hostOut ∧ t.evOut = s.evOut ∧ t.ldg.key = s.ldg.key ∧ t.gate.key = s.gate.key
          ∧ ∀ n : Log, t.lch[n].lkWake = s.lch[n].lkWake)
      ∧ (s.on = true → ∃ t, exec .mbist s = .next t ∧ t.tap.ir = .mbist ∧ t.tap.mbist = 0
          ∧ (∀ p : Phys, p ∈ t.tap.running ↔ s.phys[p].st = .off ∨ s.phys[p].st = .quarantined) ∧ t = { s with tap := t.tap })
      ∧ (∀ (phys : Byte) (word : BitVec 11), ∃ t, exec (.storeRd phys word) s = .next t ∧ t.tap.ir = .storeRd
          ∧ t.tap.store.extractLsb' 0 8 = phys ∧ t.tap.store.extractLsb' 8 11 = word ∧ t.tap.store.extractLsb' 19 521 = 0#521
          ∧ (t.tap.store.getLsbD 540 = false ↔ ∃ p : Phys, p.val = phys.toNat ∧ (s.phys[p].st = .off ∨ s.phys[p].st = .quarantined) ∧ s.phys[p].scrubbed = true)
          ∧ t = { s with tap := t.tap }))
  ∧ (∀ (s : State) (pass : List Phys), s.on = true → s.tap.running ≠ [] → ∃ t, exec (.mbistComplete pass) s = .next t ∧ t.tap.running = []
      ∧ (∀ p : Phys, t.tap.mbist.getLsbD (2 * p.val) = (s.tap.running.contains p && s.phys[p].st.closed)
          ∧ t.tap.mbist.getLsbD (2 * p.val + 1) = (s.tap.running.contains p && s.phys[p].st.closed && pass.contains p)
          ∧ t.phys[p] = (if s.tap.running.contains p && s.phys[p].st.closed then { s.phys[p] with scrubbed := true } else s.phys[p]))
      ∧ t = { s with tap := t.tap, phys := t.phys })
end

