-- ==== Sys2Proof/Laws/State.lean ====
section
/-! SUPPORT. What the updates of State leave alone, one lemma for each field and update, and what they change: the entry that they name. -/

namespace Sys2Proof.Machine

variable (s : State)

/-! ## `modP` -/

@[simp] theorem State.modP_porN (p : Phys) (f : PCh → PCh) : (s.modP p f).porN = s.porN := rfl
@[simp] theorem State.modP_hrstN (p : Phys) (f : PCh → PCh) : (s.modP p f).hrstN = s.hrstN := rfl
@[simp] theorem State.modP_vddCore (p : Phys) (f : PCh → PCh) : (s.modP p f).vddCore = s.vddCore := rfl
@[simp] theorem State.modP_aclk (p : Phys) (f : PCh → PCh) : (s.modP p f).aclk = s.aclk := rfl
@[simp] theorem State.modP_hclk (p : Phys) (f : PCh → PCh) : (s.modP p f).hclk = s.hclk := rfl
@[simp] theorem State.modP_gate (p : Phys) (f : PCh → PCh) : (s.modP p f).gate = s.gate := rfl
@[simp] theorem State.modP_ldg (p : Phys) (f : PCh → PCh) : (s.modP p f).ldg = s.ldg := rfl
@[simp] theorem State.modP_svc (p : Phys) (f : PCh → PCh) : (s.modP p f).svc = s.svc := rfl
@[simp] theorem State.modP_arb (p : Phys) (f : PCh → PCh) : (s.modP p f).arb = s.arb := rfl
@[simp] theorem State.modP_hpt (p : Phys) (f : PCh → PCh) : (s.modP p f).hpt = s.hpt := rfl
@[simp] theorem State.modP_sun (p : Phys) (f : PCh → PCh) : (s.modP p f).sun = s.sun := rfl
@[simp] theorem State.modP_slices (p : Phys) (f : PCh → PCh) : (s.modP p f).slices = s.slices := rfl
@[simp] theorem State.modP_fence (p : Phys) (f : PCh → PCh) : (s.modP p f).fence = s.fence := rfl
@[simp] theorem State.modP_map (p : Phys) (f : PCh → PCh) : (s.modP p f).map = s.map := rfl
@[simp] theorem State.modP_doms (p : Phys) (f : PCh → PCh) : (s.modP p f).doms = s.doms := rfl
@[simp] theorem State.modP_rf (p : Phys) (f : PCh → PCh) : (s.modP p f).rf = s.rf := rfl
@[simp] theorem State.modP_ters (p : Phys) (f : PCh → PCh) : (s.modP p f).ters = s.ters := rfl
@[simp] theorem State.modP_lch (p : Phys) (f : PCh → PCh) : (s.modP p f).lch = s.lch := rfl
@[simp] theorem State.modP_linkIvl (p : Phys) (f : PCh → PCh) : (s.modP p f).linkIvl = s.linkIvl := rfl
@[simp] theorem State.modP_rdPorts (p : Phys) (f : PCh → PCh) : (s.modP p f).rdPorts = s.rdPorts := rfl
@[simp] theorem State.modP_lastLive (p : Phys) (f : PCh → PCh) : (s.modP p f).lastLive = s.lastLive := rfl
@[simp] theorem State.modP_edge (p : Phys) (f : PCh → PCh) : (s.modP p f).edge = s.edge := rfl
@[simp] theorem State.modP_tap (p : Phys) (f : PCh → PCh) : (s.modP p f).tap = s.tap := rfl
@[simp] theorem State.modP_mgRdata (p : Phys) (f : PCh → PCh) : (s.modP p f).mgRdata = s.mgRdata := rfl
@[simp] theorem State.modP_irq (p : Phys) (f : PCh → PCh) : (s.modP p f).irq = s.irq := rfl
@[simp] theorem State.modP_linkOut (p : Phys) (f : PCh → PCh) : (s.modP p f).linkOut = s.linkOut := rfl
@[simp] theorem State.modP_evOut (p : Phys) (f : PCh → PCh) : (s.modP p f).evOut = s.evOut := rfl
@[simp] theorem State.modP_hostOut (p : Phys) (f : PCh → PCh) : (s.modP p f).hostOut = s.hostOut := rfl
@[simp] theorem State.modP_rspOut (p : Phys) (f : PCh → PCh) : (s.modP p f).rspOut = s.rspOut := rfl
@[simp] theorem State.modP_kpOut (p : Phys) (f : PCh → PCh) : (s.modP p f).kpOut = s.kpOut := rfl
@[simp] theorem State.modP_nvmOut (p : Phys) (f : PCh → PCh) : (s.modP p f).nvmOut = s.nvmOut := rfl
@[simp] theorem State.modP_spiOut (p : Phys) (f : PCh → PCh) : (s.modP p f).spiOut = s.spiOut := rfl
@[simp] theorem State.modP_free (p : Phys) (f : PCh → PCh) : (s.modP p f).free = s.free := rfl
@[simp] theorem State.modP_nextId (p : Phys) (f : PCh → PCh) : (s.modP p f).nextId = s.nextId := rfl
@[simp] theorem State.modP_pending (p : Phys) (f : PCh → PCh) : (s.modP p f).pending = s.pending := rfl

/-! ## `modL` -/

@[simp] theorem State.modL_porN (n : Log) (f : LCh → LCh) : (s.modL n f).porN = s.porN := rfl
@[simp] theorem State.modL_hrstN (n : Log) (f : LCh → LCh) : (s.modL n f).hrstN = s.hrstN := rfl
@[simp] theorem State.modL_vddCore (n : Log) (f : LCh → LCh) : (s.modL n f).vddCore = s.vddCore := rfl
@[simp] theorem State.modL_aclk (n : Log) (f : LCh → LCh) : (s.modL n f).aclk = s.aclk := rfl
@[simp] theorem State.modL_hclk (n : Log) (f : LCh → LCh) : (s.modL n f).hclk = s.hclk := rfl
@[simp] theorem State.modL_gate (n : Log) (f : LCh → LCh) : (s.modL n f).gate = s.gate := rfl
@[simp] theorem State.modL_ldg (n : Log) (f : LCh → LCh) : (s.modL n f).ldg = s.ldg := rfl
@[simp] theorem State.modL_svc (n : Log) (f : LCh → LCh) : (s.modL n f).svc = s.svc := rfl
@[simp] theorem State.modL_arb (n : Log) (f : LCh → LCh) : (s.modL n f).arb = s.arb := rfl
@[simp] theorem State.modL_hpt (n : Log) (f : LCh → LCh) : (s.modL n f).hpt = s.hpt := rfl
@[simp] theorem State.modL_sun (n : Log) (f : LCh → LCh) : (s.modL n f).sun = s.sun := rfl
@[simp] theorem State.modL_slices (n : Log) (f : LCh → LCh) : (s.modL n f).slices = s.slices := rfl
@[simp] theorem State.modL_fence (n : Log) (f : LCh → LCh) : (s.modL n f).fence = s.fence := rfl
@[simp] theorem State.modL_map (n : Log) (f : LCh → LCh) : (s.modL n f).map = s.map := rfl
@[simp] theorem State.modL_doms (n : Log) (f : LCh → LCh) : (s.modL n f).doms = s.doms := rfl
@[simp] theorem State.modL_rf (n : Log) (f : LCh → LCh) : (s.modL n f).rf = s.rf := rfl
@[simp] theorem State.modL_ters (n : Log) (f : LCh → LCh) : (s.modL n f).ters = s.ters := rfl
@[simp] theorem State.modL_phys (n : Log) (f : LCh → LCh) : (s.modL n f).phys = s.phys := rfl
@[simp] theorem State.modL_linkIvl (n : Log) (f : LCh → LCh) : (s.modL n f).linkIvl = s.linkIvl := rfl
@[simp] theorem State.modL_rdPorts (n : Log) (f : LCh → LCh) : (s.modL n f).rdPorts = s.rdPorts := rfl
@[simp] theorem State.modL_lastLive (n : Log) (f : LCh → LCh) : (s.modL n f).lastLive = s.lastLive := rfl
@[simp] theorem State.modL_edge (n : Log) (f : LCh → LCh) : (s.modL n f).edge = s.edge := rfl
@[simp] theorem State.modL_tap (n : Log) (f : LCh → LCh) : (s.modL n f).tap = s.tap := rfl
@[simp] theorem State.modL_mgRdata (n : Log) (f : LCh → LCh) : (s.modL n f).mgRdata = s.mgRdata := rfl
@[simp] theorem State.modL_irq (n : Log) (f : LCh → LCh) : (s.modL n f).irq = s.irq := rfl
@[simp] theorem State.modL_linkOut (n : Log) (f : LCh → LCh) : (s.modL n f).linkOut = s.linkOut := rfl
@[simp] theorem State.modL_evOut (n : Log) (f : LCh → LCh) : (s.modL n f).evOut = s.evOut := rfl
@[simp] theorem State.modL_hostOut (n : Log) (f : LCh → LCh) : (s.modL n f).hostOut = s.hostOut := rfl
@[simp] theorem State.modL_rspOut (n : Log) (f : LCh → LCh) : (s.modL n f).rspOut = s.rspOut := rfl
@[simp] theorem State.modL_kpOut (n : Log) (f : LCh → LCh) : (s.modL n f).kpOut = s.kpOut := rfl
@[simp] theorem State.modL_nvmOut (n : Log) (f : LCh → LCh) : (s.modL n f).nvmOut = s.nvmOut := rfl
@[simp] theorem State.modL_spiOut (n : Log) (f : LCh → LCh) : (s.modL n f).spiOut = s.spiOut := rfl
@[simp] theorem State.modL_free (n : Log) (f : LCh → LCh) : (s.modL n f).free = s.free := rfl
@[simp] theorem State.modL_nextId (n : Log) (f : LCh → LCh) : (s.modL n f).nextId = s.nextId := rfl
@[simp] theorem State.modL_pending (n : Log) (f : LCh → LCh) : (s.modL n f).pending = s.pending := rfl

/-! ## `modS` -/

@[simp] theorem State.modS_porN (sl : SliceN) (f : Slice → Slice) : (s.modS sl f).porN = s.porN := rfl
@[simp] theorem State.modS_hrstN (sl : SliceN) (f : Slice → Slice) : (s.modS sl f).hrstN = s.hrstN := rfl
@[simp] theorem State.modS_vddCore (sl : SliceN) (f : Slice → Slice) : (s.modS sl f).vddCore = s.vddCore := rfl
@[simp] theorem State.modS_aclk (sl : SliceN) (f : Slice → Slice) : (s.modS sl f).aclk = s.aclk := rfl
@[simp] theorem State.modS_hclk (sl : SliceN) (f : Slice → Slice) : (s.modS sl f).hclk = s.hclk := rfl
@[simp] theorem State.modS_gate (sl : SliceN) (f : Slice → Slice) : (s.modS sl f).gate = s.gate := rfl
@[simp] theorem State.modS_ldg (sl : SliceN) (f : Slice → Slice) : (s.modS sl f).ldg = s.ldg := rfl
@[simp] theorem State.modS_svc (sl : SliceN) (f : Slice → Slice) : (s.modS sl f).svc = s.svc := rfl
@[simp] theorem State.modS_arb (sl : SliceN) (f : Slice → Slice) : (s.modS sl f).arb = s.arb := rfl
@[simp] theorem State.modS_hpt (sl : SliceN) (f : Slice → Slice) : (s.modS sl f).hpt = s.hpt := rfl
@[simp] theorem State.modS_sun (sl : SliceN) (f : Slice → Slice) : (s.modS sl f).sun = s.sun := rfl
@[simp] theorem State.modS_fence (sl : SliceN) (f : Slice → Slice) : (s.modS sl f).fence = s.fence := rfl
@[simp] theorem State.modS_map (sl : SliceN) (f : Slice → Slice) : (s.modS sl f).map = s.map := rfl
@[simp] theorem State.modS_doms (sl : SliceN) (f : Slice → Slice) : (s.modS sl f).doms = s.doms := rfl
@[simp] theorem State.modS_rf (sl : SliceN) (f : Slice → Slice) : (s.modS sl f).rf = s.rf := rfl
@[simp] theorem State.modS_ters (sl : SliceN) (f : Slice → Slice) : (s.modS sl f).ters = s.ters := rfl
@[simp] theorem State.modS_phys (sl : SliceN) (f : Slice → Slice) : (s.modS sl f).phys = s.phys := rfl
@[simp] theorem State.modS_lch (sl : SliceN) (f : Slice → Slice) : (s.modS sl f).lch = s.lch := rfl
@[simp] theorem State.modS_linkIvl (sl : SliceN) (f : Slice → Slice) : (s.modS sl f).linkIvl = s.linkIvl := rfl
@[simp] theorem State.modS_rdPorts (sl : SliceN) (f : Slice → Slice) : (s.modS sl f).rdPorts = s.rdPorts := rfl
@[simp] theorem State.modS_lastLive (sl : SliceN) (f : Slice → Slice) : (s.modS sl f).lastLive = s.lastLive := rfl
@[simp] theorem State.modS_edge (sl : SliceN) (f : Slice → Slice) : (s.modS sl f).edge = s.edge := rfl
@[simp] theorem State.modS_tap (sl : SliceN) (f : Slice → Slice) : (s.modS sl f).tap = s.tap := rfl
@[simp] theorem State.modS_mgRdata (sl : SliceN) (f : Slice → Slice) : (s.modS sl f).mgRdata = s.mgRdata := rfl
@[simp] theorem State.modS_irq (sl : SliceN) (f : Slice → Slice) : (s.modS sl f).irq = s.irq := rfl
@[simp] theorem State.modS_linkOut (sl : SliceN) (f : Slice → Slice) : (s.modS sl f).linkOut = s.linkOut := rfl
@[simp] theorem State.modS_evOut (sl : SliceN) (f : Slice → Slice) : (s.modS sl f).evOut = s.evOut := rfl
@[simp] theorem State.modS_hostOut (sl : SliceN) (f : Slice → Slice) : (s.modS sl f).hostOut = s.hostOut := rfl
@[simp] theorem State.modS_rspOut (sl : SliceN) (f : Slice → Slice) : (s.modS sl f).rspOut = s.rspOut := rfl
@[simp] theorem State.modS_kpOut (sl : SliceN) (f : Slice → Slice) : (s.modS sl f).kpOut = s.kpOut := rfl
@[simp] theorem State.modS_nvmOut (sl : SliceN) (f : Slice → Slice) : (s.modS sl f).nvmOut = s.nvmOut := rfl
@[simp] theorem State.modS_spiOut (sl : SliceN) (f : Slice → Slice) : (s.modS sl f).spiOut = s.spiOut := rfl
@[simp] theorem State.modS_free (sl : SliceN) (f : Slice → Slice) : (s.modS sl f).free = s.free := rfl
@[simp] theorem State.modS_nextId (sl : SliceN) (f : Slice → Slice) : (s.modS sl f).nextId = s.nextId := rfl
@[simp] theorem State.modS_pending (sl : SliceN) (f : Slice → Slice) : (s.modS sl f).pending = s.pending := rfl

/-! ## `modT` -/

@[simp] theorem State.modT_porN (t : Ter) (f : TerSt → TerSt) : (s.modT t f).porN = s.porN := rfl
@[simp] theorem State.modT_hrstN (t : Ter) (f : TerSt → TerSt) : (s.modT t f).hrstN = s.hrstN := rfl
@[simp] theorem State.modT_vddCore (t : Ter) (f : TerSt → TerSt) : (s.modT t f).vddCore = s.vddCore := rfl
@[simp] theorem State.modT_aclk (t : Ter) (f : TerSt → TerSt) : (s.modT t f).aclk = s.aclk := rfl
@[simp] theorem State.modT_hclk (t : Ter) (f : TerSt → TerSt) : (s.modT t f).hclk = s.hclk := rfl
@[simp] theorem State.modT_gate (t : Ter) (f : TerSt → TerSt) : (s.modT t f).gate = s.gate := rfl
@[simp] theorem State.modT_ldg (t : Ter) (f : TerSt → TerSt) : (s.modT t f).ldg = s.ldg := rfl
@[simp] theorem State.modT_svc (t : Ter) (f : TerSt → TerSt) : (s.modT t f).svc = s.svc := rfl
@[simp] theorem State.modT_arb (t : Ter) (f : TerSt → TerSt) : (s.modT t f).arb = s.arb := rfl
@[simp] theorem State.modT_hpt (t : Ter) (f : TerSt → TerSt) : (s.modT t f).hpt = s.hpt := rfl
@[simp] theorem State.modT_sun (t : Ter) (f : TerSt → TerSt) : (s.modT t f).sun = s.sun := rfl
@[simp] theorem State.modT_slices (t : Ter) (f : TerSt → TerSt) : (s.modT t f).slices = s.slices := rfl
@[simp] theorem State.modT_fence (t : Ter) (f : TerSt → TerSt) : (s.modT t f).fence = s.fence := rfl
@[simp] theorem State.modT_map (t : Ter) (f : TerSt → TerSt) : (s.modT t f).map = s.map := rfl
@[simp] theorem State.modT_doms (t : Ter) (f : TerSt → TerSt) : (s.modT t f).doms = s.doms := rfl
@[simp] theorem State.modT_rf (t : Ter) (f : TerSt → TerSt) : (s.modT t f).rf = s.rf := rfl
@[simp] theorem State.modT_phys (t : Ter) (f : TerSt → TerSt) : (s.modT t f).phys = s.phys := rfl
@[simp] theorem State.modT_lch (t : Ter) (f : TerSt → TerSt) : (s.modT t f).lch = s.lch := rfl
@[simp] theorem State.modT_linkIvl (t : Ter) (f : TerSt → TerSt) : (s.modT t f).linkIvl = s.linkIvl := rfl
@[simp] theorem State.modT_rdPorts (t : Ter) (f : TerSt → TerSt) : (s.modT t f).rdPorts = s.rdPorts := rfl
@[simp] theorem State.modT_lastLive (t : Ter) (f : TerSt → TerSt) : (s.modT t f).lastLive = s.lastLive := rfl
@[simp] theorem State.modT_edge (t : Ter) (f : TerSt → TerSt) : (s.modT t f).edge = s.edge := rfl
@[simp] theorem State.modT_tap (t : Ter) (f : TerSt → TerSt) : (s.modT t f).tap = s.tap := rfl
@[simp] theorem State.modT_mgRdata (t : Ter) (f : TerSt → TerSt) : (s.modT t f).mgRdata = s.mgRdata := rfl
@[simp] theorem State.modT_irq (t : Ter) (f : TerSt → TerSt) : (s.modT t f).irq = s.irq := rfl
@[simp] theorem State.modT_linkOut (t : Ter) (f : TerSt → TerSt) : (s.modT t f).linkOut = s.linkOut := rfl
@[simp] theorem State.modT_evOut (t : Ter) (f : TerSt → TerSt) : (s.modT t f).evOut = s.evOut := rfl
@[simp] theorem State.modT_hostOut (t : Ter) (f : TerSt → TerSt) : (s.modT t f).hostOut = s.hostOut := rfl
@[simp] theorem State.modT_rspOut (t : Ter) (f : TerSt → TerSt) : (s.modT t f).rspOut = s.rspOut := rfl
@[simp] theorem State.modT_kpOut (t : Ter) (f : TerSt → TerSt) : (s.modT t f).kpOut = s.kpOut := rfl
@[simp] theorem State.modT_nvmOut (t : Ter) (f : TerSt → TerSt) : (s.modT t f).nvmOut = s.nvmOut := rfl
@[simp] theorem State.modT_spiOut (t : Ter) (f : TerSt → TerSt) : (s.modT t f).spiOut = s.spiOut := rfl
@[simp] theorem State.modT_free (t : Ter) (f : TerSt → TerSt) : (s.modT t f).free = s.free := rfl
@[simp] theorem State.modT_nextId (t : Ter) (f : TerSt → TerSt) : (s.modT t f).nextId = s.nextId := rfl
@[simp] theorem State.modT_pending (t : Ter) (f : TerSt → TerSt) : (s.modT t f).pending = s.pending := rfl

/-! ## `modD` -/

@[simp] theorem State.modD_porN (d : Dom) (f : DomSt → DomSt) : (s.modD d f).porN = s.porN := rfl
@[simp] theorem State.modD_hrstN (d : Dom) (f : DomSt → DomSt) : (s.modD d f).hrstN = s.hrstN := rfl
@[simp] theorem State.modD_vddCore (d : Dom) (f : DomSt → DomSt) : (s.modD d f).vddCore = s.vddCore := rfl
@[simp] theorem State.modD_aclk (d : Dom) (f : DomSt → DomSt) : (s.modD d f).aclk = s.aclk := rfl
@[simp] theorem State.modD_hclk (d : Dom) (f : DomSt → DomSt) : (s.modD d f).hclk = s.hclk := rfl
@[simp] theorem State.modD_gate (d : Dom) (f : DomSt → DomSt) : (s.modD d f).gate = s.gate := rfl
@[simp] theorem State.modD_ldg (d : Dom) (f : DomSt → DomSt) : (s.modD d f).ldg = s.ldg := rfl
@[simp] theorem State.modD_svc (d : Dom) (f : DomSt → DomSt) : (s.modD d f).svc = s.svc := rfl
@[simp] theorem State.modD_arb (d : Dom) (f : DomSt → DomSt) : (s.modD d f).arb = s.arb := rfl
@[simp] theorem State.modD_hpt (d : Dom) (f : DomSt → DomSt) : (s.modD d f).hpt = s.hpt := rfl
@[simp] theorem State.modD_sun (d : Dom) (f : DomSt → DomSt) : (s.modD d f).sun = s.sun := rfl
@[simp] theorem State.modD_slices (d : Dom) (f : DomSt → DomSt) : (s.modD d f).slices = s.slices := rfl
@[simp] theorem State.modD_fence (d : Dom) (f : DomSt → DomSt) : (s.modD d f).fence = s.fence := rfl
@[simp] theorem State.modD_map (d : Dom) (f : DomSt → DomSt) : (s.modD d f).map = s.map := rfl
@[simp] theorem State.modD_rf (d : Dom) (f : DomSt → DomSt) : (s.modD d f).rf = s.rf := rfl
@[simp] theorem State.modD_ters (d : Dom) (f : DomSt → DomSt) : (s.modD d f).ters = s.ters := rfl
@[simp] theorem State.modD_phys (d : Dom) (f : DomSt → DomSt) : (s.modD d f).phys = s.phys := rfl
@[simp] theorem State.modD_lch (d : Dom) (f : DomSt → DomSt) : (s.modD d f).lch = s.lch := rfl
@[simp] theorem State.modD_linkIvl (d : Dom) (f : DomSt → DomSt) : (s.modD d f).linkIvl = s.linkIvl := rfl
@[simp] theorem State.modD_rdPorts (d : Dom) (f : DomSt → DomSt) : (s.modD d f).rdPorts = s.rdPorts := rfl
@[simp] theorem State.modD_lastLive (d : Dom) (f : DomSt → DomSt) : (s.modD d f).lastLive = s.lastLive := rfl
@[simp] theorem State.modD_edge (d : Dom) (f : DomSt → DomSt) : (s.modD d f).edge = s.edge := rfl
@[simp] theorem State.modD_tap (d : Dom) (f : DomSt → DomSt) : (s.modD d f).tap = s.tap := rfl
@[simp] theorem State.modD_mgRdata (d : Dom) (f : DomSt → DomSt) : (s.modD d f).mgRdata = s.mgRdata := rfl
@[simp] theorem State.modD_irq (d : Dom) (f : DomSt → DomSt) : (s.modD d f).irq = s.irq := rfl
@[simp] theorem State.modD_linkOut (d : Dom) (f : DomSt → DomSt) : (s.modD d f).linkOut = s.linkOut := rfl
@[simp] theorem State.modD_evOut (d : Dom) (f : DomSt → DomSt) : (s.modD d f).evOut = s.evOut := rfl
@[simp] theorem State.modD_hostOut (d : Dom) (f : DomSt → DomSt) : (s.modD d f).hostOut = s.hostOut := rfl
@[simp] theorem State.modD_rspOut (d : Dom) (f : DomSt → DomSt) : (s.modD d f).rspOut = s.rspOut := rfl
@[simp] theorem State.modD_kpOut (d : Dom) (f : DomSt → DomSt) : (s.modD d f).kpOut = s.kpOut := rfl
@[simp] theorem State.modD_nvmOut (d : Dom) (f : DomSt → DomSt) : (s.modD d f).nvmOut = s.nvmOut := rfl
@[simp] theorem State.modD_spiOut (d : Dom) (f : DomSt → DomSt) : (s.modD d f).spiOut = s.spiOut := rfl
@[simp] theorem State.modD_free (d : Dom) (f : DomSt → DomSt) : (s.modD d f).free = s.free := rfl
@[simp] theorem State.modD_nextId (d : Dom) (f : DomSt → DomSt) : (s.modD d f).nextId = s.nextId := rfl
@[simp] theorem State.modD_pending (d : Dom) (f : DomSt → DomSt) : (s.modD d f).pending = s.pending := rfl

/-! ## `modC` -/

@[simp] theorem State.modC_porN (p : Phys) (f : CCnt → CCnt) : (s.modC p f).porN = s.porN := rfl
@[simp] theorem State.modC_hrstN (p : Phys) (f : CCnt → CCnt) : (s.modC p f).hrstN = s.hrstN := rfl
@[simp] theorem State.modC_vddCore (p : Phys) (f : CCnt → CCnt) : (s.modC p f).vddCore = s.vddCore := rfl
@[simp] theorem State.modC_aclk (p : Phys) (f : CCnt → CCnt) : (s.modC p f).aclk = s.aclk := rfl
@[simp] theorem State.modC_hclk (p : Phys) (f : CCnt → CCnt) : (s.modC p f).hclk = s.hclk := rfl
@[simp] theorem State.modC_gate (p : Phys) (f : CCnt → CCnt) : (s.modC p f).gate = s.gate := rfl
@[simp] theorem State.modC_ldg (p : Phys) (f : CCnt → CCnt) : (s.modC p f).ldg = s.ldg := rfl
@[simp] theorem State.modC_svc (p : Phys) (f : CCnt → CCnt) : (s.modC p f).svc = s.svc := rfl
@[simp] theorem State.modC_arb (p : Phys) (f : CCnt → CCnt) : (s.modC p f).arb = s.arb := rfl
@[simp] theorem State.modC_hpt (p : Phys) (f : CCnt → CCnt) : (s.modC p f).hpt = s.hpt := rfl
@[simp] theorem State.modC_sun (p : Phys) (f : CCnt → CCnt) : (s.modC p f).sun = s.sun := rfl
@[simp] theorem State.modC_slices (p : Phys) (f : CCnt → CCnt) : (s.modC p f).slices = s.slices := rfl
@[simp] theorem State.modC_fence (p : Phys) (f : CCnt → CCnt) : (s.modC p f).fence = s.fence := rfl
@[simp] theorem State.modC_map (p : Phys) (f : CCnt → CCnt) : (s.modC p f).map = s.map := rfl
@[simp] theorem State.modC_doms (p : Phys) (f : CCnt → CCnt) : (s.modC p f).doms = s.doms := rfl
@[simp] theorem State.modC_rf (p : Phys) (f : CCnt → CCnt) : (s.modC p f).rf = s.rf := rfl
@[simp] theorem State.modC_ters (p : Phys) (f : CCnt → CCnt) : (s.modC p f).ters = s.ters := rfl
@[simp] theorem State.modC_lch (p : Phys) (f : CCnt → CCnt) : (s.modC p f).lch = s.lch := rfl
@[simp] theorem State.modC_linkIvl (p : Phys) (f : CCnt → CCnt) : (s.modC p f).linkIvl = s.linkIvl := rfl
@[simp] theorem State.modC_rdPorts (p : Phys) (f : CCnt → CCnt) : (s.modC p f).rdPorts = s.rdPorts := rfl
@[simp] theorem State.modC_lastLive (p : Phys) (f : CCnt → CCnt) : (s.modC p f).lastLive = s.lastLive := rfl
@[simp] theorem State.modC_edge (p : Phys) (f : CCnt → CCnt) : (s.modC p f).edge = s.edge := rfl
@[simp] theorem State.modC_tap (p : Phys) (f : CCnt → CCnt) : (s.modC p f).tap = s.tap := rfl
@[simp] theorem State.modC_mgRdata (p : Phys) (f : CCnt → CCnt) : (s.modC p f).mgRdata = s.mgRdata := rfl
@[simp] theorem State.modC_irq (p : Phys) (f : CCnt → CCnt) : (s.modC p f).irq = s.irq := rfl
@[simp] theorem State.modC_linkOut (p : Phys) (f : CCnt → CCnt) : (s.modC p f).linkOut = s.linkOut := rfl
@[simp] theorem State.modC_evOut (p : Phys) (f : CCnt → CCnt) : (s.modC p f).evOut = s.evOut := rfl
@[simp] theorem State.modC_hostOut (p : Phys) (f : CCnt → CCnt) : (s.modC p f).hostOut = s.hostOut := rfl
@[simp] theorem State.modC_rspOut (p : Phys) (f : CCnt → CCnt) : (s.modC p f).rspOut = s.rspOut := rfl
@[simp] theorem State.modC_kpOut (p : Phys) (f : CCnt → CCnt) : (s.modC p f).kpOut = s.kpOut := rfl
@[simp] theorem State.modC_nvmOut (p : Phys) (f : CCnt → CCnt) : (s.modC p f).nvmOut = s.nvmOut := rfl
@[simp] theorem State.modC_spiOut (p : Phys) (f : CCnt → CCnt) : (s.modC p f).spiOut = s.spiOut := rfl
@[simp] theorem State.modC_free (p : Phys) (f : CCnt → CCnt) : (s.modC p f).free = s.free := rfl
@[simp] theorem State.modC_nextId (p : Phys) (f : CCnt → CCnt) : (s.modC p f).nextId = s.nextId := rfl
@[simp] theorem State.modC_pending (p : Phys) (f : CCnt → CCnt) : (s.modC p f).pending = s.pending := rfl

/-! ## `modQ` -/

@[simp] theorem State.modQ_porN (n : Log) (q : Qn) (f : Que → Que) : (s.modQ n q f).porN = s.porN := rfl
@[simp] theorem State.modQ_hrstN (n : Log) (q : Qn) (f : Que → Que) : (s.modQ n q f).hrstN = s.hrstN := rfl
@[simp] theorem State.modQ_vddCore (n : Log) (q : Qn) (f : Que → Que) : (s.modQ n q f).vddCore = s.vddCore := rfl
@[simp] theorem State.modQ_aclk (n : Log) (q : Qn) (f : Que → Que) : (s.modQ n q f).aclk = s.aclk := rfl
@[simp] theorem State.modQ_hclk (n : Log) (q : Qn) (f : Que → Que) : (s.modQ n q f).hclk = s.hclk := rfl
@[simp] theorem State.modQ_gate (n : Log) (q : Qn) (f : Que → Que) : (s.modQ n q f).gate = s.gate := rfl
@[simp] theorem State.modQ_ldg (n : Log) (q : Qn) (f : Que → Que) : (s.modQ n q f).ldg = s.ldg := rfl
@[simp] theorem State.modQ_svc (n : Log) (q : Qn) (f : Que → Que) : (s.modQ n q f).svc = s.svc := rfl
@[simp] theorem State.modQ_arb (n : Log) (q : Qn) (f : Que → Que) : (s.modQ n q f).arb = s.arb := rfl
@[simp] theorem State.modQ_hpt (n : Log) (q : Qn) (f : Que → Que) : (s.modQ n q f).hpt = s.hpt := rfl
@[simp] theorem State.modQ_sun (n : Log) (q : Qn) (f : Que → Que) : (s.modQ n q f).sun = s.sun := rfl
@[simp] theorem State.modQ_slices (n : Log) (q : Qn) (f : Que → Que) : (s.modQ n q f).slices = s.slices := rfl
@[simp] theorem State.modQ_fence (n : Log) (q : Qn) (f : Que → Que) : (s.modQ n q f).fence = s.fence := rfl
@[simp] theorem State.modQ_map (n : Log) (q : Qn) (f : Que → Que) : (s.modQ n q f).map = s.map := rfl
@[simp] theorem State.modQ_doms (n : Log) (q : Qn) (f : Que → Que) : (s.modQ n q f).doms = s.doms := rfl
@[simp] theorem State.modQ_rf (n : Log) (q : Qn) (f : Que → Que) : (s.modQ n q f).rf = s.rf := rfl
@[simp] theorem State.modQ_ters (n : Log) (q : Qn) (f : Que → Que) : (s.modQ n q f).ters = s.ters := rfl
@[simp] theorem State.modQ_phys (n : Log) (q : Qn) (f : Que → Que) : (s.modQ n q f).phys = s.phys := rfl
@[simp] theorem State.modQ_linkIvl (n : Log) (q : Qn) (f : Que → Que) : (s.modQ n q f).linkIvl = s.linkIvl := rfl
@[simp] theorem State.modQ_rdPorts (n : Log) (q : Qn) (f : Que → Que) : (s.modQ n q f).rdPorts = s.rdPorts := rfl
@[simp] theorem State.modQ_lastLive (n : Log) (q : Qn) (f : Que → Que) : (s.modQ n q f).lastLive = s.lastLive := rfl
@[simp] theorem State.modQ_edge (n : Log) (q : Qn) (f : Que → Que) : (s.modQ n q f).edge = s.edge := rfl
@[simp] theorem State.modQ_tap (n : Log) (q : Qn) (f : Que → Que) : (s.modQ n q f).tap = s.tap := rfl
@[simp] theorem State.modQ_mgRdata (n : Log) (q : Qn) (f : Que → Que) : (s.modQ n q f).mgRdata = s.mgRdata := rfl
@[simp] theorem State.modQ_irq (n : Log) (q : Qn) (f : Que → Que) : (s.modQ n q f).irq = s.irq := rfl
@[simp] theorem State.modQ_linkOut (n : Log) (q : Qn) (f : Que → Que) : (s.modQ n q f).linkOut = s.linkOut := rfl
@[simp] theorem State.modQ_evOut (n : Log) (q : Qn) (f : Que → Que) : (s.modQ n q f).evOut = s.evOut := rfl
@[simp] theorem State.modQ_hostOut (n : Log) (q : Qn) (f : Que → Que) : (s.modQ n q f).hostOut = s.hostOut := rfl
@[simp] theorem State.modQ_rspOut (n : Log) (q : Qn) (f : Que → Que) : (s.modQ n q f).rspOut = s.rspOut := rfl
@[simp] theorem State.modQ_kpOut (n : Log) (q : Qn) (f : Que → Que) : (s.modQ n q f).kpOut = s.kpOut := rfl
@[simp] theorem State.modQ_nvmOut (n : Log) (q : Qn) (f : Que → Que) : (s.modQ n q f).nvmOut = s.nvmOut := rfl
@[simp] theorem State.modQ_spiOut (n : Log) (q : Qn) (f : Que → Que) : (s.modQ n q f).spiOut = s.spiOut := rfl
@[simp] theorem State.modQ_free (n : Log) (q : Qn) (f : Que → Que) : (s.modQ n q f).free = s.free := rfl
@[simp] theorem State.modQ_nextId (n : Log) (q : Qn) (f : Que → Que) : (s.modQ n q f).nextId = s.nextId := rfl
@[simp] theorem State.modQ_pending (n : Log) (q : Qn) (f : Que → Que) : (s.modQ n q f).pending = s.pending := rfl

/-! ## `modI` -/

@[simp] theorem State.modI_porN (n : Log) (x : Fin 4) (f : TIn → TIn) : (s.modI n x f).porN = s.porN := rfl
@[simp] theorem State.modI_hrstN (n : Log) (x : Fin 4) (f : TIn → TIn) : (s.modI n x f).hrstN = s.hrstN := rfl
@[simp] theorem State.modI_vddCore (n : Log) (x : Fin 4) (f : TIn → TIn) : (s.modI n x f).vddCore = s.vddCore := rfl
@[simp] theorem State.modI_aclk (n : Log) (x : Fin 4) (f : TIn → TIn) : (s.modI n x f).aclk = s.aclk := rfl
@[simp] theorem State.modI_hclk (n : Log) (x : Fin 4) (f : TIn → TIn) : (s.modI n x f).hclk = s.hclk := rfl
@[simp] theorem State.modI_gate (n : Log) (x : Fin 4) (f : TIn → TIn) : (s.modI n x f).gate = s.gate := rfl
@[simp] theorem State.modI_ldg (n : Log) (x : Fin 4) (f : TIn → TIn) : (s.modI n x f).ldg = s.ldg := rfl
@[simp] theorem State.modI_svc (n : Log) (x : Fin 4) (f : TIn → TIn) : (s.modI n x f).svc = s.svc := rfl
@[simp] theorem State.modI_arb (n : Log) (x : Fin 4) (f : TIn → TIn) : (s.modI n x f).arb = s.arb := rfl
@[simp] theorem State.modI_hpt (n : Log) (x : Fin 4) (f : TIn → TIn) : (s.modI n x f).hpt = s.hpt := rfl
@[simp] theorem State.modI_sun (n : Log) (x : Fin 4) (f : TIn → TIn) : (s.modI n x f).sun = s.sun := rfl
@[simp] theorem State.modI_slices (n : Log) (x : Fin 4) (f : TIn → TIn) : (s.modI n x f).slices = s.slices := rfl
@[simp] theorem State.modI_fence (n : Log) (x : Fin 4) (f : TIn → TIn) : (s.modI n x f).fence = s.fence := rfl
@[simp] theorem State.modI_map (n : Log) (x : Fin 4) (f : TIn → TIn) : (s.modI n x f).map = s.map := rfl
@[simp] theorem State.modI_doms (n : Log) (x : Fin 4) (f : TIn → TIn) : (s.modI n x f).doms = s.doms := rfl
@[simp] theorem State.modI_rf (n : Log) (x : Fin 4) (f : TIn → TIn) : (s.modI n x f).rf = s.rf := rfl
@[simp] theorem State.modI_ters (n : Log) (x : Fin 4) (f : TIn → TIn) : (s.modI n x f).ters = s.ters := rfl
@[simp] theorem State.modI_phys (n : Log) (x : Fin 4) (f : TIn → TIn) : (s.modI n x f).phys = s.phys := rfl
@[simp] theorem State.modI_linkIvl (n : Log) (x : Fin 4) (f : TIn → TIn) : (s.modI n x f).linkIvl = s.linkIvl := rfl
@[simp] theorem State.modI_rdPorts (n : Log) (x : Fin 4) (f : TIn → TIn) : (s.modI n x f).rdPorts = s.rdPorts := rfl
@[simp] theorem State.modI_lastLive (n : Log) (x : Fin 4) (f : TIn → TIn) : (s.modI n x f).lastLive = s.lastLive := rfl
@[simp] theorem State.modI_edge (n : Log) (x : Fin 4) (f : TIn → TIn) : (s.modI n x f).edge = s.edge := rfl
@[simp] theorem State.modI_tap (n : Log) (x : Fin 4) (f : TIn → TIn) : (s.modI n x f).tap = s.tap := rfl
@[simp] theorem State.modI_mgRdata (n : Log) (x : Fin 4) (f : TIn → TIn) : (s.modI n x f).mgRdata = s.mgRdata := rfl
@[simp] theorem State.modI_irq (n : Log) (x : Fin 4) (f : TIn → TIn) : (s.modI n x f).irq = s.irq := rfl
@[simp] theorem State.modI_linkOut (n : Log) (x : Fin 4) (f : TIn → TIn) : (s.modI n x f).linkOut = s.linkOut := rfl
@[simp] theorem State.modI_evOut (n : Log) (x : Fin 4) (f : TIn → TIn) : (s.modI n x f).evOut = s.evOut := rfl
@[simp] theorem State.modI_hostOut (n : Log) (x : Fin 4) (f : TIn → TIn) : (s.modI n x f).hostOut = s.hostOut := rfl
@[simp] theorem State.modI_rspOut (n : Log) (x : Fin 4) (f : TIn → TIn) : (s.modI n x f).rspOut = s.rspOut := rfl
@[simp] theorem State.modI_kpOut (n : Log) (x : Fin 4) (f : TIn → TIn) : (s.modI n x f).kpOut = s.kpOut := rfl
@[simp] theorem State.modI_nvmOut (n : Log) (x : Fin 4) (f : TIn → TIn) : (s.modI n x f).nvmOut = s.nvmOut := rfl
@[simp] theorem State.modI_spiOut (n : Log) (x : Fin 4) (f : TIn → TIn) : (s.modI n x f).spiOut = s.spiOut := rfl
@[simp] theorem State.modI_free (n : Log) (x : Fin 4) (f : TIn → TIn) : (s.modI n x f).free = s.free := rfl
@[simp] theorem State.modI_nextId (n : Log) (x : Fin 4) (f : TIn → TIn) : (s.modI n x f).nextId = s.nextId := rfl
@[simp] theorem State.modI_pending (n : Log) (x : Fin 4) (f : TIn → TIn) : (s.modI n x f).pending = s.pending := rfl

/-! ## `modA` -/

@[simp] theorem State.modA_porN (n : Log) (q : Qn) (id : Nat) (f : Acc → Acc) : (s.modA n q id f).porN = s.porN := rfl
@[simp] theorem State.modA_hrstN (n : Log) (q : Qn) (id : Nat) (f : Acc → Acc) : (s.modA n q id f).hrstN = s.hrstN := rfl
@[simp] theorem State.modA_vddCore (n : Log) (q : Qn) (id : Nat) (f : Acc → Acc) : (s.modA n q id f).vddCore = s.vddCore := rfl
@[simp] theorem State.modA_aclk (n : Log) (q : Qn) (id : Nat) (f : Acc → Acc) : (s.modA n q id f).aclk = s.aclk := rfl
@[simp] theorem State.modA_hclk (n : Log) (q : Qn) (id : Nat) (f : Acc → Acc) : (s.modA n q id f).hclk = s.hclk := rfl
@[simp] theorem State.modA_gate (n : Log) (q : Qn) (id : Nat) (f : Acc → Acc) : (s.modA n q id f).gate = s.gate := rfl
@[simp] theorem State.modA_ldg (n : Log) (q : Qn) (id : Nat) (f : Acc → Acc) : (s.modA n q id f).ldg = s.ldg := rfl
@[simp] theorem State.modA_svc (n : Log) (q : Qn) (id : Nat) (f : Acc → Acc) : (s.modA n q id f).svc = s.svc := rfl
@[simp] theorem State.modA_arb (n : Log) (q : Qn) (id : Nat) (f : Acc → Acc) : (s.modA n q id f).arb = s.arb := rfl
@[simp] theorem State.modA_hpt (n : Log) (q : Qn) (id : Nat) (f : Acc → Acc) : (s.modA n q id f).hpt = s.hpt := rfl
@[simp] theorem State.modA_sun (n : Log) (q : Qn) (id : Nat) (f : Acc → Acc) : (s.modA n q id f).sun = s.sun := rfl
@[simp] theorem State.modA_slices (n : Log) (q : Qn) (id : Nat) (f : Acc → Acc) : (s.modA n q id f).slices = s.slices := rfl
@[simp] theorem State.modA_fence (n : Log) (q : Qn) (id : Nat) (f : Acc → Acc) : (s.modA n q id f).fence = s.fence := rfl
@[simp] theorem State.modA_map (n : Log) (q : Qn) (id : Nat) (f : Acc → Acc) : (s.modA n q id f).map = s.map := rfl
@[simp] theorem State.modA_doms (n : Log) (q : Qn) (id : Nat) (f : Acc → Acc) : (s.modA n q id f).doms = s.doms := rfl
@[simp] theorem State.modA_rf (n : Log) (q : Qn) (id : Nat) (f : Acc → Acc) : (s.modA n q id f).rf = s.rf := rfl
@[simp] theorem State.modA_ters (n : Log) (q : Qn) (id : Nat) (f : Acc → Acc) : (s.modA n q id f).ters = s.ters := rfl
@[simp] theorem State.modA_phys (n : Log) (q : Qn) (id : Nat) (f : Acc → Acc) : (s.modA n q id f).phys = s.phys := rfl
@[simp] theorem State.modA_linkIvl (n : Log) (q : Qn) (id : Nat) (f : Acc → Acc) : (s.modA n q id f).linkIvl = s.linkIvl := rfl
@[simp] theorem State.modA_rdPorts (n : Log) (q : Qn) (id : Nat) (f : Acc → Acc) : (s.modA n q id f).rdPorts = s.rdPorts := rfl
@[simp] theorem State.modA_lastLive (n : Log) (q : Qn) (id : Nat) (f : Acc → Acc) : (s.modA n q id f).lastLive = s.lastLive := rfl
@[simp] theorem State.modA_edge (n : Log) (q : Qn) (id : Nat) (f : Acc → Acc) : (s.modA n q id f).edge = s.edge := rfl
@[simp] theorem State.modA_tap (n : Log) (q : Qn) (id : Nat) (f : Acc → Acc) : (s.modA n q id f).tap = s.tap := rfl
@[simp] theorem State.modA_mgRdata (n : Log) (q : Qn) (id : Nat) (f : Acc → Acc) : (s.modA n q id f).mgRdata = s.mgRdata := rfl
@[simp] theorem State.modA_irq (n : Log) (q : Qn) (id : Nat) (f : Acc → Acc) : (s.modA n q id f).irq = s.irq := rfl
@[simp] theorem State.modA_linkOut (n : Log) (q : Qn) (id : Nat) (f : Acc → Acc) : (s.modA n q id f).linkOut = s.linkOut := rfl
@[simp] theorem State.modA_evOut (n : Log) (q : Qn) (id : Nat) (f : Acc → Acc) : (s.modA n q id f).evOut = s.evOut := rfl
@[simp] theorem State.modA_hostOut (n : Log) (q : Qn) (id : Nat) (f : Acc → Acc) : (s.modA n q id f).hostOut = s.hostOut := rfl
@[simp] theorem State.modA_rspOut (n : Log) (q : Qn) (id : Nat) (f : Acc → Acc) : (s.modA n q id f).rspOut = s.rspOut := rfl
@[simp] theorem State.modA_kpOut (n : Log) (q : Qn) (id : Nat) (f : Acc → Acc) : (s.modA n q id f).kpOut = s.kpOut := rfl
@[simp] theorem State.modA_nvmOut (n : Log) (q : Qn) (id : Nat) (f : Acc → Acc) : (s.modA n q id f).nvmOut = s.nvmOut := rfl
@[simp] theorem State.modA_spiOut (n : Log) (q : Qn) (id : Nat) (f : Acc → Acc) : (s.modA n q id f).spiOut = s.spiOut := rfl
@[simp] theorem State.modA_free (n : Log) (q : Qn) (id : Nat) (f : Acc → Acc) : (s.modA n q id f).free = s.free := rfl
@[simp] theorem State.modA_nextId (n : Log) (q : Qn) (id : Nat) (f : Acc → Acc) : (s.modA n q id f).nextId = s.nextId := rfl
@[simp] theorem State.modA_pending (n : Log) (q : Qn) (id : Nat) (f : Acc → Acc) : (s.modA n q id f).pending = s.pending := rfl

/-! ## `modBed` -/

@[simp] theorem State.modBed_porN (n : Log) (f : Bed → Bed) : (s.modBed n f).porN = s.porN := rfl
@[simp] theorem State.modBed_hrstN (n : Log) (f : Bed → Bed) : (s.modBed n f).hrstN = s.hrstN := rfl
@[simp] theorem State.modBed_vddCore (n : Log) (f : Bed → Bed) : (s.modBed n f).vddCore = s.vddCore := rfl
@[simp] theorem State.modBed_aclk (n : Log) (f : Bed → Bed) : (s.modBed n f).aclk = s.aclk := rfl
@[simp] theorem State.modBed_hclk (n : Log) (f : Bed → Bed) : (s.modBed n f).hclk = s.hclk := rfl
@[simp] theorem State.modBed_gate (n : Log) (f : Bed → Bed) : (s.modBed n f).gate = s.gate := rfl
@[simp] theorem State.modBed_ldg (n : Log) (f : Bed → Bed) : (s.modBed n f).ldg = s.ldg := rfl
@[simp] theorem State.modBed_svc (n : Log) (f : Bed → Bed) : (s.modBed n f).svc = s.svc := rfl
@[simp] theorem State.modBed_arb (n : Log) (f : Bed → Bed) : (s.modBed n f).arb = s.arb := rfl
@[simp] theorem State.modBed_hpt (n : Log) (f : Bed → Bed) : (s.modBed n f).hpt = s.hpt := rfl
@[simp] theorem State.modBed_sun (n : Log) (f : Bed → Bed) : (s.modBed n f).sun = s.sun := rfl
@[simp] theorem State.modBed_slices (n : Log) (f : Bed → Bed) : (s.modBed n f).slices = s.slices := rfl
@[simp] theorem State.modBed_fence (n : Log) (f : Bed → Bed) : (s.modBed n f).fence = s.fence := rfl
@[simp] theorem State.modBed_map (n : Log) (f : Bed → Bed) : (s.modBed n f).map = s.map := rfl
@[simp] theorem State.modBed_doms (n : Log) (f : Bed → Bed) : (s.modBed n f).doms = s.doms := rfl
@[simp] theorem State.modBed_rf (n : Log) (f : Bed → Bed) : (s.modBed n f).rf = s.rf := rfl
@[simp] theorem State.modBed_ters (n : Log) (f : Bed → Bed) : (s.modBed n f).ters = s.ters := rfl
@[simp] theorem State.modBed_phys (n : Log) (f : Bed → Bed) : (s.modBed n f).phys = s.phys := rfl
@[simp] theorem State.modBed_linkIvl (n : Log) (f : Bed → Bed) : (s.modBed n f).linkIvl = s.linkIvl := rfl
@[simp] theorem State.modBed_rdPorts (n : Log) (f : Bed → Bed) : (s.modBed n f).rdPorts = s.rdPorts := rfl
@[simp] theorem State.modBed_lastLive (n : Log) (f : Bed → Bed) : (s.modBed n f).lastLive = s.lastLive := rfl
@[simp] theorem State.modBed_edge (n : Log) (f : Bed → Bed) : (s.modBed n f).edge = s.edge := rfl
@[simp] theorem State.modBed_tap (n : Log) (f : Bed → Bed) : (s.modBed n f).tap = s.tap := rfl
@[simp] theorem State.modBed_mgRdata (n : Log) (f : Bed → Bed) : (s.modBed n f).mgRdata = s.mgRdata := rfl
@[simp] theorem State.modBed_irq (n : Log) (f : Bed → Bed) : (s.modBed n f).irq = s.irq := rfl
@[simp] theorem State.modBed_linkOut (n : Log) (f : Bed → Bed) : (s.modBed n f).linkOut = s.linkOut := rfl
@[simp] theorem State.modBed_evOut (n : Log) (f : Bed → Bed) : (s.modBed n f).evOut = s.evOut := rfl
@[simp] theorem State.modBed_hostOut (n : Log) (f : Bed → Bed) : (s.modBed n f).hostOut = s.hostOut := rfl
@[simp] theorem State.modBed_rspOut (n : Log) (f : Bed → Bed) : (s.modBed n f).rspOut = s.rspOut := rfl
@[simp] theorem State.modBed_kpOut (n : Log) (f : Bed → Bed) : (s.modBed n f).kpOut = s.kpOut := rfl
@[simp] theorem State.modBed_nvmOut (n : Log) (f : Bed → Bed) : (s.modBed n f).nvmOut = s.nvmOut := rfl
@[simp] theorem State.modBed_spiOut (n : Log) (f : Bed → Bed) : (s.modBed n f).spiOut = s.spiOut := rfl
@[simp] theorem State.modBed_free (n : Log) (f : Bed → Bed) : (s.modBed n f).free = s.free := rfl
@[simp] theorem State.modBed_nextId (n : Log) (f : Bed → Bed) : (s.modBed n f).nextId = s.nextId := rfl
@[simp] theorem State.modBed_pending (n : Log) (f : Bed → Bed) : (s.modBed n f).pending = s.pending := rfl

/-! ## `send` -/

@[simp] theorem State.send_porN (n : Log) (k : Pkt) : (s.send n k).porN = s.porN := by unfold State.send; split <;> rfl
@[simp] theorem State.send_hrstN (n : Log) (k : Pkt) : (s.send n k).hrstN = s.hrstN := by unfold State.send; split <;> rfl
@[simp] theorem State.send_vddCore (n : Log) (k : Pkt) : (s.send n k).vddCore = s.vddCore := by unfold State.send; split <;> rfl
@[simp] theorem State.send_aclk (n : Log) (k : Pkt) : (s.send n k).aclk = s.aclk := by unfold State.send; split <;> rfl
@[simp] theorem State.send_hclk (n : Log) (k : Pkt) : (s.send n k).hclk = s.hclk := by unfold State.send; split <;> rfl
@[simp] theorem State.send_gate (n : Log) (k : Pkt) : (s.send n k).gate = s.gate := by unfold State.send; split <;> rfl
@[simp] theorem State.send_ldg (n : Log) (k : Pkt) : (s.send n k).ldg = s.ldg := by unfold State.send; split <;> rfl
@[simp] theorem State.send_svc (n : Log) (k : Pkt) : (s.send n k).svc = s.svc := by unfold State.send; split <;> rfl
@[simp] theorem State.send_arb (n : Log) (k : Pkt) : (s.send n k).arb = s.arb := by unfold State.send; split <;> rfl
@[simp] theorem State.send_hpt (n : Log) (k : Pkt) : (s.send n k).hpt = s.hpt := by unfold State.send; split <;> rfl
@[simp] theorem State.send_sun (n : Log) (k : Pkt) : (s.send n k).sun = s.sun := by unfold State.send; split <;> rfl
@[simp] theorem State.send_slices (n : Log) (k : Pkt) : (s.send n k).slices = s.slices := by unfold State.send; split <;> rfl
@[simp] theorem State.send_fence (n : Log) (k : Pkt) : (s.send n k).fence = s.fence := by unfold State.send; split <;> rfl
@[simp] theorem State.send_map (n : Log) (k : Pkt) : (s.send n k).map = s.map := by unfold State.send; split <;> rfl
@[simp] theorem State.send_doms (n : Log) (k : Pkt) : (s.send n k).doms = s.doms := by unfold State.send; split <;> rfl
@[simp] theorem State.send_rf (n : Log) (k : Pkt) : (s.send n k).rf = s.rf := by unfold State.send; split <;> rfl
@[simp] theorem State.send_ters (n : Log) (k : Pkt) : (s.send n k).ters = s.ters := by unfold State.send; split <;> rfl
@[simp] theorem State.send_phys (n : Log) (k : Pkt) : (s.send n k).phys = s.phys := by unfold State.send; split <;> rfl
@[simp] theorem State.send_lch (n : Log) (k : Pkt) : (s.send n k).lch = s.lch := by unfold State.send; split <;> rfl
@[simp] theorem State.send_linkIvl (n : Log) (k : Pkt) : (s.send n k).linkIvl = s.linkIvl := by unfold State.send; split <;> rfl
@[simp] theorem State.send_rdPorts (n : Log) (k : Pkt) : (s.send n k).rdPorts = s.rdPorts := by unfold State.send; split <;> rfl
@[simp] theorem State.send_lastLive (n : Log) (k : Pkt) : (s.send n k).lastLive = s.lastLive := by unfold State.send; split <;> rfl
@[simp] theorem State.send_edge (n : Log) (k : Pkt) : (s.send n k).edge = s.edge := by unfold State.send; split <;> rfl
@[simp] theorem State.send_tap (n : Log) (k : Pkt) : (s.send n k).tap = s.tap := by unfold State.send; split <;> rfl
@[simp] theorem State.send_mgRdata (n : Log) (k : Pkt) : (s.send n k).mgRdata = s.mgRdata := by unfold State.send; split <;> rfl
@[simp] theorem State.send_irq (n : Log) (k : Pkt) : (s.send n k).irq = s.irq := by unfold State.send; split <;> rfl
@[simp] theorem State.send_evOut (n : Log) (k : Pkt) : (s.send n k).evOut = s.evOut := by unfold State.send; split <;> rfl
@[simp] theorem State.send_hostOut (n : Log) (k : Pkt) : (s.send n k).hostOut = s.hostOut := by unfold State.send; split <;> rfl
@[simp] theorem State.send_rspOut (n : Log) (k : Pkt) : (s.send n k).rspOut = s.rspOut := by unfold State.send; split <;> rfl
@[simp] theorem State.send_kpOut (n : Log) (k : Pkt) : (s.send n k).kpOut = s.kpOut := by unfold State.send; split <;> rfl
@[simp] theorem State.send_nvmOut (n : Log) (k : Pkt) : (s.send n k).nvmOut = s.nvmOut := by unfold State.send; split <;> rfl
@[simp] theorem State.send_spiOut (n : Log) (k : Pkt) : (s.send n k).spiOut = s.spiOut := by unfold State.send; split <;> rfl
@[simp] theorem State.send_free (n : Log) (k : Pkt) : (s.send n k).free = s.free := by unfold State.send; split <;> rfl
@[simp] theorem State.send_nextId (n : Log) (k : Pkt) : (s.send n k).nextId = s.nextId := by unfold State.send; split <;> rfl
@[simp] theorem State.send_pending (n : Log) (k : Pkt) : (s.send n k).pending = s.pending := by unfold State.send; split <;> rfl

/-- A packet is appended to what has left, unless the wrapper drives the pins. -/
theorem State.send_linkOut (n : Log) (k : Pkt) : (s.send n k).linkOut = if s.tap.drives then s.linkOut else s.linkOut ++ [(n, k)] := by
  unfold State.send; split <;> rfl

/-- What has left stays sent. -/
theorem State.send_prefix (n : Log) (k : Pkt) : s.linkOut <+: (s.send n k).linkOut := by
  rw [State.send_linkOut]; split
  · exact List.prefix_rfl
  · exact List.prefix_append _ _

/-! ## The entry that an update names, and the others -/

theorem State.modP_phys (p r : Phys) (f : PCh → PCh) : (s.modP p f).phys[r] = if p = r then f s.phys[p] else s.phys[r] := by
  simp [State.modP, Vector.getElem_set, Fin.ext_iff]
theorem State.modL_lch (n m : Log) (f : LCh → LCh) : (s.modL n f).lch[m] = if n = m then f s.lch[n] else s.lch[m] := by
  simp [State.modL, Vector.getElem_set, Fin.ext_iff]
theorem State.modS_slices (a b : SliceN) (f : Slice → Slice) : (s.modS a f).slices[b] = if a = b then f s.slices[a] else s.slices[b] := by
  simp [State.modS, Vector.getElem_set, Fin.ext_iff]
theorem State.modT_ters (a b : Ter) (f : TerSt → TerSt) : (s.modT a f).ters[b] = if a = b then f s.ters[a] else s.ters[b] := by
  simp [State.modT, Vector.getElem_set, Fin.ext_iff]
theorem State.modD_doms (a b : Dom) (f : DomSt → DomSt) : (s.modD a f).doms[b] = if a = b then f s.doms[a] else s.doms[b] := by
  simp [State.modD, Vector.getElem_set, Fin.ext_iff]
theorem LCh.modQ_qs (l : LCh) (q r : Qn) (f : Que → Que) : (l.modQ q f).qs[r] = if q = r then f l.qs[q] else l.qs[r] := by
  simp [LCh.modQ, Vector.getElem_set, Fin.ext_iff]
theorem LCh.modI_ins (l : LCh) (x y : Fin 4) (f : TIn → TIn) : (l.modI x f).ins[y] = if x = y then f l.ins[x] else l.ins[y] := by
  simp [LCh.modI, Vector.getElem_set, Fin.ext_iff]

/-! In simp's own form, where an index is a number. -/

@[simp] theorem State.modP_same (p : Phys) (f : PCh → PCh) : (s.modP p f).phys[p.val] = f s.phys[p.val] := by
  have h := s.modP_phys p p f; rw [if_pos rfl] at h; exact h
theorem State.modP_ne {p r : Phys} (h : p ≠ r) (f : PCh → PCh) : (s.modP p f).phys[r.val] = s.phys[r.val] := by
  have e := s.modP_phys p r f; rw [if_neg h] at e; exact e
@[simp] theorem State.modL_same (n : Log) (f : LCh → LCh) : (s.modL n f).lch[n.val] = f s.lch[n.val] := by
  have h := s.modL_lch n n f; rw [if_pos rfl] at h; exact h
theorem State.modL_ne {n r : Log} (h : n ≠ r) (f : LCh → LCh) : (s.modL n f).lch[r.val] = s.lch[r.val] := by
  have e := s.modL_lch n r f; rw [if_neg h] at e; exact e
@[simp] theorem State.modS_same (sl : SliceN) (f : Slice → Slice) : (s.modS sl f).slices[sl.val] = f s.slices[sl.val] := by
  have h := s.modS_slices sl sl f; rw [if_pos rfl] at h; exact h
theorem State.modS_ne {sl r : SliceN} (h : sl ≠ r) (f : Slice → Slice) : (s.modS sl f).slices[r.val] = s.slices[r.val] := by
  have e := s.modS_slices sl r f; rw [if_neg h] at e; exact e
@[simp] theorem State.modT_same (t : Ter) (f : TerSt → TerSt) : (s.modT t f).ters[t.val] = f s.ters[t.val] := by
  have h := s.modT_ters t t f; rw [if_pos rfl] at h; exact h
theorem State.modT_ne {t r : Ter} (h : t ≠ r) (f : TerSt → TerSt) : (s.modT t f).ters[r.val] = s.ters[r.val] := by
  have e := s.modT_ters t r f; rw [if_neg h] at e; exact e
@[simp] theorem State.modD_same (d : Dom) (f : DomSt → DomSt) : (s.modD d f).doms[d.val] = f s.doms[d.val] := by
  have h := s.modD_doms d d f; rw [if_pos rfl] at h; exact h
theorem State.modD_ne {d r : Dom} (h : d ≠ r) (f : DomSt → DomSt) : (s.modD d f).doms[r.val] = s.doms[r.val] := by
  have e := s.modD_doms d r f; rw [if_neg h] at e; exact e
@[simp] theorem LCh.modQ_same (s : LCh) (q : Qn) (f : Que → Que) : (s.modQ q f).qs[q.val] = f s.qs[q.val] := by
  have h := s.modQ_qs q q f; rw [if_pos rfl] at h; exact h
theorem LCh.modQ_ne (s : LCh) {q r : Qn} (h : q ≠ r) (f : Que → Que) : (s.modQ q f).qs[r.val] = s.qs[r.val] := by
  have e := s.modQ_qs q r f; rw [if_neg h] at e; exact e
@[simp] theorem LCh.modI_same (s : LCh) (x : Fin 4) (f : TIn → TIn) : (s.modI x f).ins[x.val] = f s.ins[x.val] := by
  have h := s.modI_ins x x f; rw [if_pos rfl] at h; exact h
theorem LCh.modI_ne (s : LCh) {x r : Fin 4} (h : x ≠ r) (f : TIn → TIn) : (s.modI x f).ins[r.val] = s.ins[r.val] := by
  have e := s.modI_ins x r f; rw [if_neg h] at e; exact e

/-! ## Queues of a logical channel -/

@[simp] theorem LCh.modQ_port (l : LCh) (q : Qn) (f : Que → Que) : (l.modQ q f).port = l.port := rfl
@[simp] theorem LCh.modQ_ins (l : LCh) (q : Qn) (f : Que → Que) : (l.modQ q f).ins = l.ins := rfl
@[simp] theorem LCh.modQ_outs (l : LCh) (q : Qn) (f : Que → Que) : (l.modQ q f).outs = l.outs := rfl
@[simp] theorem LCh.modQ_bed (l : LCh) (q : Qn) (f : Que → Que) : (l.modQ q f).bed = l.bed := rfl
@[simp] theorem LCh.modQ_msg (l : LCh) (q : Qn) (f : Que → Que) : (l.modQ q f).msg = l.msg := rfl
@[simp] theorem LCh.modQ_reqs (l : LCh) (q : Qn) (f : Que → Que) : (l.modQ q f).reqs = l.reqs := rfl
@[simp] theorem LCh.modI_port (l : LCh) (x : Fin 4) (f : TIn → TIn) : (l.modI x f).port = l.port := rfl
@[simp] theorem LCh.modI_qs (l : LCh) (x : Fin 4) (f : TIn → TIn) : (l.modI x f).qs = l.qs := rfl

@[simp] theorem State.modQ_que (n : Log) (q : Qn) (f : Que → Que) : (s.modQ n q f).que n q = f (s.que n q) := by
  simp only [State.que, State.modQ, State.modL_lch, LCh.modQ_qs, if_pos]
theorem State.modQ_que_ne (n : Log) {q r : Qn} (h : q ≠ r) (f : Que → Que) : (s.modQ n q f).que n r = s.que n r := by
  simp only [State.que, State.modQ, State.modL_lch, LCh.modQ_qs, if_pos, if_neg h]
theorem State.modL_que_ne {n m : Log} (h : n ≠ m) (q : Qn) (f : LCh → LCh) : (s.modL n f).que m q = s.que m q := by
  simp only [State.que, State.modL_lch, if_neg h]

/-- An update outside the logical channels leaves every queue alone. -/
theorem State.que_congr {s t : State} (h : t.lch = s.lch) (n : Log) (q : Qn) : t.que n q = s.que n q := by simp [State.que, h]

/-- Two updates of one logical channel are one. -/
theorem State.modL_modL (n : Log) (f g : LCh → LCh) : (s.modL n f).modL n g = s.modL n fun l => g (f l) := by
  simp [State.modL]
/-- An update that changes nothing. -/
theorem State.modL_id (n : Log) : (s.modL n fun l => l) = s := by simp [State.modL]

/-! ## Lists of indices and whole-vector updates -/

theorem mem_fins {n : Nat} (i : Fin n) : i ∈ fins n := by
  simp only [fins, List.mem_filterMap, List.mem_range]
  exact ⟨i, i.2, by simp⟩

theorem fins_nodup (n : Nat) : (fins n).Nodup := by
  refine List.Nodup.filterMap ?_ List.nodup_range
  intro a b c ha hb
  simp only [Option.mem_def] at ha hb
  split at ha <;> split at hb <;> simp_all [Fin.ext_iff]

/-- A fold that updates each listed entry once by a function of it. -/
theorem foldl_set {n : Nat} {α : Type} (f : Fin n → α → α) (l : List (Fin n)) (hl : l.Nodup) (v : Vector α n) (i : Fin n) :
    (l.foldl (fun w (i : Fin n) => w.set i (f i w[i])) v)[i] = if i ∈ l then f i v[i] else v[i] := by
  induction l generalizing v with
  | nil => simp
  | cons a as ih =>
    have ha : a ∉ as := (List.nodup_cons.mp hl).1
    rw [List.foldl_cons, ih (List.nodup_cons.mp hl).2]
    by_cases h : i = a
    · subst h; simp [ha]
    · have hv : (a : Nat) ≠ i := fun e => h (Fin.ext e.symm)
      simp [h, hv]

/-- A whole-vector update changes each entry by the function. -/
@[simp] theorem mapV_get {n : Nat} {α : Type} (v : Vector α n) (f : Fin n → α → α) (i : Fin n) : (mapV v f)[i.val] = f i v[i.val] := by
  have h := foldl_set f _ (fins_nodup n) v i
  rw [if_pos (mem_fins i)] at h; exact h

end Sys2Proof.Machine
end

