-- ==== Sys2Proof/Laws/Flow.lean ====
section
/-! SUPPORT. What the data path of a queue (`State.flow`) can do: the descriptors' execution, the queue's FIFOs and its owed credit move, a slice lock may become free, region faults may be counted, and a CREDIT may leave. -/

namespace Sys2Proof.Machine

/-! ## Descriptors -/

theorem sameAcc.refl (a : Acc) : sameAcc a a := by simp [sameAcc]

theorem sameAcc.trans {a b c : Acc} (h : sameAcc a b) (k : sameAcc b c) : sameAcc a c := by
  obtain ⟨h0, h1, h2, h3, h4, h5, h6, h7, h8⟩ := h
  obtain ⟨k0, k1, k2, k3, k4, k5, k6, k7, k8⟩ := k
  have hf : b.failAt = a.failAt := by rw [h0]
  refine ⟨?_, ?_, k2.trans h2, k3.trans h3, k4.trans h4, k5.trans h5, k6.trans h6, k7.trans h7, k8.trans h8⟩
  · rw [k0, h0]
  · rw [hf] at k1
    rcases k1 with k1 | ⟨k1, k2⟩
    · rw [k1]; exact h1
    · rcases h1 with h1 | h1
      · exact .inr ⟨h1 ▸ k1, k2⟩
      · exact .inr ⟨h1.1, k2⟩

/-- Descriptors that the data path moves, one by one. -/
abbrev sameAccs (l m : List Acc) : Prop := List.Forall₂ sameAcc l m

theorem sameAccs.refl (l : List Acc) : sameAccs l l := List.forall₂_same.mpr fun a _ => sameAcc.refl a

theorem sameAccs.trans {l m k : List Acc} (h : sameAccs l m) (g : sameAccs m k) : sameAccs l k := by
  induction h generalizing k with
  | nil => cases g; exact .nil
  | cons a _ ih => cases g with
    | cons b g => exact .cons (a.trans b) (ih g)

theorem sameAccs.map {f : Acc → Acc} (hf : ∀ a, sameAcc a (f a)) (l : List Acc) : sameAccs l (l.map f) := by
  induction l with
  | nil => exact .nil
  | cons a l ih => exact .cons (hf a) ih

theorem sameAccs.updFirst {p : Acc → Bool} {f : Acc → Acc} (hf : ∀ a, sameAcc a (f a)) (l : List Acc) : sameAccs l (updFirst p f l) := by
  induction l with
  | nil => exact .nil
  | cons a l ih =>
    unfold Machine.updFirst; split
    · exact .cons (hf a) (sameAccs.refl l)
    · exact .cons (sameAcc.refl a) ih

theorem sameAccs.ids {l m : List Acc} (h : sameAccs l m) : m.map Acc.id = l.map Acc.id := by
  induction h with
  | nil => rfl
  | cons h _ ih => simp only [List.map_cons, ih]; rw [h.1]

theorem sameAccs.length {l m : List Acc} (h : sameAccs l m) : m.length = l.length := h.length_eq.symm

/-- Each descriptor of the old queue is still there. -/
theorem sameAccs.mem {l m : List Acc} (h : sameAccs l m) {a : Acc} (ha : a ∈ l) : ∃ b ∈ m, sameAcc a b := by
  induction h with
  | nil => cases ha
  | cons h _ ih =>
    rcases List.mem_cons.mp ha with rfl | ha
    · exact ⟨_, List.mem_cons_self, h⟩
    · obtain ⟨b, hb, k⟩ := ih ha; exact ⟨b, List.mem_cons_of_mem _ hb, k⟩

/-! ## Queues -/

/-- What the data path may change of a queue. -/
def Que.flows (u v : Que) : Prop := sameQueue u v ∧ sameAccs u.acc v.acc

theorem Que.flows.refl (u : Que) : u.flows u := ⟨rfl, .refl _⟩

theorem Que.flows.trans {u v w : Que} (h : u.flows v) (k : v.flows w) : u.flows w := by
  refine ⟨?_, h.2.trans k.2⟩
  have h1 : v = _ := h.1
  have k1 : w = _ := k.1
  unfold sameQueue
  rw [k1, h1]

theorem Que.flows.modA {u : Que} {id : Nat} {f : Acc → Acc} (hf : ∀ a, sameAcc a (f a)) : u.flows (u.modA id f) :=
  ⟨rfl, .updFirst hf _⟩

theorem Que.flows.accs {u v : Que} {f : Acc → Acc} (hf : ∀ a, sameAcc a (f a)) (h : u.flows v) : u.flows { v with acc := v.acc.map f } :=
  h.trans ⟨rfl, .map hf _⟩

theorem Que.flows.freeWords (u : Que) (k : Nat) : u.flows (u.freeWords k) := by
  unfold Que.freeWords; split
  · exact .refl u
  · exact ⟨rfl, .refl _⟩

theorem Que.flows.link {u v : Que} (l : List LEnt) (h : u.flows v) : u.flows { v with link := l } :=
  h.trans ⟨rfl, .refl _⟩

theorem Que.flows.hin {u v : Que} (l : List (Nat × Nat)) (r : Nat) (h : u.flows v) : u.flows { v with hin := l, hinR := r } :=
  h.trans ⟨rfl, .refl _⟩

/-- The read pointers of the FIFOs move with the words taken. -/
theorem Que.flows.reads {u v : Que} (l : List (Nat × Nat)) (k : Nat) (h : u.flows v) : u.flows { v with hinRec := l, linkR := k } :=
  h.trans ⟨rfl, .refl _⟩

theorem Que.flows.drop {u v : Que} (l : List LEnt) (d : List Nat) (h : u.flows v) : u.flows { v with link := l, toDrop := d } :=
  h.trans ⟨rfl, .refl _⟩

/-! ## Taking words and detecting -/

/-- An execution state keeps what the link side and the requests have done. -/
theorem sameAcc.ofX (a : Acc) (x : Exec) (h : x.linkErr = a.x.linkErr) (h2 : x.outSent = a.x.outSent) (h3 : x.finSent = a.x.finSent)
    (h4 : x.finA = a.x.finA) (h5 : x.allow = a.x.allow) (h6 : x.endAt = a.x.endAt) (h7 : x.began = a.x.began) (h8 : x.msgAbort = a.x.msgAbort) :
    sameAcc a { a with x } := ⟨rfl, .inl h, h2, h3, h4, h5, h6, h7, h8⟩

theorem takeHost_flows (dm : Nat) (bed : Option Bed) (fuel : Nat) (u : Que) : u.flows (takeHost dm bed fuel u) := by
  induction fuel generalizing u with
  | zero => exact .refl u
  | succ k ih =>
    unfold takeHost
    split
    · exact .refl u
    · split
      · exact Que.flows.trans (Que.flows.hin _ u.hinR (.refl u)) (ih _)
      · split
        · split
          · refine Que.flows.trans ?_ (ih _)
            refine Que.flows.trans (Que.flows.hin _ _ (.refl u)) (.modA fun a => ?_)
            exact .ofX a _ rfl rfl rfl rfl rfl rfl rfl rfl
          · exact .refl u
        · exact .refl u

theorem inFault_same (a : Acc) (f : Flt) : sameAcc a { a with x := a.x.inFault f } := .ofX a _ rfl rfl rfl rfl rfl rfl rfl rfl

theorem markRows_same (a : Acc) : sameAcc a (markRows a) := by
  unfold markRows
  split
  · exact .refl a
  · dsimp only
    split
    · exact .ofX a _ rfl rfl rfl rfl rfl rfl rfl rfl
    · exact inFault_same a _
    · exact .refl a

theorem detect_same (bed : Option Bed) (a : Acc) : sameAcc a (detect bed a) := by
  unfold detect
  split
  · exact .refl a
  · dsimp only
    refine (markRows_same a).trans ?_
    generalize markRows a = b
    split
    · split
      · exact .ofX b _ rfl rfl rfl rfl rfl rfl rfl rfl
      · exact .ofX b _ rfl rfl rfl rfl rfl rfl rfl rfl
      · exact .refl b
      · split
        · exact .ofX b _ rfl rfl rfl rfl rfl rfl rfl rfl
        · exact .ofX b _ rfl rfl rfl rfl rfl rfl rfl rfl
    · split
      · exact inFault_same b _
      · exact .refl b

theorem outFault_same (a : Acc) (bed : Option Bed) (f : Flt) : sameAcc a (a.outFault bed f) := by
  unfold Acc.outFault
  exact .ofX a _ rfl rfl rfl rfl rfl rfl rfl rfl

/-- A report that was waited for takes effect at its offset (R108). -/
theorem reported_same (bed : Option Bed) (a : Acc) : sameAcc a (a.reported bed) := by
  unfold Acc.reported
  split
  · next off ho =>
    split
    · next h =>
      have hn : a.x.linkErr = none := by
        simp only [Bool.and_eq_true, Option.isNone_iff_eq_none] at h; exact h.1.1.2
      have hb : sameAcc a { a with x := { a.x with linkErr := some off, creditA := none } } :=
        ⟨rfl, .inr ⟨hn, ho.symm⟩, rfl, rfl, rfl, rfl, rfl, rfl, rfl⟩
      unfold Acc.linkFail
      dsimp only
      split
      · exact hb
      · exact hb.trans (outFault_same _ _ _)
    · exact .refl a
  · exact .refl a

theorem feedOne_flows (u : Que) (a : Acc) (rem : Nat) : u.flows (feedOne u a rem) := by
  have put : ∀ (l e : List LEnt) (fin : Bool) (exc : Nat) (p : Bool), u.flows (({ u with link := l } : Que).modA a.id fun a => { a with
      dataIn := a.dataIn || !e.isEmpty, x := { a.x with
        lin := a.x.lin ++ e, linEnd := fin, excess := a.x.excess + exc, psnSeen := a.x.psnSeen || p, gapSeen := a.x.gapSeen || gapIn e } }) :=
    fun l e fin exc p => (Que.flows.link l (.refl u)).trans (.modA fun a => ⟨rfl, .inl rfl, rfl, rfl, rfl, rfl, rfl, rfl, rfl⟩)
  unfold feedOne
  dsimp only
  split
  · exact .refl u
  · split <;> exact put _ _ _ _ _
  · split <;> exact put _ _ _ _ _
  · exact put _ _ _ _ _
  · exact put _ _ _ _ _

theorem dropOne_flows (u : Que) (rem : Nat) (rest : List Nat) : u.flows (dropOne u rem rest) := by
  unfold dropOne
  split
  · exact .refl u
  · split <;> exact .drop _ _ (.refl u)
  · split <;> exact .drop _ _ (.refl u)
  · exact .drop _ _ (.refl u)
  · exact .drop _ _ (.refl u)

theorem feedLink_flows (dm : Nat) (bed : Option Bed) (fuel : Nat) (u : Que) : u.flows (feedLink dm bed fuel u) := by
  induction fuel generalizing u with
  | zero => exact .refl u
  | succ k ih =>
    unfold feedLink
    split
    · split
      · exact .refl u
      · exact (dropOne_flows u _ _).trans (ih _)
    · split
      · exact .refl u
      · split
        · exact .refl u
        · split
          · exact .refl u
          · split
            · refine Que.flows.trans (.modA fun a => ?_) (ih _)
              exact .ofX a _ rfl rfl rfl rfl rfl rfl rfl rfl
            · split
              · exact .refl u
              · exact (feedOne_flows u _ _).trans (ih _)

theorem takePay_same (a : Acc) : sameAcc a a.takePay := by
  unfold Acc.takePay
  dsimp only
  split
  · exact .ofX a _ rfl rfl rfl rfl rfl rfl rfl rfl
  · split <;> exact ⟨rfl, .inl rfl, rfl, rfl, rfl, rfl, rfl, rfl, rfl⟩
  all_goals exact ⟨rfl, .inl rfl, rfl, rfl, rfl, rfl, rfl, rfl, rfl⟩

theorem feedInline_flows (dm : Nat) (bed : Option Bed) (id fuel : Nat) (u : Que) : u.flows (feedInline dm bed id fuel u) := by
  induction fuel generalizing u with
  | zero => exact .refl u
  | succ k ih =>
    unfold feedInline
    split
    · split
      · exact .refl u
      · exact (Que.flows.modA takePay_same).trans (ih _)
    · exact .refl u

/-- A release moves the release count and what is owed, and nothing else. -/
theorem Que.flows.freedTo {u v : Que} (h : u.flows v) : u.flows (u.freedTo v) := by
  unfold Que.freedTo
  exact (Que.flows.reads v.hinRec _ h).trans (.freeWords _ _)

theorem takeLink_flows (u : Que) (dm : Nat) (bed : Option Bed) : u.flows (u.takeLink dm bed) := by
  unfold Que.takeLink
  refine .freedTo ?_
  suffices h : ∀ (l : List Acc) (w : Que), u.flows w → u.flows (l.foldl (fun v a => feedInline dm bed a.id (a.payload.length + 1) v) w) from
    h _ _ (feedLink_flows dm bed _ u)
  intro l
  induction l with
  | nil => exact fun _ h => h
  | cons a l ih => exact fun w h => ih _ (h.trans (feedInline_flows dm bed _ _ w))

/-! ## States -/

/-- What the data path of queue `q` of `n` may change. -/
structure FlowFrame (n : Log) (q : Qn) (s t : State) : Prop where
  state : t = { s with lch := t.lch, doms := t.doms, rf := t.rf, linkOut := t.linkOut, slices := t.slices, phys := t.phys }
  others : ∀ m : Log, m ≠ n → t.lch[m] = s.lch[m]
  chan : t.lch[n] = { s.lch[n] with qs := t.lch[n].qs, bed := t.lch[n].bed }
  siblings : ∀ r : Qn, r ≠ q → t.que n r = s.que n r
  queue : (s.que n q).flows (t.que n q)
  phys : ∀ p : Phys, t.phys[p] = { s.phys[p] with locked := t.phys[p].locked }
  still : ∀ p : Phys, s.runP n ≠ some p → t.phys[p] = s.phys[p]
  slices : ∀ sl : SliceN, t.slices[sl] = { s.slices[sl] with lock := t.slices[sl].lock }
  lock : ∀ sl : SliceN, t.slices[sl].lock = s.slices[sl].lock ∨ t.slices[sl].lock.held = false
  sent : s.linkOut <+: t.linkOut

theorem FlowFrame.refl (n : Log) (q : Qn) (s : State) : FlowFrame n q s s :=
  ⟨rfl, fun _ _ => rfl, rfl, fun _ _ => rfl, .refl _, fun _ => rfl, fun _ _ => rfl, fun _ => rfl, fun _ => .inl rfl, List.prefix_rfl⟩

theorem FlowFrame.runP {n : Log} {q : Qn} {s t : State} (h : FlowFrame n q s t) (m : Log) : t.runP m = s.runP m := by
  have hm : t.map = s.map := by rw [h.state]
  have hp : ∀ p : Phys, t.phys[p].st = s.phys[p].st := fun p => by rw [h.phys p]
  simp only [State.runP, hm]
  congr 1
  funext p
  rw [hp]

theorem FlowFrame.trans {n : Log} {q : Qn} {s t u : State} (h : FlowFrame n q s t) (k : FlowFrame n q t u) : FlowFrame n q s u where
  state := by rw [k.state, h.state]
  others m hm := (k.others m hm).trans (h.others m hm)
  chan := by rw [k.chan, h.chan]
  siblings r hr := (k.siblings r hr).trans (h.siblings r hr)
  queue := h.queue.trans k.queue
  phys p := by rw [k.phys p, h.phys p]
  still p hp := (k.still p (by rwa [h.runP])).trans (h.still p hp)
  slices sl := by rw [k.slices sl, h.slices sl]
  lock sl := by
    rcases k.lock sl with k | k
    · rw [k]; exact h.lock sl
    · exact .inr k
  sent := h.sent.trans k.sent

/-- An update of the queue itself. -/
theorem FlowFrame.modQ (n : Log) (q : Qn) (s : State) (f : Que → Que) (hf : (s.que n q).flows (f (s.que n q))) : FlowFrame n q s (s.modQ n q f) where
  state := rfl
  others m hm := by simp only [State.modQ, State.modL_lch, if_neg (Ne.symm hm)]
  chan := by simp only [State.modQ, State.modL_lch, if_pos]; rfl
  siblings r hr := State.modQ_que_ne s n (Ne.symm hr) f
  queue := by rw [State.modQ_que]; exact hf
  phys _ := rfl
  still _ _ := rfl
  slices _ := rfl
  lock _ := .inl rfl
  sent := List.prefix_rfl

theorem FlowFrame.modA (n : Log) (q : Qn) (s : State) (id : Nat) {f : Acc → Acc} (hf : ∀ a, sameAcc a (f a)) : FlowFrame n q s (s.modA n q id f) :=
  .modQ n q s _ (.modA hf)

theorem FlowFrame.modBed (n : Log) (q : Qn) (s : State) (f : Bed → Bed) : FlowFrame n q s (s.modBed n f) where
  state := rfl
  others m hm := by simp only [State.modBed, State.modL_lch, if_neg (Ne.symm hm)]
  chan := by simp only [State.modBed, State.modL_lch, if_pos]
  siblings r _ := by simp only [State.que, State.modBed, State.modL_lch, if_pos]
  queue := by
    have h : (s.modBed n f).que n q = s.que n q := by simp only [State.que, State.modBed, State.modL_lch, if_pos]
    rw [h]; exact .refl _
  phys _ := rfl
  still _ _ := rfl
  slices _ := rfl
  lock _ := .inl rfl
  sent := List.prefix_rfl

theorem FlowFrame.regionFail (n : Log) (q : Qn) (s : State) (k : Kind) (a : Nat) : FlowFrame n q s (s.regionFail n q k a) :=
  ⟨rfl, fun _ _ => rfl, rfl, fun _ _ => rfl, .refl _, fun _ => rfl, fun _ _ => rfl, fun _ => rfl, fun _ => .inl rfl, List.prefix_rfl⟩

theorem FlowFrame.send (n : Log) (q : Qn) (s : State) (k : Pkt) : FlowFrame n q s (s.send n k) where
  state := by unfold State.send; split <;> rfl
  others _ _ := by simp only [State.send_lch]
  chan := by simp only [State.send_lch]
  siblings _ _ := by simp only [State.que, State.send_lch]
  queue := by simp only [State.que, State.send_lch]; exact .refl _
  phys _ := by simp only [State.send_phys]
  still _ _ := by simp only [State.send_phys]
  slices _ := by simp only [State.send_slices]
  lock _ := .inl (by simp only [State.send_slices])
  sent := State.send_prefix s n k

theorem FlowFrame.lockFree (n : Log) (q : Qn) (s : State) (sl : SliceN) : FlowFrame n q s (s.lockFree sl) where
  state := rfl
  others _ _ := rfl
  chan := rfl
  siblings _ _ := rfl
  queue := .refl _
  phys _ := rfl
  still _ _ := rfl
  slices x := by
    simp only [State.lockFree, State.modS_slices]; split
    · next h => subst h; rfl
    · rfl
  lock x := by
    simp only [State.lockFree, State.modS_slices]; split
    · exact .inr rfl
    · exact .inl rfl
  sent := List.prefix_rfl

/-- A fold of steps that each keep the frame keeps it. -/
theorem FlowFrame.foldl {α : Type} {n : Log} {q : Qn} (f : State → α → State) (hf : ∀ s a, FlowFrame n q s (f s a)) (l : List α) (s : State) :
    FlowFrame n q s (l.foldl f s) := by
  induction l generalizing s with
  | nil => exact .refl n q s
  | cons a l ih => exact (hf s a).trans (ih _)

theorem FlowFrame.lockRelease (n : Log) (q : Qn) (s : State) (p : Phys) (hp : s.runP n = some p) : FlowFrame n q s (s.lockRelease p n) := by
  unfold State.lockRelease
  have h1 : FlowFrame n q s ((fins 16).foldl (fun s sl =>
      let k := s.slices[sl].lock
      if k.held && k.owner = n.val && k.inc = s.inc n && k.phys = p.val then s.lockFree sl else s) s) :=
    .foldl _ (fun s sl => by dsimp only; split; exacts [.lockFree n q s sl, .refl n q s]) _ s
  refine h1.trans ?_
  generalize hu : List.foldl _ s _ = u at h1
  exact {
    state := rfl
    others := fun _ _ => rfl
    chan := rfl
    siblings := fun _ _ => rfl
    queue := .refl _
    phys := fun r => by
      simp only [State.modP_phys]; split
      · next h => subst h; rfl
      · rfl
    still := fun r hr => by
      have : p ≠ r := fun h => hr (by rw [h1.runP, hp, h])
      simp only [State.modP_phys, if_neg this]
    slices := fun _ => rfl
    lock := fun _ => .inl rfl
    sent := List.prefix_rfl }

theorem takeOver_same (a : Acc) (now : Nat) : sameAcc a (a.takeOver now) := by
  unfold Acc.takeOver Acc.endWait
  dsimp only
  split <;> exact ⟨rfl, .inl rfl, rfl, rfl, rfl, rfl, rfl, rfl, rfl⟩

theorem FlowFrame.takeTidy (n : Log) (q : Qn) (s : State) (a : Acc) : FlowFrame n q s (s.takeTidy n q a) := by
  unfold State.takeTidy
  dsimp only
  split
  · exact .refl n q s
  · split
    · exact (FlowFrame.modBed n q s _).trans (.modA n q _ _ fun a => takeOver_same a _)
    · split
      · split
        · split
          · next p hp => exact ((FlowFrame.lockRelease n q s p hp).trans (.modBed n q _ _)).trans (.modA n q _ _ fun a => takeOver_same a _)
          · exact .refl n q s
        · exact .refl n q s
      · exact .modA n q s _ fun a => takeOver_same a _

theorem FlowFrame.creditOut (n : Log) (q : Qn) (s : State) : FlowFrame n q s (s.creditOut n q) := by
  unfold State.creditOut
  dsimp only
  split
  · exact (FlowFrame.modQ n q s (fun u => { u with wordCr := u.wordCr + (s.que n q).owed, owed := 0 }) ⟨rfl, .refl _⟩).trans (.send n q _ _)
  · exact .refl n q s

theorem FlowFrame.linkWait (n : Log) (q : Qn) (s : State) : FlowFrame n q s (s.linkWait n q) := by
  unfold State.linkWait
  dsimp only
  split
  · exact .refl n q s
  · split
    · split
      · exact .refl n q s
      · exact .modA n q s _ fun a => ⟨rfl, .inl rfl, rfl, rfl, rfl, rfl, rfl, rfl, rfl⟩
    · split
      · exact .refl n q s
      · exact .modA n q s _ fun a => ⟨rfl, .inl rfl, rfl, rfl, rfl, rfl, rfl, rfl, rfl⟩

theorem FlowFrame.checkTx (n : Log) (q : Qn) (s : State) (k : Kind) (tx : List (Nat × Nat × List Nat)) : FlowFrame n q s (s.checkTx n q k tx).1 := by
  unfold State.checkTx
  suffices h : ∀ (l : List (Nat × Nat × List Nat)) (z : State × List Nat), FlowFrame n q s z.1 → FlowFrame n q s (l.foldl (fun (s, bad) (a, _, es) =>
      if s.regionOk (s.que n q).cfg.dom k a then (s, bad) else (s.regionFail n q k a, bad ++ es)) z).1 from h tx (s, []) (.refl n q s)
  intro l
  induction l with
  | nil => exact fun z h => h
  | cons x l ih =>
    intro z h
    refine ih _ ?_
    dsimp only
    split
    · exact h
    · exact h.trans (.regionFail n q _ _ _)

theorem FlowFrame.checkWindows (n : Log) (q : Qn) (id fuel : Nat) (s : State) : FlowFrame n q s (checkWindows n q id fuel s) := by
  induction fuel generalizing s with
  | zero => exact .refl n q s
  | succ k ih =>
    unfold Machine.checkWindows
    split
    · exact .refl n q s
    · dsimp only
      generalize (if _ < Acc.begunWindows _ then 0 else _ : Nat) = new
      split
      · exact .refl n q s
      · split
        · exact .refl n q s
        · refine FlowFrame.trans ?_ (ih _)
          refine (FlowFrame.checkTx n q s _ _).trans (.modA n q _ _ fun a => ?_)
          split <;> exact ⟨rfl, .inl rfl, rfl, rfl, rfl, rfl, rfl, rfl, rfl⟩

theorem FlowFrame.vecStep (n : Log) (q : Qn) (s : State) (a : Acc) : FlowFrame n q s (s.vecStep n q a) := by
  unfold State.vecStep
  split
  · exact .refl n q s
  · split
    · split
      · exact .refl n q s
      · refine (FlowFrame.checkTx n q s _ _).trans (.modA n q _ _ fun a => ?_)
        split <;> exact ⟨rfl, .inl rfl, rfl, rfl, rfl, rfl, rfl, rfl, rfl⟩
    · dsimp only
      split
      · refine .modA n q s _ fun a => ?_
        split <;> exact ⟨rfl, .inl rfl, rfl, rfl, rfl, rfl, rfl, rfl, rfl⟩
      · exact .refl n q s

theorem FlowFrame.pumpOnce (n : Log) (q : Qn) (s : State) : FlowFrame n q s (s.pumpOnce n q) := by
  unfold State.pumpOnce
  refine (FlowFrame.modQ n q s _ ?_).trans (.foldl _ (fun s a => ?_) _ _)
  · have h₁ := takeHost_flows s.lch[n].port.dmax s.lch[n].bed (s.que n q).hin.length (s.que n q)
    generalize takeHost _ _ _ _ = u₁ at h₁ ⊢
    dsimp only
    have h₃ := Que.flows.accs (fun a => (reported_same s.lch[n].bed a).trans (detect_same s.lch[n].bed _)) (Que.flows.reads (if u₁.hinR = (s.que n q).hinR then u₁.hinRec else
      (s.hclk, u₁.hinR - (s.que n q).hinR) :: u₁.hinRec.filter fun x => x.1 + 3 > s.hclk) u₁.linkR h₁)
    exact .accs (detect_same _) (h₃.trans (takeLink_flows _ _ _))
  · split
    · exact .refl n q s
    · split
      · exact .checkWindows n q _ _ s
      · split
        · split
          · exact .vecStep n q s _
          · exact .refl n q s
        · exact .refl n q s

/-- Everything that the data path of a queue can do. -/
theorem FlowFrame.flow (n : Log) (q : Qn) (s : State) : FlowFrame n q s (s.flow n q) := by
  unfold State.flow State.pump
  dsimp only
  exact ((((FlowFrame.pumpOnce n q s).trans (.pumpOnce n q _)).trans (.foldl _ (fun s a => .takeTidy n q s a) _ _)).trans
    (.creditOut n q _)).trans (.linkWait n q _)

/-- The frame in the terms of the statements. -/
theorem FlowFrame.channel {n : Log} {q : Qn} {s t : State} (h : FlowFrame n q s t) :
    sameControl s t ∧ sameOthers n s t ∧ sameSiblings n q s t ∧ s.linkOut <+: t.linkOut := by
  refine ⟨?_, h.others, ⟨h.siblings, by rw [h.chan], by rw [h.chan]⟩, h.sent⟩
  unfold sameControl
  rw [h.state]

end Sys2Proof.Machine
end

