-- ==== Sys2Proof/Laws/Shared.lean ====
section
/-! SUPPORT. What the shared operations can do, once each: posting to the ledger, running on a live channel, an inbound packet, a link error, an update of one descriptor, the pins at an edge, and staging paths that are free. -/

namespace Sys2Proof.Machine

/-! ## The ledger -/

/-- Taking the next record touches the ledger's registers only. -/
theorem State.ledgerTake_frame (s : State) : s.ledgerTake = { s with ldg := s.ledgerTake.ldg } := by
  unfold State.ledgerTake; split
  · split
    · dsimp only; split <;> rfl
    · rfl
  · rfl

/-- The posting queue does not grow beyond what it held when the writer takes a record. -/
theorem State.ledgerTake_length (s : State) : s.ledgerTake.ldg.queue.length ≤ s.ldg.queue.length := by
  unfold State.ledgerTake; split
  · next hc hq =>
    split
    · dsimp only; split <;> simp [hq]
    · simp
  · simp

theorem numbered_length (b : Nat) (l : List LRec) : (numbered b l).length = l.length := by simp [numbered]

theorem insertRec_length (l : List LRec) (r : LRec) : (insertRec l r).length = l.length + 1 := by
  have h := congrArg List.length (List.takeWhile_append_dropWhile (p := fun x : LRec => x.plane ≤ r.plane) (l := l))
  simp only [List.length_append] at h
  simp only [insertRec, List.length_append, List.length_cons]
  omega

theorem foldl_insertRec_length (rs l : List LRec) : (rs.foldl insertRec l).length = l.length + rs.length := by
  induction rs generalizing l with
  | nil => simp
  | cons r rs ih => rw [List.foldl_cons, ih, insertRec_length, List.length_cons]; omega

/-- Records that enter the posting queue lengthen it by their number. -/
theorem Ldg.enqueue_length (l : Ldg) (now : Nat) (rs : List LRec) : (l.enqueue now rs).queue.length ≤ l.queue.length + rs.length := by
  unfold Ldg.enqueue
  dsimp only
  split
  · simp only [List.length_tail, numbered_length, foldl_insertRec_length, List.length_cons, List.length_drop]
    omega
  · simp only [List.length_append, numbered_length, foldl_insertRec_length, List.length_take, List.length_drop]
    omega

theorem State.ledgerLose_frame (s : State) (kind plane k : Nat) : s.ledgerLose kind plane k = { s with ldg := (s.ledgerLose kind plane k).ldg } := rfl
theorem State.ledgerLose_queue (s : State) (kind plane k : Nat) : (s.ledgerLose kind plane k).ldg.queue = s.ldg.queue := rfl
theorem Ldg.cut_length (l : Ldg) (k : Nat) : (l.cut k).queue.length = min (l.queue.length - k) l.queue.length := List.length_take

/-- Making room touches the ledger's registers only. -/
theorem State.makeRoom_frame (plane need fuel : Nat) (s : State) : s.makeRoom plane need fuel = { s with ldg := (s.makeRoom plane need fuel).ldg } := by
  induction fuel generalizing s with
  | zero => rfl
  | succ k ih =>
    unfold State.makeRoom
    split
    · rfl
    · split
      · rfl
      · dsimp only
        rw [ih, State.ledgerLose_frame]

/-- A round of making room removes at least one record, so as many rounds as the queue is too long by make the room. -/
theorem State.makeRoom_fits (plane need fuel : Nat) (s : State) (hn : need ≤ 64) (h : s.ldg.queue.length + need ≤ 64 + fuel) :
    (s.makeRoom plane need fuel).ldg.queue.length + need ≤ 64 := by
  induction fuel generalizing s with
  | zero => exact h
  | succ k ih =>
    unfold State.makeRoom
    split
    · assumption
    · split
      · next hq => rw [List.reverse_eq_nil_iff.mp hq]; simpa using hn
      · next r rest hq =>
        have hl : s.ldg.queue.length = rest.length + 1 := by rw [← List.length_reverse, hq]; rfl
        refine ih _ ?_
        rw [State.ledgerLose_queue]
        dsimp only
        rw [Ldg.cut_length]
        split <;> omega

/-- Posting touches the ledger's registers only. -/
theorem State.postAll_frame (s : State) (rs : List LRec) : s.postAll rs = { s with ldg := (s.postAll rs).ldg } := by
  unfold State.postAll; dsimp only; split
  · rfl
  · rw [State.ledgerTake_frame, State.makeRoom_frame]

/-- Posting keeps the posting queue within its 64 places. -/
theorem State.postAll_fits (s : State) (rs : List LRec) (h : s.ledgerFits) : (s.postAll rs).ledgerFits := by
  unfold State.postAll; dsimp only; split
  · exact h
  · next hc =>
    refine le_trans (State.ledgerTake_length _) ?_
    simp only [Bool.or_eq_true, decide_eq_true_eq, not_or, not_lt] at hc
    have hb : s.ldg.behind s.aclk ((rs.head?.map LRec.plane).getD 0) ≤ s.ldg.queue.length := by
      unfold Ldg.behind
      exact le_trans (List.takeWhile_sublist _).length_le (by rw [List.length_reverse])
    have hf : s.ldg.queue.length ≤ 64 := h
    have hm := s.makeRoom_fits ((rs.head?.map LRec.plane).getD 0) rs.length rs.length (by omega) (by omega)
    generalize s.makeRoom _ _ _ = t at hm ⊢
    have he := t.ldg.enqueue_length t.aclk (rs.map fun r => { r with time := t.frame % 2 ^ 32, at_ := some t.aclk })
    simp only [List.length_map] at he
    exact le_trans he hm

theorem State.post_frame (s : State) (kind plane src : Nat) (arg : List Byte) (q : Nat) :
    s.post kind plane src arg q = { s with ldg := (s.post kind plane src arg q).ldg } := s.postAll_frame _
theorem State.postCont_frame (s : State) (kind plane src : Nat) (arg cont : List Byte) (q : Nat) :
    s.postCont kind plane src arg cont q = { s with ldg := (s.postCont kind plane src arg cont q).ldg } := s.postAll_frame _

theorem State.post_fits (s : State) (kind plane src : Nat) (arg : List Byte) (q : Nat) (h : s.ledgerFits) : (s.post kind plane src arg q).ledgerFits :=
  s.postAll_fits _ h
theorem State.postCont_fits (s : State) (kind plane src : Nat) (arg cont : List Byte) (q : Nat) (h : s.ledgerFits) :
    (s.postCont kind plane src arg cont q).ledgerFits := s.postAll_fits _ h

/-! ## A live channel -/

theorem State.live_iff (s : State) (n : Log) (p : Phys) :
    s.live n p = true ↔ s.hrstN = true ∧ s.vddCore = true ∧ s.runP n = some p ∧ s.phys[p].entry = 0 := by
  simp [State.live, State.on, and_assoc]

/-- The running channel serves the logical channel that the map gives it. -/
theorem State.runP_iff (s : State) (n : Log) (p : Phys) :
    s.runP n = some p ↔ s.map[n] = some p ∧ (s.phys[p].st = .active ∨ s.phys[p].st = .draining) := by
  simp [State.runP, Option.filter_eq_some_iff]

theorem State.runP_servP (s : State) (n : Log) (p : Phys) (h : s.runP n = some p) : s.servP n = some p := by
  obtain ⟨h1, h2⟩ := (s.runP_iff n p).mp h
  simp only [State.servP, Option.filter_eq_some_iff]
  refine ⟨h1, ?_⟩
  rcases h2 with h2 | h2 <;> simp only [h2, CS.serves]

/-- A command runs on the live channel. -/
theorem State.withRun_live (s : State) (n : Log) (p : Phys) (f : Phys → State) (h : s.live n p = true) : s.withRun n f = f p := by
  obtain ⟨h1, h2, h3, _⟩ := (s.live_iff n p).mp h
  simp [State.withRun, h1, h2, h3]

theorem State.withAwake_live (s : State) (n : Log) (p : Phys) (f : Phys → State) (h : s.live n p = true) : s.withAwake n f = f p := by
  obtain ⟨_, _, _, h4⟩ := (s.live_iff n p).mp h
  have h5 : s.phys[p.val].entry = 0 := h4
  rw [State.withAwake, State.withRun_live s n p _ h]
  simp [h5]

/-- A demand at a live channel restarts its count of quiet aclk, and nothing else. -/
theorem State.demand_live (s : State) (n : Log) (p : Phys) (h : s.live n p = true) :
    ∃ k z, s.demand p = s.modP p fun c => { c with quiet := k, stirA := z, entry := 0 } := by
  obtain ⟨_, _, h3, h4⟩ := (s.live_iff n p).mp h
  obtain ⟨_, h2⟩ := (s.runP_iff n p).mp h3
  unfold State.demand
  rcases h2 with h2 | h2
  · dsimp only; rw [h2]; dsimp only; rw [if_pos (by have h5 : s.phys[p.val].entry = 0 := h4; simp [h5])]; exact ⟨0, some s.aclk, rfl⟩
  · dsimp only; rw [h2]
    refine ⟨s.phys[p].quiet, s.phys[p].stirA, ?_⟩
    have e : ({ s.phys[p] with quiet := s.phys[p].quiet, stirA := s.phys[p].stirA, entry := 0 } : PCh) = s.phys[p] := by rw [← h4]
    simp only [State.modP]
    rw [e]
    simp

/-- A packet at a linked port reaches its channel, which it keeps from sleeping. -/
theorem State.inbound_linked (s : State) (n : Log) (p : Phys) (f : Phys → State → State) (h : s.linked n p = true) : s.inbound n f = f p (s.demand p) := by
  simp only [State.linked, Bool.and_eq_true, Bool.not_eq_true'] at h
  obtain ⟨⟨hl, hg⟩, ht⟩ := h
  obtain ⟨h1, h2, h3, h4⟩ := (s.live_iff n p).mp hl
  have hs : s.samples p = true := by
    obtain ⟨_, h5⟩ := (s.runP_iff n p).mp h3
    simp only [State.samples, h4]
    rcases h5 with h5 | h5 <;> simp only [h5] <;> rfl
  unfold State.inbound
  rw [State.runP_servP s n p h3]
  simp only [h1, h2, ht, hg, hs]
  rfl

/-- A pulse of a request line at a linked port reaches its channel. -/
theorem State.onPulse_linked (s : State) (n : Log) (p : Phys) (f : Phys → State → State) (h : s.linked n p = true) : s.onPulse n f = f p (s.demand p) := by
  have h4 : s.phys[p].entry = 0 := by
    simp only [State.linked, Bool.and_eq_true] at h
    exact ((s.live_iff n p).mp h.1.1).2.2.2
  unfold State.onPulse
  rw [s.inbound_linked n p _ h, if_pos h4]

/-! ## Link errors -/

/-- An inbound link error counts at its channel and at its port's interval. -/
theorem State.linkErr_frame (s : State) (n : Log) (p : Phys) (k c : Nat) :
    s.linkErr n p k c = { s with phys := (s.linkErr n p k c).phys, linkIvl := (s.linkErr n p k c).linkIvl } := rfl
theorem State.linkErr_phys (s : State) (n : Log) (p : Phys) (k c : Nat) :
    (s.linkErr n p k c).phys[p] = { s.phys[p] with c := { s.phys[p].c with lerrs := min 0xFFFF (s.phys[p].c.lerrs + c), lkind := k } } := by
  simp only [State.linkErr, State.modC, State.modP_phys, if_pos, satAdd]
theorem State.linkErr_others (s : State) (n : Log) (p r : Phys) (k c : Nat) (h : r ≠ p) : (s.linkErr n p k c).phys[r] = s.phys[r] := by
  simp only [State.linkErr, State.modC, State.modP_phys, if_neg (Ne.symm h)]

/-! ## One descriptor -/

theorem find?_updFirst {α : Type} (p : α → Bool) (f : α → α) (l : List α) (hf : ∀ a, p a = true → p (f a) = true) :
    (updFirst p f l).find? p = (l.find? p).map f := by
  induction l with
  | nil => rfl
  | cons a l ih =>
    unfold updFirst
    by_cases h : p a = true
    · simp [h, hf a h]
    · simp [h, ih]

theorem length_updFirst {α : Type} (p : α → Bool) (f : α → α) (l : List α) : (updFirst p f l).length = l.length := by
  induction l with
  | nil => rfl
  | cons a l ih => unfold updFirst; split <;> simp [ih]

/-- An update of the descriptor with a serial is read back under that serial. -/
theorem State.modA_acc (s : State) (n : Log) (q : Qn) (id : Nat) (f : Acc → Acc) (hf : ∀ a, a.id = id → (f a).id = id) :
    (s.modA n q id f).acc n q id = (s.acc n q id).map f := by
  simp only [State.acc, State.modA, State.modQ_que, Que.modA]
  refine find?_updFirst _ f _ fun a h => ?_
  have h1 : a.id = id := by simpa using h
  simpa using hf a h1

theorem State.modA_que (s : State) (n : Log) (q : Qn) (id : Nat) (f : Acc → Acc) :
    (s.modA n q id f).que n q = { s.que n q with acc := updFirst (fun a => a.id == id) f (s.que n q).acc } := by
  simp only [State.modA, State.modQ_que]; rfl

/-! ## Edges of hclk -/

theorem State.atH_on (s : State) (h : Nat) (f : State → State) (hs : s.on = true) (hh : s.hclk ≤ h) : s.atH h f = f { s with hclk := h } := by
  simp only [State.on, Bool.and_eq_true] at hs
  simp [State.atH, hs.1, hs.2, hh]

theorem State.atPins_on (s : State) (h : Nat) (f : State → State) (hp : s.pinsAt h = true) : s.atPins h f = f { s with hclk := h } := by
  simp only [State.pinsAt, Bool.and_eq_true, decide_eq_true_eq, Bool.not_eq_true'] at hp
  rw [State.atPins, hp.2, State.atH_on s h f hp.1.1 hp.1.2]
  rfl

/-- The fence and the map decide whether a transaction is fresh. -/
theorem State.fresh_map (s : State) (t : Txn) (h : s.fresh t = true) : s.map[t.log] = some t.phys ∧ s.inc t.log = t.inc := by
  simp only [State.fresh, Bool.and_eq_true, beq_iff_eq, State.logOf] at h
  exact ⟨by simpa using List.find?_some h.1, h.2⟩

/-! ## Staging paths -/

/-- A slice whose staging path is free has nothing to settle. -/
theorem State.settle_none (s : State) (sl : SliceN) (h : Nat) (e : s.slices[sl].hold = none) : s.settle sl h = s := by
  unfold State.settle; rw [e]
/-- With every staging path free nothing has to settle. -/
theorem State.settled_none (s : State) (h : Nat) (e : ∀ sl : SliceN, s.slices[sl].hold = none) : s.settled h = s := by
  unfold State.settled
  induction fins 16 with
  | nil => rfl
  | cons sl l ih => rw [List.foldl_cons, State.settle_none s sl h (e sl), ih]

end Sys2Proof.Machine
end

