-- ==== Sys2Proof/Laws/Calm.lean ====
section
/-! SUPPORT. Calm operations: those that keep the queue of commands, the map, each terrace's reserve and takeover, and the posting queue's bound, begin no RECLAIM, and put no channel into QUARANTINED or RESERVE. Almost every operation is one; one lemma for each says so. -/

namespace Sys2Proof.Machine

/-- What a calm operation keeps. -/
structure Calm (s t : State) : Prop where
  pending : t.pending = s.pending
  map : t.map = s.map
  reserve : ∀ x : Ter, t.ters[x].reserve = s.ters[x].reserve
  busy : ∀ x : Ter, t.ters[x].busy = s.ters[x].busy
  tko : ∀ x : Ter, t.ters[x].tko = s.ters[x].tko
  cmd : ∀ x : Ter, (t.ters[x].cmd.any fun c => c.op == 6) = true → (s.ters[x].cmd.any fun c => c.op == 6) = true
  quar : ∀ p : Phys, t.phys[p].st = .quarantined → s.phys[p].st = .quarantined
  res : ∀ p : Phys, t.phys[p].st = .reserve → s.phys[p].st = .reserve
  fits : s.ledgerFits → t.ledgerFits

/-- The fields that a calm operation may be held to. -/
def State.track (s : State) := (s.pending, s.map, s.ters, s.phys, s.ldg.queue)

theorem Calm.refl (s : State) : Calm s s := ⟨rfl, rfl, fun _ => rfl, fun _ => rfl, fun _ => rfl, fun _ h => h, fun _ h => h, fun _ h => h, fun h => h⟩

theorem Calm.trans {s t u : State} (h : Calm s t) (k : Calm t u) : Calm s u where
  pending := k.pending.trans h.pending
  map := k.map.trans h.map
  reserve x := (k.reserve x).trans (h.reserve x)
  busy x := (k.busy x).trans (h.busy x)
  tko x := (k.tko x).trans (h.tko x)
  cmd x g := h.cmd x (k.cmd x g)
  quar p g := h.quar p (k.quar p g)
  res p g := h.res p (k.res p g)
  fits g := k.fits (h.fits g)

/-- A change outside the tracked fields is calm. -/
theorem Calm.like {s t u : State} (h : Calm s t) (e : u.track = t.track) : Calm s u := by
  simp only [State.track, Prod.mk.injEq] at e
  obtain ⟨e1, e2, e3, e4, e5⟩ := e
  exact ⟨e1.trans h.pending, e2.trans h.map, fun x => e3 ▸ h.reserve x, fun x => e3 ▸ h.busy x, fun x => e3 ▸ h.tko x, fun x => e3 ▸ h.cmd x,
    fun p => e4 ▸ h.quar p, fun p => e4 ▸ h.res p, fun g => by unfold State.ledgerFits; rw [e5]; exact h.fits g⟩

/-! ## Updates -/

section
variable {s t : State}

theorem Calm.modL (n : Log) (f : LCh → LCh) (h : Calm s t) : Calm s (t.modL n f) := h.like rfl
theorem Calm.modQ (n : Log) (q : Qn) (f : Que → Que) (h : Calm s t) : Calm s (t.modQ n q f) := h.like rfl
theorem Calm.modI (n : Log) (x : Fin 4) (f : TIn → TIn) (h : Calm s t) : Calm s (t.modI n x f) := h.like rfl
theorem Calm.modA (n : Log) (q : Qn) (id : Nat) (f : Acc → Acc) (h : Calm s t) : Calm s (t.modA n q id f) := h.like rfl
theorem Calm.modBed (n : Log) (f : Bed → Bed) (h : Calm s t) : Calm s (t.modBed n f) := h.like rfl
theorem Calm.modS (sl : SliceN) (f : Slice → Slice) (h : Calm s t) : Calm s (t.modS sl f) := h.like rfl
theorem Calm.modD (d : Dom) (f : DomSt → DomSt) (h : Calm s t) : Calm s (t.modD d f) := h.like rfl

/-- An update of a physical channel that does not put it into QUARANTINED or RESERVE. -/
theorem Calm.modP (p : Phys) (f : PCh → PCh) (hf : ∀ c, (f c).st = c.st ∨ ((f c).st ≠ .quarantined ∧ (f c).st ≠ .reserve)) (h : Calm s t) :
    Calm s (t.modP p f) := by
  refine h.trans { Calm.refl t with
    pending := rfl, map := rfl, reserve := fun _ => rfl, busy := fun _ => rfl, tko := fun _ => rfl, cmd := fun _ g => g, fits := fun g => g, quar := ?_, res := ?_ }
  all_goals
    intro r
    simp only [State.modP_phys]
    split
    · next e =>
      subst e
      rcases hf t.phys[p] with e | e
      · rw [e]; exact id
      · intro g; first | exact absurd g e.1 | exact absurd g e.2
    · exact id

/-- An update of a physical channel that keeps its state. -/
theorem Calm.modPk (p : Phys) (f : PCh → PCh) (hf : ∀ c, (f c).st = c.st) (h : Calm s t) : Calm s (t.modP p f) := .modP p f (fun c => .inl (hf c)) h
theorem Calm.modC (p : Phys) (f : CCnt → CCnt) (h : Calm s t) : Calm s (t.modC p f) := .modPk p _ (fun _ => rfl) h

/-- An update of a terrace that keeps its reserve, takeover and command, or ends the command. -/
theorem Calm.modT (x : Ter) (f : TerSt → TerSt) (hr : ∀ c, (f c).reserve = c.reserve) (hb : ∀ c, (f c).busy = c.busy) (hk : ∀ c, (f c).tko = c.tko)
    (hc : ∀ c, ((f c).cmd.any fun c => c.op == 6) = true → (c.cmd.any fun c => c.op == 6) = true) (h : Calm s t) : Calm s (t.modT x f) := by
  refine h.trans { Calm.refl t with
    pending := rfl, map := rfl, quar := fun _ g => g, res := fun _ g => g, fits := fun g => g, reserve := ?_, busy := ?_, tko := ?_, cmd := ?_ }
  all_goals
    intro y
    simp only [State.modT_ters]
    split
    · next e => subst e; first | exact hr _ | exact hb _ | exact hk _ | exact hc _
    · first | rfl | exact id

/-- An update of a terrace's other fields. -/
theorem Calm.modTk (x : Ter) (f : TerSt → TerSt) (hf : ∀ c, ((f c).reserve, (f c).busy, (f c).tko, (f c).cmd) = (c.reserve, c.busy, c.tko, c.cmd)) (h : Calm s t) :
    Calm s (t.modT x f) := by
  have e := fun c => by simpa only [Prod.mk.injEq] using hf c
  exact .modT x f (fun c => (e c).1) (fun c => (e c).2.1) (fun c => (e c).2.2.1) (fun c g => by rw [← (e c).2.2.2]; exact g) h

theorem Calm.send (n : Log) (k : Pkt) (h : Calm s t) : Calm s (t.send n k) := by unfold State.send; split; exacts [h, h.like rfl]

theorem Calm.foldl {α : Type} (f : State → α → State) (l : List α) (hf : ∀ t a, Calm s t → Calm s (f t a)) (h : Calm s t) : Calm s (l.foldl f t) := by
  induction l generalizing t with
  | nil => exact h
  | cons a l ih => exact ih (hf t a h)

theorem Calm.sweep {α : Type} (l : List α) (f : State → α → State) (hf : ∀ t a, Calm s t → Calm s (f t a)) (h : Calm s t) : Calm s (t.over l f) := .foldl f l hf h

theorem Calm.withRun (n : Log) (f : Phys → State) (h : Calm s t) (hf : ∀ p, Calm s (f p)) : Calm s (t.withRun n f) := by
  unfold State.withRun; split
  · split
    · exact hf _
    · exact h
  · exact h

theorem Calm.withAwake (n : Log) (f : Phys → State) (h : Calm s t) (hf : ∀ p, Calm s (f p)) : Calm s (t.withAwake n f) := by
  unfold State.withAwake; refine .withRun n _ h fun p => ?_
  split
  · exact hf _
  · exact h

theorem Calm.atH (k : Nat) (f : State → State) (h : Calm s t) (hf : ∀ u, Calm s u → Calm s (f u)) : Calm s (t.atH k f) := by
  unfold State.atH; split
  · exact hf _ (h.like rfl)
  · exact h

theorem Calm.atPins (k : Nat) (f : State → State) (h : Calm s t) (hf : ∀ u, Calm s u → Calm s (f u)) : Calm s (t.atPins k f) := by
  unfold State.atPins; split
  · exact h
  · exact .atH k f h hf

/-- The data path of a queue is calm. -/
theorem Calm.flow (n : Log) (q : Qn) (h : Calm s t) : Calm s (t.flow n q) := by
  have k := FlowFrame.flow n q t
  refine h.trans ⟨by rw [k.state], by rw [k.state], fun x => by rw [k.state], fun x => by rw [k.state], fun x => by rw [k.state], fun x => by rw [k.state]; exact id,
    fun p => by rw [k.phys p]; exact id, fun p => by rw [k.phys p]; exact id, fun g => by unfold State.ledgerFits; rw [k.state]; exact g⟩

/-! ## The ledger -/

theorem Calm.ldg (l : Ldg) (hl : t.ledgerFits → l.queue.length ≤ 64) (h : Calm s t) : Calm s { t with ldg := l } :=
  h.trans ⟨rfl, rfl, fun _ => rfl, fun _ => rfl, fun _ => rfl, fun _ g => g, fun _ g => g, fun _ g => g, hl⟩

theorem Calm.postAll (rs : List LRec) (h : Calm s t) : Calm s (t.postAll rs) := by
  rw [State.postAll_frame]; exact .ldg _ (t.postAll_fits rs) h
theorem Calm.post (k pl src : Nat) (a : List Byte) (q : Nat) (h : Calm s t) : Calm s (t.post k pl src a q) := .postAll _ h
theorem Calm.postCont (k pl src : Nat) (a b : List Byte) (q : Nat) (h : Calm s t) : Calm s (t.postCont k pl src a b q) := .postAll _ h
theorem Calm.ledgerTake (h : Calm s t) : Calm s t.ledgerTake := by
  rw [State.ledgerTake_frame]; exact .ldg _ (fun g => le_trans t.ledgerTake_length g) h
theorem Calm.ledgerLose (k pl m : Nat) (h : Calm s t) : Calm s (t.ledgerLose k pl m) := h.like rfl
theorem Calm.ledgerOpen (b : Nat) (h : Calm s t) : Calm s (t.ledgerOpen b) :=
  .ldg _ (fun g => by simp only [List.length_map]; exact g) h
theorem Calm.denied (d : Dom) (o : Nat) (h : Calm s t) : Calm s (t.denied d o) := h.like rfl
theorem Calm.regionFail (n : Log) (q : Qn) (k : Kind) (a : Nat) (h : Calm s t) : Calm s (t.regionFail n q k a) := h.like rfl

/-! ## Queues and sleep -/

theorem Calm.restartTree (x : Ter) (h : Calm s t) : Calm s (t.restartTree x) := .modTk x _ (fun _ => rfl) h
theorem Calm.beginWake (p : Phys) (h : Calm s t) : Calm s (t.beginWake p) := .modP p _ (fun _ => .inr ⟨nofun, nofun⟩) (.restartTree _ h)
theorem Calm.demand (p : Phys) (h : Calm s t) : Calm s (t.demand p) := by
  unfold State.demand; dsimp only
  split
  · exact .beginWake p h
  · split
    · exact .modPk p _ (fun _ => rfl) h
    · split
      · exact .modPk p _ (fun _ => rfl) h
      · exact .modPk p _ (fun _ => rfl) h
  · exact h
theorem Calm.wake (n : Log) (h : Calm s t) : Calm s (t.wake n) := by unfold State.wake; split; exacts [.demand _ h, h]
theorem Calm.release (n : Log) (q : Qn) (r : Bool) (dg pdg : Nat) (h : Calm s t) : Calm s (t.release n q r dg pdg) := by
  unfold State.release; split <;> exact h.like rfl
theorem Calm.drainReq (n : Log) (q : Qn) (h : Calm s t) : Calm s (t.drainReq n q) := by
  unfold State.drainReq; dsimp only; split
  · exact h.like rfl
  · split <;> exact h.like rfl
  · exact h
  · exact h
theorem Calm.scrubPart (n : Log) (w : Nat) (b : Bool) (h : Calm s t) : Calm s (t.scrubPart n w b) := by
  unfold State.scrubPart; split; exacts [.modPk _ _ (fun _ => rfl) h, h]
theorem Calm.abandonBed (n : Log) (h : Calm s t) : Calm s (t.abandonBed n) := by
  unfold State.abandonBed; split; exacts [.post _ _ _ _ _ (.modL _ _ (.scrubPart _ _ _ h)), h]
theorem Calm.disable (n : Log) (q : Qn) (h : Calm s t) : Calm s (t.disable n q) := by
  unfold State.disable; dsimp only; split; exacts [.abandonBed n (.modQ _ _ _ h), .modQ _ _ _ h]
theorem Calm.channelDrain (n : Log) (h : Calm s t) : Calm s (t.channelDrain n) := by
  unfold State.channelDrain; exact .modL _ _ (.foldl _ _ (fun _ _ h => .drainReq _ _ (.modQ _ _ _ h)) h)
theorem Calm.goUp (p : Phys) (n : Log) (h : Calm s t) : Calm s (t.goUp p n) := by
  have k : Calm s (t.modP p fun c => { c with st := if t.lch[n].drain || c.toDrain then .draining else .active, toDrain := false, quiet := 0 }) :=
    .modP p _ (fun c => .inr (by dsimp only; split <;> exact ⟨nofun, nofun⟩)) h
  unfold State.goUp; dsimp only; split; exacts [.channelDrain n k, k]
theorem Calm.charge (n : Log) (q : Qn) (d : Desc) (h : Calm s t) : Calm s (t.charge n q d) := h.like rfl
theorem Calm.refuse (n : Log) (q : Qn) (d : Desc) (h : Calm s t) : Calm s (t.refuse n q d) := h.like rfl

/-- What a decision of the Sundial leaves. -/
theorem Calm.accept (n : Log) (q : Qn) (a : Acc) (pred : Option Nat) (u : State) (e : t.accept n q a pred = .inl u) (h : Calm s t) : Calm s u := by
  unfold State.accept at e
  dsimp only at e
  repeat' split at e
  all_goals first
    | (injection e with e; subst e; exact h.like rfl)
    | (injection e)

/-! ## Locks and chunk takes -/

theorem Calm.lockFree (sl : SliceN) (h : Calm s t) : Calm s (t.lockFree sl) := h.like rfl
theorem Calm.lockBreak (sl : SliceN) (c : Nat) (h : Calm s t) : Calm s (t.lockBreak sl c) := by
  unfold State.lockBreak; dsimp only; split
  · exact .post _ _ _ _ _ (h.like rfl)
  · exact h
theorem Calm.lockRelease (p : Phys) (n : Log) (h : Calm s t) : Calm s (t.lockRelease p n) := by
  unfold State.lockRelease
  refine .modPk p _ (fun _ => rfl) (.foldl _ _ (fun _ _ h => ?_) h)
  dsimp only; split; exacts [.lockFree _ h, h]
theorem Calm.unlock (p : Phys) (h : Calm s t) : Calm s (t.modP p fun c => { c with locked := none }) := .modPk p _ (fun _ => rfl) h
theorem Calm.lockedRead (n : Log) (p : Phys) (q : Qn) (id : Nat) (w : Option RWord) (b : Bool) (h : Calm s t) : Calm s (t.lockedRead n p q id w b) := by
  unfold State.lockedRead; dsimp only
  have k : Calm s (t.modA n q id fun a => { a with brokenLock := a.brokenLock || b }) := .modA _ _ _ _ h
  generalize (t.modA n q id fun a => { a with brokenLock := a.brokenLock || b }) = u at k ⊢
  cases u.acc n q id with
  | none => exact k
  | some a =>
    cases w with
    | none => exact .unlock p (.modA _ _ _ _ k)
    | some w =>
      dsimp only; split
      · exact .modA _ _ _ _ (.lockRelease p n k)
      · split; exacts [.modA _ _ _ _ k, .modA _ _ _ _ (.lockRelease p n k)]
theorem Calm.lockedWritten (n : Log) (p : Phys) (q : Qn) (id : Nat) (r : LwRsp) (h : Calm s t) : Calm s (t.lockedWritten n p q id r) :=
  .modA _ _ _ _ (.unlock p h)
theorem Calm.takeFail (n : Log) (q : Qn) (id c d : Nat) (h : Calm s t) : Calm s (t.takeFail n q id c d) := .modA _ _ _ _ h
theorem Calm.leak (n : Log) (k : Take) (h : Calm s t) : Calm s (t.leak n k) := .postCont _ _ _ _ _ _ h
theorem Calm.headerDone (n : Log) (q : Qn) (a : Acc) (r : RTx) (h : Calm s t) : Calm s (t.headerDone n q a r) := by
  unfold State.headerDone; dsimp only
  have k : Calm s (t.modA n q a.id fun a => { a with x := a.x.seePsn }) := .modA _ _ _ _ h
  generalize (t.modA n q a.id fun a => { a with x := a.x.seePsn }) = u at k ⊢
  generalize poolOf _ = hd
  generalize (if (r.st == .region) = true then (some (1, 4) : Option (Nat × Nat)) else _) = bad
  cases List.find? _ (t.bedOf n).takes with
  | some k' =>
    dsimp only; split
    all_goals refine .modA _ _ _ _ ?_
    all_goals repeat' first | exact .modBed _ _ k | apply Calm.leak | apply Calm.modBed | split
  | none =>
    cases bad with
    | some cd => exact .takeFail _ _ _ _ _ k
    | none =>
      dsimp only
      have kb := Calm.modBed (s := s) n (fun b => if b.opened then b else { b with base := hd.base, pchunks := hd.chunks, stack := hd.stack, opened := true }) k
      split; · exact .modA _ _ _ _ k
      split; · exact .modA _ _ _ _ kb
      split; · exact .takeFail _ _ _ _ _ k
      split
      · split; exacts [.modA _ _ _ _ kb, .takeFail _ _ _ _ _ kb]
      · exact .modA _ _ _ _ kb
theorem Calm.stackDone (n : Log) (q : Qn) (a : Acc) (h : Calm s t) : Calm s (t.stackDone n q a) := by
  unfold State.stackDone; dsimp only
  repeat' first | assumption | exact Calm.refl _ | apply Calm.modA | apply Calm.modBed | apply Calm.takeFail | split
theorem Calm.takeAgain (n : Log) (q : Qn) (id : Nat) (h : Calm s t) : Calm s (t.takeAgain n q id) := .modA _ _ _ _ (.modBed _ _ h)
theorem Calm.takeRead (n : Log) (p : Phys) (q : Qn) (id : Nat) (w : Option RWord) (b : Bool) (h : Calm s t) : Calm s (t.takeRead n p q id w b) := by
  unfold State.takeRead; dsimp only
  have k : Calm s (t.modA n q id fun a => { a with brokenLock := a.brokenLock || b, x := a.x.seePsn }) := .modA _ _ _ _ h
  generalize (t.modA n q id fun a => { a with brokenLock := a.brokenLock || b, x := a.x.seePsn }) = u at k ⊢
  cases w with
  | none => exact .takeFail _ _ _ _ _ (.modBed _ _ (.unlock p k))
  | some w =>
    cases (u.bedOf n).takes.getLast? with
    | none => exact .lockRelease p n k
    | some k' =>
      dsimp only
      split; · exact .takeFail _ _ _ _ _ (.modBed _ _ (.lockRelease p n k))
      split; exacts [.takeAgain _ _ _ (.lockRelease p n k), .modA _ _ _ _ k]
theorem Calm.takeWritten (n : Log) (p : Phys) (q : Qn) (id : Nat) (r : LwRsp) (h : Calm s t) : Calm s (t.takeWritten n p q id r) := by
  unfold State.takeWritten; dsimp only
  repeat' first | assumption | exact Calm.refl _ | apply Calm.modA | apply Calm.modBed | apply Calm.takeFail | apply Calm.takeAgain | apply Calm.leak | apply Calm.unlock | split
theorem Calm.linkWait (n : Log) (q : Qn) (h : Calm s t) : Calm s (t.linkWait n q) := by
  unfold State.linkWait; dsimp only
  repeat' first | assumption | exact Calm.refl _ | apply Calm.modA | split
theorem Calm.creditOut (n : Log) (q : Qn) (h : Calm s t) : Calm s (t.creditOut n q) := by
  unfold State.creditOut; dsimp only
  repeat' first | assumption | exact Calm.refl _ | apply Calm.send | apply Calm.modQ | split

/-! ## Starting and retiring -/

theorem Calm.satisfy (n : Log) (q : Qn) (id g : Nat) (h : Calm s t) : Calm s (t.satisfy n q id g) := .modA _ _ _ _ h
theorem Calm.startWait (n : Log) (q : Qn) (a : Acc) (h : Calm s t) : Calm s (t.startWait n q a) := by
  unfold State.startWait; dsimp only
  repeat' first | assumption | exact Calm.refl _ | apply Calm.modI | apply Calm.satisfy | split
theorem Calm.startBed (n : Log) (q : Qn) (a : Acc) (h : Calm s t) : Calm s (t.startBed n q a) := by
  unfold State.startBed; dsimp only
  repeat' first | assumption | exact Calm.refl _ | apply Calm.modA | apply Calm.modL | split
theorem Calm.startLocked (n : Log) (q : Qn) (a : Acc) (h : Calm s t) : Calm s (t.startLocked n q a) := by
  unfold State.startLocked; dsimp only
  repeat' first | assumption | exact Calm.refl _ | apply Calm.modA | apply Calm.regionFail | split
theorem Calm.nextId (k : Nat) (h : Calm s t) : Calm s { t with nextId := k } := h.like rfl
theorem Calm.free (k : Nat) (h : Calm s t) : Calm s { t with free := k } := h.like rfl
theorem Calm.startChain (n : Log) (q : Qn) (a : Acc) (h : Calm s t) : Calm s (t.startChain n q a) := by
  unfold State.startChain; dsimp only; split
  · exact h
  · split <;> exact h.like rfl
theorem Calm.takeSlot (n : Log) (q : Qn) (a : Acc) (o : Bool) (h : Calm s t) : Calm s (t.takeSlot n q a o) := by
  unfold State.takeSlot
  have k : ∀ d, Calm s (if (a.retry || a.d.op == 0x29) = true then t.charge n q d else t) := fun d => by split; exacts [.charge n q d h, h]
  refine Calm.free (t.free + 1) ?_
  split; exacts [.modQ _ _ _ (k _), .modL _ _ (.modQ _ _ _ (k _))]
theorem Calm.areaUpset (n : Log) (p : Phys) (q : Qn) (id : Nat) (h : Calm s t) : Calm s (t.areaUpset n p q id) := .modA _ _ _ _ (.modC _ _ h)
theorem Calm.halt (n : Log) (q : Qn) (a : Acc) (o : Outc) (h : Calm s t) : Calm s (t.halt n q a o) := .send _ _ (.modQ _ _ _ h)
theorem Calm.policy (n : Log) (q : Qn) (a : Acc) (o : Outc) (h : Calm s t) : Calm s (t.policy n q a o) := by
  unfold State.policy; dsimp only
  repeat' first | assumption | exact Calm.refl _ | apply Calm.halt | apply Calm.modQ | split
theorem Calm.dataRetired (n : Log) (q : Qn) (h : Calm s t) : Calm s (t.dataRetired n q) := by
  unfold State.dataRetired; dsimp only; split
  · exact h
  · exact .sweep _ _ (fun _ _ h => .send _ _ h) (.modQ _ _ _ h)
theorem Calm.retireCore (n : Log) (p : Phys) (q : Qn) (a : Acc) (o : Outc) (h : Calm s t) : Calm s (t.retireCore n p q a o) := by
  unfold State.retireCore; dsimp only
  refine .policy _ _ _ _ ?_
  repeat' first | assumption | exact Calm.refl _ | apply Calm.modC | apply Calm.modQ | apply Calm.modL | apply Calm.scrubPart | split
theorem Calm.retireEnd (n : Log) (q : Qn) (a : Acc) (h : Calm s t) : Calm s (t.retireEnd n q a) := by
  unfold State.retireEnd; dsimp only
  refine .flow _ _ (.dataRetired _ _ ?_)
  repeat' first | assumption | exact Calm.refl _ | apply Calm.modL | split
theorem Calm.enableQ (n : Log) (q : Qn) (dg : Nat) (h : Calm s t) : Calm s (t.enableQ n q dg) := .modQ _ _ _ h
theorem Calm.svcEnd (x : Ter) (ok : Bool) (r : Nat) (h : Calm s t) : Calm s (t.svcEnd x ok r) :=
  .modT x _ (fun _ => rfl) (fun _ => rfl) (fun _ => rfl) (fun _ => nofun) h
theorem Calm.svcDone (op : Nat) (n : Log) (h : Calm s t) : Calm s (t.svcDone op n) := by
  unfold State.svcDone; split
  · next c hc =>
    dsimp only; split
    · split
      · exact .svcEnd _ _ _ h
      · refine h.trans ?_
        refine ⟨rfl, rfl, ?_, ?_, ?_, ?_, fun _ g => g, fun _ g => g, fun g => g⟩
        all_goals
          intro y
          simp only [State.modT_ters]
          split
          · next e => subst e; first | rfl | (rw [hc]; exact id)
          · first | rfl | exact id
    · exact h
  · exact h
theorem Calm.svcLost (n : Log) (r : Nat) (h : Calm s t) : Calm s (t.svcLost n r) := by
  unfold State.svcLost; split
  · next c hc =>
    dsimp only; split
    · split
      · exact .svcEnd _ _ _ h
      · refine h.trans ?_
        refine ⟨rfl, rfl, ?_, ?_, ?_, ?_, fun _ g => g, fun _ g => g, fun g => g⟩
        all_goals
          intro y
          simp only [State.modT_ters]
          split
          · next e => subst e; first | rfl | (rw [hc]; exact id)
          · first | rfl | exact id
    · exact h
  · exact h

end

end Sys2Proof.Machine
end

