-- ==== Sys2Proof/WellFormed.lean ====
section
/-! DEFINITION. Well-formed commands: the operand shapes that the rules give and the types of Syntax.lean do not. -/

namespace Sys2Proof

/-- A key has 256 bits in four beats (R562). -/
def KpRsp.wf : KpRsp → Bool
  | .key b => b.length == 4
  | .counter _ | .err | .gapped => true

/-- A payload with one poison flag for each 64-byte word (R58). -/
def payWf (pay : List Byte) (psn : List Bool) : Bool := psn.length == (pay.length + 63) / 64

/-- A CMD: a descriptor of 64 bytes and a payload of at most 8,192 (R58). -/
def CmdPkt.wf (c : CmdPkt) : Bool := c.desc.length == 64 && c.payload.length ≤ 8192 && payWf c.payload c.psn

/-- The operands of a command have the shapes that the rules give: head slots and ledger records (R579), headers (R570), packets (R58), ledger bytes (R589), and read data of 64, 128 or 256 bytes, or none with an error (R343). -/
def Instr.wf : Instr → Bool
  | .keyPortResponse r => r.wf
  | .ledgerValidation heads log => heads.length == 16 && heads.all (fun h => h.length == 32) && log.length == 32
  | .headersRead a b => a.length == 64 && b.length == 64
  | .serviceLoadGo a _ => a.length == 64
  | .ldgReadbackDone d => d.length == 32
  | .cmd _ c => c.wf
  | .deliverIn _ _ p s _ _ _ => p.length ≤ 8192 && payWf p s
  | .readResponse _ _ d _ _ _ => d.all (fun w => w.bytes.length == 64) && [0, 1, 2, 4].contains d.length
  | _ => true

end Sys2Proof
end

