-- ==== Sys2Proof/Tests/Slice0.lean ====
section
/-! SUPPORT. Tests: the checks of WellFormed refuse ill-formed commands, every statement's hypotheses hold together in a concrete state, and some results of the spec's tables, each on a small state over the reset state. -/

namespace Sys2Proof.Tests

open Sys2Proof Sys2Proof.Machine

set_option Elab.async false

/-! ## Small states -/

/-- A requester of domain 1 with the secure attribute. -/
def wRqr : Rqr := { dom := 1, sec := true }
/-- A locked block in SERVICEABLE mode with domain 1 secure and holding every right, 1,008 aclk after power-on. -/
def wLocked : State :=
  { State.reset with
    porN := true, hrstN := true, aclk := 1008, hclk := 2016
    gate := { State.reset.gate with st := .locked, locked := true, mode := true, svcPath := true }
    doms := State.reset.doms.set 1 { sec := true, arb := true, bcast := true, svc := true, wins := (Vector.replicate 64 {}).set 0 { base := 0, limit := 255, r := true, w := true, l := true } } }
/-- The locked block with physical channel 0 ACTIVE. -/
def wRun : State := wLocked.modP 0 fun c => { c with st := .active }
/-- An ACTIVE CMD queue of domain 1 on logical channel 0, changed by `f`. -/
def wQ (f : Que → Que := id) : State :=
  wRun.modQ 0 0 fun u => f { u with st := .active, cfg := { u.cfg with valid := true, dom := 1, window := 4, initWords := 16, fifo := 96, cringLog := 4, cringBase := 4096 }, wordCr := 16 }
/-- The locked block without power-on reset behind it: the Gatehouse in state `g`. -/
def wBoot (g : Gate → Gate) : State := { State.reset with porN := true, aclk := 3000, gate := g State.reset.gate }

/-- What a command leaves, or the state before it when it does not go on. -/
def wNext (c : Instr) (s : State) : State := match exec c s with
  | .next t => t
  | .fault _ | .refused _ => s

/-! ## Well-formed commands -/

theorem test_wf_key : KpRsp.wf (.key [0]) = false ∧ (Instr.keyPortResponse (.key [0])).wf = false ∧ (Instr.keyPortResponse (.key [0, 0, 0, 0])).wf = true := by decide
theorem test_wf_heads : (Instr.ledgerValidation [[]] (zeros 32)).wf = false := by decide
theorem test_wf_head_length : (Instr.ledgerValidation (List.replicate 16 (zeros 31)) (zeros 32)).wf = false := by decide
theorem test_wf_log_length : (Instr.ledgerValidation (List.replicate 16 (zeros 32)) (zeros 31)).wf = false := by decide
theorem test_wf_headers : (Instr.headersRead (zeros 64) (zeros 63)).wf = false ∧ (Instr.headersRead (zeros 63) (zeros 64)).wf = false := by decide
theorem test_wf_service_header : (Instr.serviceLoadGo (zeros 63) wRqr).wf = false := by decide
theorem test_wf_readback : (Instr.ldgReadbackDone (zeros 31)).wf = false := by decide
theorem test_wf_descriptor : (Instr.cmd 0 { queue := 0, seq := 0, desc := zeros 63, descPsn := false, payload := [], psn := [], fault := .none, upset := [] }).wf = false := by decide
theorem test_wf_poison_flags : (Instr.deliverIn 0 0 (zeros 65) [false] 0 true []).wf = false ∧ (Instr.deliverIn 0 0 (zeros 65) [false, false] 0 true []).wf = true := by decide
theorem test_wf_payload_length : (Instr.deliverIn 0 0 (zeros 8193) (List.replicate 129 false) 0 true []).wf = false := by decide +kernel
theorem test_wf_read_beat : (Instr.readResponse 0 0 [{ bytes := zeros 63, psn := false }] 0 0 ⟨[], []⟩).wf = false := by decide
theorem test_wf_read_beats : (Instr.readResponse 0 0 (List.replicate 3 { bytes := zeros 64, psn := false }) 0 0 ⟨[], []⟩).wf = false := by decide

/-! ## Start-up -/

/-- A key of 32 bytes, 1 to 32. -/
def wKey : List Byte := leBytes 32 0x201f1e1d1c1b1a191817161514131211100f0e0d0c0b0a090807060504030201
/-- A boot image of 384 bytes: MODE, Sundial and arbiter sections with reset values, VERSION 7, and the tag that the key gives it. -/
def wImg : List Byte :=
  leBytes 64 0x3000000025a4d013600000007000001800001000147494d5a
    ++ leBytes 64 0x4000000100000000030000000000000040000000c00000000200000000000000400000008000000001
    ++ leBytes 64 0x0 ++ leBytes 64 0x5dc05dc05dc05dc05dc05dc05dc05dc00000000012c07d0
    ++ leBytes 64 0x20000040320 ++ leBytes 32 0 ++ leBytes 32 0xdb9ad8b96538ab1d28c0b5d21ef9675c86095ea1b9d75d22fae108e57a02bf81
/-- A service image of 640 bytes for logical channel 0 under boot VERSION 0. -/
def wSvc : List Byte :=
  leBytes 128 0x80000001c0000000060000000000000140000000800000000500000000000000000000000000000000000000000000000100000001000000000000000000000002000000025a4d013600000007000002800002000147494d5a
    ++ leBytes 64 0x64000000800500 ++ leBytes 416 0 ++ leBytes 32 0x5defb034895e768c1fd3d45439e8f401b699a0bc8daceaaee89e3ce842b02729
/-- Head slot 0 with LSEQ 16, and its record at log position 32. -/
def wHead : List Byte := leBytes 32 0xf6134e3749af5a63000000000000000000000000000000100000000000000000
def wLog : List Byte := leBytes 32 0x2a6ea7078fcb32c9000000000000000000000000000000100000000000000000

theorem test_StepRunsFrontCommand : ({ wRun with pending := [.bypass, .wakeReady 0] } : State).pending = .bypass :: [.wakeReady 0] := by decide
theorem test_IdleStep : State.reset.pending = [] ∧ State.reset.porN = false ∧ wRun.pending = [] ∧ wRun.porN = true := by decide
theorem test_OnlySupplyEventsStop : outside .vddCoreRemoval wRun = true ∧ outside .vddCoreReturn wRun = false ∧ outside .hrstDeassert { State.reset with vddCore := false } = true := by decide
theorem test_PowerOnStart : State.reset.porN = false ∧ ({ State.reset with porN := true, aclk := 2500 } : State).gate.st = .reset ∧ 2500 ≤ ({ State.reset with porN := true, aclk := 2500 } : State).aclk := by decide
/-- The block runs and slice 0 holds a lock. -/
def wHeld : State := wRun.modS 0 fun x => { x with lock := { held := true } }
theorem test_HrstAssert : wHeld.hrstN = true ∧ wHeld.slices[(0 : SliceN)].lock.held = true := by decide
theorem test_HrstDeassert_locks : (wBoot fun g => { g with st := .lockWait }).hrstN = false ∧ (wBoot fun g => { g with st := .lockWait }).vddCore = true ∧ (wBoot fun g => { g with st := .lockWait }).gate.st = .lockWait := by decide
theorem test_HrstDeassert_resets : ({ wRun with hrstN := false } : State).servP 0 = some 0 ∧ ({ wRun with hrstN := false } : State).gate.st ≠ .lockWait := by decide
theorem test_KeyPortAnswers : 1008 ≤ 8 + 1000 ∧ ([1, 2, 3, 4] : List (BitVec 64)).length = 4
    ∧ (wBoot fun g => { g with kpReq := some (1, 2000) }).gate.kpReq = some (1, 2000) ∧ (wBoot fun g => { g with kpReq := some (0, 2000) }).aclk ≤ 2000 + 1000
    ∧ (wBoot fun g => { g with kpReq := some (2, 1999) }).gate.kpReq = some (2, 1999) ∧ 1999 + 1000 < (wBoot fun g => { g with kpReq := some (2, 1999) }).aclk := by decide
theorem test_KeyPort_none : (wBoot id).gate.kpReq = none ∧ (wBoot fun g => { g with kpReq := some (0, 2000) }).gate.kpReq = some (0, 2000) := by decide
/-- The Gatehouse in LEDGER with a ledger key. -/
def wLedger : State := { (wBoot fun g => { g with st := .ledger }) with ldg := { State.reset.ldg with key := some wKey } }
theorem test_LedgerValidation_no_key : (wBoot fun g => { g with st := .ledger }).gate.st = .ledger ∧ (wBoot fun g => { g with st := .ledger }).gate.kpReq = none ∧ (wBoot fun g => { g with st := .ledger }).ldg.key = none := by decide
theorem test_LedgerValidation_spi : wLedger.tap.drives = false ∧ wLedger.spiOut = [] := by decide
theorem test_LedgerValidation_key : wLedger.gate.st = .ledger ∧ wLedger.gate.kpReq = none ∧ wLedger.ldg.key = some wKey ∧ wLedger.ldg.lossN = 0 := by decide
theorem test_newest_head : newestHead wKey [wHead] = some wHead := by decide +kernel
theorem test_newest_head_none : newestHead wKey [wLog] = none := by decide +kernel
theorem test_ledger_log_matches : macOk wKey (logPos (lseqOf wHead)) wLog = true ∧ wLog.take 24 = wHead.take 24 := by decide +kernel
theorem test_ledger_log_differs : macOk wKey (logPos (lseqOf wHead)) wHead = false := by decide +kernel
theorem test_HeadersRead : (wBoot fun g => { g with st := .headers }).gate.st = .headers ∧ headerFail (wImg.take 64) 1 = none ∧ headerFail (zeros 64) 1 = some (1, 0) := by decide +kernel
/-- The image of slot A is being loaded, with its key. -/
def wLoading : State := wBoot fun g => { g with st := .loading, key := some wKey, cands := [(0, 384), (1, 384)] }
theorem test_Candidate_loading : wLoading.gate.st = .loading ∧ wLoading.gate.kpReq = none ∧ wLoading.gate.cands = (0, 384) :: [(1, 384)] ∧ wLoading.hrstN = false := by decide
theorem test_Candidate_image : wImg.length = 384 ∧ tagOk wKey wImg = true := by decide +kernel
theorem test_Candidate_pass : wLoading.candFail wImg = none := by decide +kernel
theorem test_Candidate_reject : (wBoot fun g => { g with st := .loading, cands := [(1, 384)] }).candFail wImg = some (6, 2) := by decide +kernel

/-! ## The ledger and management -/

theorem test_Posting_lost : ({ wRun.ldg with queue := List.replicate 64 {} } : Ldg).queue.length + 1 > 64 ∧ wRun.ldg.keyErr = false := by decide
/-- A ledger whose queue holds a record of an earlier aclk and one of the data plane of aclk 1,008. -/
def wPosting : Ldg := { wRun.ldg with queue := [{ at_ := some 5 }, { at_ := some 1008, plane := 1, lseq := 9 }] }
theorem test_Posting_order : wPosting.queue.length + 1 ≤ 64 ∧ wPosting.valid = false ∧ wPosting.cur.toList ++ wPosting.queue = [{ at_ := some 5 }] ++ [{ at_ := some 1008, plane := 1, lseq := 9 }]
    ∧ wRun.aclk = 1008 ∧ wPosting.keyErr = false := by decide
/-- A record of the control plane stands before one of the data plane that was posted earlier in the same aclk (R23). -/
theorem test_Posting_plane_order : ((({ wRun with ldg := wPosting } : State).postAll [{ kind := 0x10, plane := 0 }]).ldg.queue.map fun r => (r.plane, r.lseq)) = [(0, 0), (0, 9), (1, 10)] := by decide +kernel
theorem test_Posting_enters : ({ wRun.ldg with queue := List.replicate 63 {} } : Ldg).queue.length + 1 ≤ 64 ∧ wRun.ldg.valid = false := by decide
/-- The ledger with its key, a record in the writer and a busy readback. -/
def wWriter : State := { wRun with ldg := { wRun.ldg with key := some wKey, valid := true, cur := some {}, rdBusy := true } }
theorem test_LedgerWrite : wWriter.ldg.cur = some {} ∧ wWriter.ldg.key = some wKey ∧ wWriter.ldg.valid = true ∧ wWriter.ldg.keyErr = false ∧ wWriter.ldg.lossN = 0 := by decide
theorem test_LedgerWrite_step : let s : State := { wWriter with ldg := { wWriter.ldg with rdBusy := false } }
    s.porN = true ∧ s.pending = [] ∧ s.ldg.logged = false ∧ s.ldg.rdBusy = false ∧ wWriter.ldg.cur.isSome = true ∧ ({ wWriter.ldg with cur := none } : Ldg).cur = none ∧ wWriter.ldg.queue = [] := by decide +kernel
theorem test_LedgerReadback : wRun.mgSecure wRqr = true ∧ wRun.ldg.rdBusy = false ∧ wWriter.ldg.rdBusy = true ∧ (zeros 32).length = 32 := by decide
theorem test_LedgerWrite_lost : let l : Ldg := { wWriter.ldg with rdBusy := false, lossN := 1, queue := [{}] }
    l.cur = some {} ∧ l.key = some wKey ∧ l.valid = true ∧ l.keyErr = false ∧ 0 < l.lossN ∧ l.queue ≠ [] := by decide +kernel
/-- Intervals that opened 100,000 aclk ago. -/
def wIvl : State :=
  let o : Open := { at_ := 0, count := 3, a := 16, b := 1, c := 2, d := 0 }
  { wRun with aclk := 100000, linkIvl := wRun.linkIvl.set 0 (some o), doms := wRun.doms.set 1 { wRun.doms[1] with rIvl := some o, aIvl := some o } }
theorem test_Intervals : (∃ o, wIvl.linkIvl[(0 : Log)] = some o ∧ o.at_ + 100000 ≤ wIvl.aclk) ∧ (∃ o, wIvl.doms[(1 : Dom)].rIvl = some o ∧ o.at_ + 100000 ≤ wIvl.aclk)
    ∧ (∃ o, wIvl.doms[(1 : Dom)].aIvl = some o ∧ o.at_ + 100000 ≤ wIvl.aclk) := ⟨⟨_, rfl, by decide⟩, ⟨_, rfl, by decide⟩, ⟨_, rfl, by decide⟩⟩

theorem test_RcRead_secure : wRun.porN = true ∧ wRun.secure wRqr = true ∧ wRun.gate.locked = true ∧ wRun.mayRead wRqr (some .hptStray) = true := by decide
theorem test_RcRead_loading : wRun.gate.st ≠ .loading ∧ (wBoot id).gate.st ≠ .loading := by decide
theorem test_RcRead_offsets : regAt 0x40D0 = some .hptStray ∧ regAt 0x40C4 = some .hptFenced ∧ regAt 0x3014 = some .sunMiss ∧ regAt 0x2080 = some .arbStarveCnt
    ∧ regAt 0x1010 = some .ldgLostcnt ∧ regAt 0x8024 = some (.trl 0 0 .acts) ∧ regAt 0xA0020 = some (.ter 0 .takeovers) := by decide
theorem test_RcRead_page : regAt 0x100A0 = some (.chn 0 0xA0 .fcnt) ∧ wRun.hrstN = true ∧ wRun.phys[(0 : Phys)].st ≠ .quarantined := by decide
theorem test_RcRead_other : (wBoot id).secure { dom := 0, sec := false } = false ∧ (wBoot id).mayRead { dom := 0, sec := false } (some .glbId) = true ∧ regAt 0 = some .glbId := by decide
theorem test_RcRead_refused : (wBoot id).porN = true ∧ (wBoot id).mayRead { dom := 0, sec := false } (regAt 0x1010) = false := by decide
theorem test_SnapshotRead : wRun.mgSecure wRqr = true ∧ wRun.ldg.nextCap = none ∧ ({ wRun.ldg with nextCap := some 1, rdCap := some (zeros 32) } : Ldg).nextCap = some 1
    ∧ ({ wRun.ldg with nextCap := some 1, rdCap := some (zeros 32) } : Ldg).rdCap = some (zeros 32) := by decide
theorem test_RegisterWrite_locked : wRun.mgSecure wRqr = true ∧ regAt 0x4000 = some .hptCfg ∧ isRwl .hptCfg = true ∧ wRun.gate.locked = true := by decide
theorem test_RegisterWrite_set : wRun.mgSecure wRqr = true ∧ ({ wRun with gate := { wRun.gate with lockedWrite := true } } : State).gate.lockedWrite = true ∧ wRun.gate.mode = true := by decide
/-- The Gatehouse in FAILED, out of reset. -/
def wFailed : State := wBoot fun g => { g with st := .failed }
theorem test_RegisterWrite_failed : wFailed.mgSecure wRqr = true ∧ wFailed.gate.locked = false ∧ wFailed.gate.st = .failed
    ∧ 16 ≤ ((16 : Word).extractLsb' 0 10).toNat ∧ ((512 : Word).extractLsb' 0 10).toNat ≤ 512 ∧ ((15 : Word).extractLsb' 0 10).toNat < 16 ∧ 512 < ((513 : Word).extractLsb' 0 10).toNat := by decide
theorem test_RegisterWrite_ro : regAt 0 = some .glbId ∧ isRo .glbId = true ∧ isRo .ldgLostcnt = true ∧ wFailed.mgSecure wRqr = true := by decide
theorem test_Qctl : wQ.mgSecure wRqr = true ∧ wQ.gate.locked = true ∧ wQ.gate.mode = true ∧ wQ.logOf 0 = some 0 ∧ wQ.phys[(0 : Phys)].st.serves = true ∧ (wQ.que 0 0).st = .active := by decide
theorem test_Qctl_enable : let s := wQ fun u => { u with st := .disabled, cfg := { u.cfg with ring := true } }
    (s.que 0 0).st = .disabled ∧ (s.que 0 0).cfg.valid = true ∧ s.lch[(0 : Log)].oos = false ∧ s.phys[(0 : Phys)].st ≠ .draining ∧ s.phys[(0 : Phys)].toDrain = false
      ∧ (s.que 0 0).cfg.ring = true := by decide
theorem test_Qctl_others : (wQ fun u => { u with st := .draining }).mgSecure wRqr = true ∧ ((wQ fun u => { u with st := .draining }).que 0 0).st = .draining
    ∧ ((wQ fun u => { u with st := .halted }).que 0 0).st = .halted := by decide
theorem test_Qctl_isolated : let s : State := { wQ with gate := { wQ.gate with mode := false } }
    s.porN = true ∧ s.gate.locked = true ∧ s.gate.mode = false ∧ (wNext (.qctlDrain 0 0 wRqr) s).gate.lockedWrite = true := by decide
theorem test_ArbClass : wQ.mgSecure wRqr = true ∧ decide (wQ.arb.pmin ≤ 3) = decide (0 < (wQ.que 0 0).cfg.res) ∧ decide (wQ.arb.pmin ≤ 4) ≠ decide (0 < (wQ.que 0 0).cfg.res) ∧ 4 ≠ (wQ.que 0 0).cls := by decide
theorem test_EventOutput : let s := wRun.modL 0 fun l => { l with outs := l.outs.set 0 [⟨3, 1007, 0⟩, ⟨4, 1008, 1⟩] }
    s.runs 0 = true ∧ s.tap.drives = false ∧ s.lch[(0 : Log)].outs[(0 : Fin 4)] = ⟨3, 1007, 0⟩ :: [⟨4, 1008, 1⟩] ∧ s.lch[(0 : Log)].outA[(0 : Fin 4)] ≠ some s.aclk
      ∧ 1007 < s.aclk ∧ s.aclk ≤ 1008 := by decide
theorem test_EventOutput_new : let s := wRun.modL 0 fun l => { l with outs := l.outs.set 0 [⟨4, 1008, 1⟩] }
    s.runs 0 = true ∧ s.lch[(0 : Log)].outs[(0 : Fin 4)] = ⟨4, 1008, 1⟩ :: [] ∧ s.aclk ≤ 1008 := by decide

/-! ## The invariants -/

/-- A block whose map gives logical channel 0 to physical channel 3 and serves no other, with a command waiting. -/
def wMap : State := { State.reset with map := (Vector.replicate 128 none).set 0 (some 3), pending := [.lkWake 0 true] }

theorem test_map_entry : ∀ n : Log, wMap.map[n] = if n = 0 then some 3 else none := by decide
theorem test_map_terraces : (∀ t : Ter, wMap.ters[t].reserve = some (physAt t 16)) ∧ (∀ t : Ter, wMap.ters[t].tko = none ∧ wMap.ters[t].cmd = none) := by decide
theorem test_map_phys : ∀ p : Phys, wMap.phys[p].st = .off := by decide

theorem spared_of_one {s : State} (hm : ∀ n : Log, s.map[n] = if n = 0 then some 3 else none)
    (ht : ∀ t : Ter, s.ters[t].reserve = some (physAt t 16) ∧ s.ters[t].tko = none ∧ s.ters[t].cmd = none)
    (hp : ∀ p : Phys, s.phys[p].st ≠ .quarantined ∧ s.phys[p].st ≠ .reserve) : s.spared := by
  have m0 : ∀ (n : Log) (p : Phys), s.map[n] = some p → n = 0 ∧ p = 3 := by
    intro n p h; rw [hm] at h; split at h
    · exact ⟨by assumption, by simpa using h.symm⟩
    · cases h
  have r0 : ∀ (t : Ter) (p : Phys), s.ters[t].reserve = some p → p = physAt t 16 := by
    intro t p h; rw [(ht t).1] at h; simpa using h.symm
  refine ⟨⟨?_, ?_, ?_⟩, ?_, ?_, ?_, ?_, ?_, ?_⟩
  · intro n p h; obtain ⟨rfl, rfl⟩ := m0 n p h; decide
  · intro t p h; rw [r0 t p h]; clear h; revert t; decide
  · intro t k h; rw [(ht t).2.1] at h; cases h
  · intro m n p h k; rw [(m0 m p h).1, (m0 n p k).1]
  · intro t p h n k; obtain ⟨rfl, rfl⟩ := m0 n p k; have := r0 t 3 h; clear h k; revert t; decide
  · intro t k h; rw [(ht t).2.1] at h; cases h
  · intro p n h; exact absurd h (hp p).1
  · intro p n h; exact absurd h (hp p).2
  · intro t h; rw [(ht t).2.2] at h; cases h
theorem test_spared : wMap.spared := spared_of_one test_map_entry (fun t => ⟨test_map_terraces.1 t, test_map_terraces.2 t⟩) (fun p => by rw [test_map_phys]; decide)

theorem test_SparedKept : (∀ c rest, wMap.pending = c :: rest → isScan c = false) ∧ ∃ t, step wMap = .next t := by
  refine ⟨?_, _, rfl⟩
  intro c rest h
  have e : wMap.pending = [.lkWake 0 true] := rfl
  rw [e] at h; cases h; rfl
theorem test_LedgerFits : State.ledgerFits { wMap with ldg := { wMap.ldg with queue := List.replicate 64 {} } } := by unfold State.ledgerFits; decide

/-! ## In-service change -/

theorem test_Out : wQ.svcFree 0 wRqr = true ∧ (0 : Fin 32).val = (0 : Fin 16).val ∧ (0 : Log) = logAt 0 0 ∧ wQ.map[(0 : Log)] = some 0 ∧ wQ.phys[(0 : Phys)].st = .active
    ∧ wQ.phys[(0 : Phys)].entry = 0 ∧ wQ.lch[(0 : Log)].oos = false ∧ (wQ.que 0 0).st ≠ .disabled ∧ (wQ.que 0 1).st = .disabled := by decide
theorem test_Out_asleep : let s := wLocked.modP 0 fun c => { c with st := .dormant }
    s.svcFree 0 wRqr = true ∧ s.map[(0 : Log)] = some 0 ∧ (wNext (.out 0 false 0 wRqr) s).phys[(0 : Phys)].toDrain = true ∧ (wQ.modP 0 fun c => { c with st := .waking }).svcFree 0 wRqr = true
      ∧ (wQ.modP 0 fun c => { c with entry := 1000 }).svcFree 0 wRqr = true := by decide
/-- One logical channel is mapped; it is `oos`, and its channel is in state `st`. -/
def wAll (oos : Bool) (st : CS) : State := { ((wLocked.modL 0 fun l => { l with oos }).modP 3 fun c => { c with st }) with map := wMap.map }
theorem test_Out_all : (wAll false .active).svcFree 0 wRqr = true ∧ (wAll false .active).spared
    ∧ ((logsOf 0).filter fun n => ((wAll false .active).servP n).isSome && !(wAll false .active).lch[n].oos) = [0]
    ∧ ((logsOf 0).filter fun n => (wAll false .active).lch[n].oos) = [] :=
  ⟨by decide, spared_of_one (by decide) (by decide) (by decide), by decide, by decide⟩
theorem test_Return_all : (wAll true .off).svcFree 0 wRqr = true ∧ (wAll true .off).spared ∧ ((logsOf 0).filter fun n => (wAll true .off).lch[n].oos) = [0]
    ∧ ((logsOf 0).filter fun n => ((wAll true .off).servP n).isSome && !(wAll true .off).lch[n].oos) = [] ∧ (wAll true .off).map[(0 : Log)] = some 3 ∧ (wAll true .off).phys[(3 : Phys)].st = .off :=
  ⟨by decide, spared_of_one (by decide) (by decide) (by decide), by decide, by decide, by decide, by decide⟩
theorem test_Return_late : let s := (wLocked.modP 0 fun c => { c with st := .draining }).modT 0 fun x => { x with cmd := some { op := 1, all := false, logs := [0], phys := 0, at_ := 0 } }
    s.mgSecure wRqr = true ∧ s.svc.busy = false ∧ s.ters[(0 : Ter)].busy = false ∧ s.ters[(0 : Ter)].tko = none ∧ (s.ters[(0 : Ter)].cmd.map fun c => c.op) = some 1
      ∧ s.map[(0 : Log)] = some 0 ∧ s.phys[(0 : Phys)].st = .draining ∧ (wNext (.ret 0 false 0 wRqr) s).phys[(0 : Phys)].chEnp = true := by decide
/-- Channel 0 out of service, behind an OFF channel. -/
def wOos : State := wLocked.modL 0 fun l => { l with oos := true }
theorem test_Return_off : wOos.svcFree 0 wRqr = true ∧ wOos.map[(0 : Log)] = some 0 ∧ wOos.phys[(0 : Phys)].st = .off ∧ wOos.lch[(0 : Log)].oos = true := by decide
theorem test_Return_draining : let s := wLocked.modP 0 fun c => { c with st := .draining }
    s.svcFree 0 wRqr = true ∧ s.map[(0 : Log)] = some 0 ∧ s.phys[(0 : Phys)].st = .draining ∧ s.lch[(0 : Log)].oos = false := by decide
theorem test_Swap : wOos.lch[(0 : Log)].oos = true ∧ wOos.ters[(0 : Ter)].reserve = some 16 ∧ (wOos.modT 0 fun x => { x with reserve := none }).svcFree 0 wRqr = true
    ∧ (wOos.modT 0 fun x => { x with reserve := none }).ters[(0 : Ter)].reserve = none := by decide
theorem test_Reset : wRun.svcFree 0 wRqr = true ∧ wRun.servP 0 = some 0 ∧ wRun.lch[(0 : Log)].oos = false := by decide
theorem test_Refusals : let un := { wLocked with map := wLocked.map.set 0 none }
    un.svcFree 0 wRqr = true ∧ un.map[(0 : Log)] = none ∧ un.servP 0 = none ∧ wRun.svcFree 0 wRqr = true ∧ wRun.lch[(0 : Log)].oos = false ∧ wRun.map[(0 : Log)].isSome = true ∧ wRun.secure wRqr = true
      ∧ wRun.secure { dom := 2, sec := false } = false ∧ wRun.right { dom := 2, sec := false } DomSt.svc = false ∧ (wBoot id).porN = true ∧ (wBoot id).gate.locked = false ∧ (wBoot id).secure wRqr = true := by decide
theorem test_Refusals_busy : let s := (wQ.modT 0 fun x => { x with busy := true, tko := some { log := 1, new := 16, old := 1, at_ := 1008, swap := false, oos := false } })
    (s.ters[(0 : Ter)].tko.any fun x => !x.swap && x.at_ = s.aclk && x.log ∈ namedBy 0 4 false 1) = true ∧ (1 : Log) ∉ namedBy 0 4 false 0 ∧ s.ters[(0 : Ter)].busy = true ∧ s.gate.mode = true
      ∧ (0 : Log) ∈ namedBy 0 4 false 0 ∧ (0 : Log).val ∈ ({ wQ.svc with busy := true, named := [0] } : Svc).named ∧ wQ.ters[(0 : Ter)].cmd = none ∧ wQ.mayServe { dom := 1, sec := true } [0] = true := by decide
theorem test_Stest : let s := wLocked.modP 0 fun c => { c with st := .quarantined }
    s.svcFree 0 wRqr = true ∧ s.phys[(0 : Phys)].st = .quarantined ∧ (0 : Phys) = physAt 0 0 := by decide
theorem test_StestComplete : let s := wLocked.modT 0 fun x => { x with cmd := some { op := 5, all := false, logs := [], phys := 0, at_ := 0 } }
    (s.ters[(0 : Ter)].cmd.map fun c => (c.op, c.phys)) = some (5, (0 : Phys).val) := by decide
theorem test_Reclaim_refused : let s := (wLocked.modP 0 fun c => { c with st := .quarantined })
    s.svcFree 0 wRqr = true ∧ s.phys[(0 : Phys)].st = .quarantined ∧ s.ters[(0 : Ter)].stest.getLsbD 0 = false ∧ (s.modT 0 fun x => { x with stest := 1 }).ters[(0 : Ter)].reserve.isSome = true
      ∧ (wNext (.reclaim 0 0 wRqr) s).ters[(0 : Ter)].result = 7 ∧ (wNext (.reclaim 0 0 wRqr) (s.modT 0 fun x => { x with stest := 1 })).ters[(0 : Ter)].result = 8
      ∧ wRun.phys[(0 : Phys)].st ≠ .quarantined ∧ (wNext (.stest 0 0 wRqr) wRun).ters[(0 : Ter)].result = 2 := by decide +kernel
theorem test_Reclaim : let s := (wLocked.modP 0 fun c => { c with st := .quarantined }).modT 0 fun x => { x with stest := 1, reserve := none }
    s.svcFree 0 wRqr = true ∧ s.phys[(0 : Phys)].st = .quarantined ∧ s.ters[(0 : Ter)].stest.getLsbD 0 = true ∧ s.ters[(0 : Ter)].reserve = none := by decide
/-- The locked block with a service address, and with a load that waits for its image. -/
def wSvcGo : State := { wLocked with svc := { wLocked.svc with addr := 0x3FFD80 } }
theorem test_ServiceLoadGo : wSvcGo.mgSecure wRqr = true ∧ wSvcGo.gate.locked = true ∧ wSvcGo.gate.mode = true ∧ wSvcGo.gate.svcPath = true ∧ wSvcGo.svc.busy = false
    ∧ 0x200000 ≤ wSvcGo.svc.addr ∧ wSvcGo.svc.addr ≤ 0x3FFFC0 ∧ headerFail (wSvc.take 64) 2 = none ∧ wSvcGo.svc.addr + field (wSvc.take 64) 8 4 ≤ 0x400000 := by decide
/-- The load of the service image for channel 0, out of service, waits for its end, with its key. -/
def wSvcEnd : State := { wOos with svc := { wOos.svc with busy := true, len := 640, named := [0] }, gate := { wOos.gate with key := some wKey } }
theorem test_ServiceLoadEnd : wSvcEnd.svc.busy = true ∧ wSvcEnd.gate.kpReq = none ∧ wSvc.length = wSvcEnd.svc.len ∧ 0 ∈ lmask wSvc ∧ 1 ∉ lmask wSvc
    ∧ ∀ x ∈ sections wSvc, x.inst % 128 ≠ 1 := by decide +kernel
theorem test_ServiceLoadEnd_idle : wSvcEnd.ldg.idle = true ∧ ({ wSvcEnd.svc with pos := 4096 } : Svc).len ≤ 4096 := by decide +kernel
theorem test_ServiceLoadEnd_pass : wSvcEnd.loadFail wSvc = none := by decide +kernel
theorem test_ServiceLoadEnd_fail : ({ wSvcEnd with gate := { wSvcEnd.gate with key := none } } : State).loadFail wSvc = some (6, 2) := by decide +kernel

/-! ## The link -/

/-- A descriptor of the given OPCODE, LENGTH, SRC, DST and bytes 24 to 31. -/
def wDesc (op len src dst : Nat) (a24 : Nat := 0) : List Byte := leBytes 1 op ++ [0, 0, 0] ++ leBytes 4 len ++ leBytes 8 src ++ leBytes 8 dst ++ leBytes 8 a24 ++ zeros 32
/-- The link as a side of a descriptor. -/
def wLink : Nat := 2 ^ 63
/-- A CMD of queue 0 with SEQ `seq`, a descriptor of op 0x3F and `k` payload words. -/
def wCmd (seq : BitVec 16) (k : Nat := 0) (fault : CmdFault := .none) : CmdPkt :=
  { queue := 0, seq, desc := wDesc 0x3F 0 0 0, descPsn := false, payload := zeros (64 * k), psn := List.replicate k false, fault, upset := [] }
/-- One started descriptor on queue 0 of a port with REQ_QUEUE 0. -/
def wStarted (bytes : List Byte) (x : Exec := {}) (f : Que → Que := id) (g : LCh → LCh := id) : State :=
  (wQ fun u => f { u with acc := [{ id := 7, seq := 5, bytes, stage := .started, x }], flitCr := 64 }).modL 0 fun l => g { l with port := { l.port with reqQ := some 0 } }
/-- A FILL of 64 bytes to the link, started. -/
def wFill (x : Exec := {}) (g : LCh → LCh := id) : State := wStarted (wDesc 3 64 0 wLink) x id g

theorem test_Refused_parity_format : wQ.linked 0 0 = true ∧ (wQ.que 0 0).drops 0 = false ∧ nakRow (wQ.que 0 0) .parity 0 0 = some 3 ∧ nakRow (wQ.que 0 0) .sop 0 0 = some 4 ∧ nakRow (wQ.que 0 0) .format 0 0 = some 4 := by decide
theorem test_Refused_length : framing (wCmd 0 129) = .format ∧ framing (wCmd 0 128) = .none ∧ framing (wCmd 0) = .none ∧ framing (wCmd 0 129 .parity) = .parity := by decide +kernel
theorem test_Refused_rows : nakRow (wQ.que 0 1) .none 0 0 = some 8 ∧ nakRow (wQ.que 0 0) .none 0 17 = some 7 ∧ nakRow { wQ.que 0 0 with st := .draining } .none 0 0 = some 9
    ∧ nakRow { wQ.que 0 0 with st := .halted } .none 0 0 = some 5 ∧ nakRow (wQ.que 0 0) .none 1 0 = some 2 ∧ nakRow { wQ.que 0 0 with lastAcc := 3 } .none 4 0 = some 6 := by decide
theorem test_Refused_discarded : let s := wQ fun u => { u with discard := some 0 }
    s.linked 0 0 = true ∧ (s.que 0 0).drops 1 = true ∧ (s.que 0 0).drops 0 = false := by decide
theorem test_Admitted : wQ.linked 0 0 = true ∧ (wQ.que 0 0).drops 0 = false ∧ nakRow (wQ.que 0 0) .none 0 0 = none ∧ nakRow { wQ.que 0 0 with lastAcc := 2 } .none 3 16 = none ∧ seqAfter 0 0xFFFF = true
    ∧ (wQ.que 0 0).cfg.res = 0 := by decide
theorem test_Admitted_promised : let u : Que := { wQ.que 0 0 with cfg := { (wQ.que 0 0).cfg with res := 100 } }
    (descFail (wCmd 0).desc false (u.dctx 0 true false)).isSome = true ∧ (wCmd 0).fault = .none ∧ u.cfg.stream = false := by decide +kernel
/-- A promised CMD queue whose horizon lies 7 aclk ahead. -/
def wBusy : State := wQ fun u => { u with cfg := { u.cfg with res := 100 }, f := 1015 }
/-- A CMD with a FILL of 64 bytes at address 0. -/
def wCmdFill : CmdPkt :=
  let b := (wDesc 3 64 0 0).take 32 ++ [1] ++ zeros 29
  { wCmd 0 with desc := b ++ leBytes 2 (crc16 b) }
theorem test_Refused_busy : let u := wBusy.que 0 0
    wBusy.linked 0 0 = true ∧ u.drops 0 = false ∧ nakRow u .none 0 0 = none ∧ u.cfg.stream = false ∧ descFail wCmdFill.desc false (u.dctx 0 true false) = none ∧ u.acc = [] ∧ wBusy.aclk < u.f
      ∧ (wNext (.cmd 0 wCmdFill) wBusy).linkOut = [(0, .nak 0 0 1 7 0)] := by decide +kernel
theorem test_Refused_busy_kind : let d : Desc := wCmdFill.desc
    d.op ≠ 0x38 ∧ d.hold = false ∧ d.fence = false ∧ d.isParterre = false ∧ recordOnly d none = false := by decide +kernel
theorem test_Admitted_free : (wBusy.que 0 0).f ≤ ({ wBusy with aclk := 1015 } : State).aclk ∧ (wNext (.cmd 0 wCmdFill) { wBusy with aclk := 1015 }).linkOut = [(0, .ack 0 0 0)] := by decide +kernel
theorem test_Delivered : wQ.linked 0 0 = true ∧ wQ.lch[(0 : Log)].lastPend = false ∧ (zeros 1025).length ≤ 8192 ∧ 8192 < (zeros 8193).length ∧ [1, 16].countP (· < (wordsOf (zeros 1024) [] []).length) = 1 ∧ (wQ.que 0 0).cfg.stream = false ∧ (wQ.que 0 0).dropPkt = false ∧ (wordsOf (zeros 1024) [] []).length = (wQ.que 0 0).wordCr
    ∧ (wQ.que 0 0).wordCr < (wordsOf (zeros 1025) [] []).length := by decide +kernel
theorem test_StreamFifo : (∀ w ∈ marked (wordsOf (zeros 65) [] []) [1], ∃ b p, w.1 = .word b p) ∧ (marked (wordsOf (zeros 65) [] []) [1]).length < 3 ∧ marked (wordsOf (zeros 65) [] []) [1] ≠ [] := by
  refine ⟨fun w h => ?_, by decide, by decide⟩
  have e : marked (wordsOf (zeros 65) [] []) [1] = [(.word (zeros 64) false, false), (.word [0] false, true)] := by decide
  rw [e] at h; simp at h; rcases h with rfl | rfl <;> exact ⟨_, _, rfl⟩
theorem test_StreamFifo_full : streamIn [(.word [1] false, false), (.word [2] false, true)] [] 1 none 9 = ([.gap 2 true 9], 2, some 9)
    ∧ streamIn [(.word [1] false, false)] [.gap 2 false 9, .eop false] 0 (some 9) 10 = ([.gap 2 false 9, .eop false, .gap 1 false 9], 1, some 9)
    ∧ entryWords [.gap 2 false 9, .eop false, .gap 1 false 9] = 1 := by decide
theorem test_StreamFifo_merges : 9 ∈ markersOf [.gap 2 false 9, .eop false] ∧ inputWords [.gap 2 false 9, .eop false] + 1 ≤ 0xFFFFFFFF := by decide
theorem test_CreditIn : let s := wQ fun u => { u with flitCr := 65000 }
    s.linked 0 0 = true ∧ 65535 < (s.que 0 0).flitCr + (536 : BitVec 16).toNat ∧ (s.que 0 0).flitCr + (535 : BitVec 16).toNat ≤ 65535 := by decide
/-- Queue 0 halted at SEQ 5. -/
def wHalted : State := wQ fun u => { u with st := .halted, halt := some { seq := 5, cause := 1 } }
theorem test_Resume : wHalted.linked 0 0 = true ∧ (wHalted.que 0 0).st = .halted ∧ ((wHalted.que 0 0).halt.map Halt.seq) = some (5 : BitVec 16).toNat ∧ ((wHalted.que 0 0).halt.map Halt.seq) ≠ some (6 : BitVec 16).toNat
    ∧ (wQ.que 0 0).st ≠ .halted := by decide
theorem test_Resume_applied : let s := wHalted.modI 0 0 fun x => { x with doneA := some 1008 }
    (s.lch[(0 : Log)].ins.toList.any fun i => i.doneA == some s.aclk) = true ∧ (wHalted.lch[(0 : Log)].ins.toList.any fun i => i.doneA == some wHalted.aclk) = false := by decide +kernel
theorem test_ConsumerSleeps : wRun.linked 0 0 = true ∧ wRun.lch[(0 : Log)].msg = none ∧ (wRun.modL 0 fun l => { l with msg := some (0, 7) }).linked 0 0 = true
    ∧ (wRun.modL 0 fun l => { l with msg := some (0, 7) }).lch[(0 : Log)].msg.isSome = true := by decide
theorem test_StatusLinkErr : let s := wFill { finSent := true }
    s.linked 0 0 = true ∧ ((s.que 0 0).acc.find? fun a => a.seq = (5 : BitVec 16).toNat && a.sends && a.x.linkErr.isNone && (a.x.finSent || a.x.outSent > 0 || a.x.began)).isSome = true := by decide
theorem test_StatusLinkErr_replayed : let s := wQ fun u => { u with acc := [{ id := 7, seq := 5, bytes := wDesc 3 64 0 wLink, replayed := true }] }
    s.linked 0 0 = true ∧ ((s.que 0 0).acc.find? fun a => a.seq = (5 : BitVec 16).toNat && a.sends && a.x.linkErr.isNone && (a.x.finSent || a.x.outSent > 0 || a.x.began)) = none
      ∧ (((s.que 0 0).acc.find? fun a => a.seq = (5 : BitVec 16).toNat && a.sends && a.x.linkErr.isNone && a.replayed).map Acc.failAt) = some none := by decide
theorem test_LinkWdCredit : let s := wFill { creditA := some 908 }
    s.live 0 0 = true ∧ ((s.lch[(0 : Log)].ready 0).any fun r => r.1.x.creditA == some 908) = true ∧ 908 + s.lch[(0 : Log)].port.linkWd ≤ s.aclk := by decide +kernel
theorem test_LinkWdWake : let s := wFill {} fun l => { l with wakeReq := some 908, asleep := true }
    s.live 0 0 = true ∧ s.lch[(0 : Log)].wakeReq = some 908 ∧ 908 + s.lch[(0 : Log)].port.linkWd ≤ s.aclk ∧ s.lch[(0 : Log)].asleep = true
      ∧ ((s.que 0 0).acc.all fun a => a.sends && !a.sentAll && (a.nextPkt s.lch[(0 : Log)].port.dmax s.lch[(0 : Log)].bed).isSome) = true := by decide +kernel
/-- A DIGEST whose FINAL left at 908. -/
def wDigest : State := wStarted (wDesc 0x30 64 4096 wLink) { finSent := true, finA := some 908 }
theorem test_VerdictTimeout : wDigest.live 0 0 = true ∧ ((wDigest.que 0 0).awaiting.map fun a => a.x.finA) = some (some 908) ∧ 908 + wDigest.lch[(0 : Log)].port.linkWd ≤ wDigest.aclk := by decide
theorem test_Verdict : wDigest.linked 0 0 = true ∧ ((wDigest.que 0 0).awaiting.map Acc.seq) = some (5 : BitVec 16).toNat ∧ ((wDigest.que 0 0).awaiting.map Acc.seq) ≠ some (6 : BitVec 16).toNat
    ∧ wDigest.aclk = 908 + wDigest.lch[(0 : Log)].port.linkWd
    ∧ (wQ.que 0 0).awaiting = none ∧ wQ.linked 0 0 = true ∧ (zeros 64).length ≤ 64 ∧ 64 < (zeros 65).length := by decide
theorem test_LinkErrors : wQ.linked 0 0 = true ∧ wQ.lch[(0 : Log)].lastPend = false ∧ wQ.linkIvl[(0 : Log)] = none ∧ (wQ.que 0 0).drops 0 = false ∧ LErr.format ≠ .asleep ∧ LErr.format ≠ .sopInside := by decide
theorem test_LinkErrors_asleep : let s := wLocked.modP 0 fun c => { c with st := .dormant }
    s.on = true ∧ s.tap.drives = false ∧ s.map[(0 : Log)] = some 0 ∧ s.phys[(0 : Phys)].st = .dormant ∧ s.phys[(0 : Phys)].gate = true := by decide
theorem test_Requests : let s := wQ.modL 0 fun l => { l with port := { l.port with reqQ := some 0 }, reqs := List.replicate 14 64 }
    s.linked 0 0 = true ∧ s.lch[(0 : Log)].port.reqQ = some 0 ∧ ((s.que 0 0).acc.head?.any fun a => a.d.takesDeliver) = false ∧ s.lch[(0 : Log)].reqs.countP (· ≠ 0) < 15
      ∧ (s.que 0 0).acc = [] ∧ (s.que 0 0).st = .active ∧ 15 ≤ (64 :: s.lch[(0 : Log)].reqs).countP (· ≠ 0) := by decide
theorem test_Requests_ring : let s := (wQ fun u => { u with cfg := { u.cfg with ring := true } }).modL 0 fun l => { l with port := { l.port with reqQ := some 0 } }
    s.linked 0 0 = true ∧ (s.que 0 0).cfg.ring = true ∧ (s.que 0 0).acc = [] := by decide
/-- A COPY of 64 bytes from the link to address 0, started. -/
def wCopy : State := wStarted (wDesc 1 64 wLink 0)
theorem test_Last : wCopy.linked 0 0 = true ∧ wCopy.lch[(0 : Log)].port.reqQ = some 0 ∧ ((wCopy.que 0 0).acc.head?.any fun a => a.d.takesDeliver) = true ∧ (wCopy.que 0 0).lastEnds = true := by decide
theorem test_Last_paced : wFill.linked 0 0 = true ∧ ((wFill.que 0 0).acc.head?.any fun a => wFill.lch[(0 : Log)].paces 0 a.d && a.x.allow == none) = true := by decide
theorem test_Last_served : let s := wFill { allow := some [64] }
    s.linked 0 0 = true ∧ s.lch[(0 : Log)].reqs = [] ∧ ((s.que 0 0).acc.head?.any fun a => s.lch[(0 : Log)].paces 0 a.d && a.x.allow == some [64]) = true := by decide +kernel
theorem test_Last_waits : let s := wFill { allow := some [64] } fun l => { l with reqs := [64] }
    s.lch[(0 : Log)].reqs ≠ [] ∧ s.lch[(0 : Log)].reqs.getLast? ≠ some 0 := by decide +kernel
theorem test_Flush : wCopy.linked 0 0 = true ∧ wCopy.lch[(0 : Log)].port.reqQ = some 0 ∧ (wCopy.que 0 0).owed = 0 ∧ (wCopy.que 0 0).occ = 0
    ∧ ({ wCopy.que 0 0 with link := [.word [1] false, .word [2] false] } : Que).occ = 2 := by decide
theorem test_LkWake : ({ wRun with tap := { wRun.tap with ir := .extest } } : State).tap.drives = true ∧ wRun.tap.drives = false := by decide
theorem test_LkWake_rise : let s := wLocked.modP 0 fun c => { c with st := .dormant }
    s.tap.drives = false ∧ s.on = true ∧ s.lch[(0 : Log)].lkWake = false ∧ s.map[(0 : Log)] = some 0 ∧ s.phys[(0 : Phys)].st = .dormant := by decide
/-- The queue's next packet is a DELIVER that nothing parks. -/
def wLeaves (s : State) : Bool :=
  let u := s.serveLink 0 0
  (u.lch[(0 : Log)].ready 0).any fun r => (match r.2.k with
    | .deliver _ _ _ _ _ => true
    | .begin _ | .abort _ => false) && !u.lch[(0 : Log)].parked 0 r
theorem test_DeliverOut : wFill.live 0 0 = true ∧ wFill.tap.drives = false ∧ wLeaves wFill = true ∧ (wFill.serveLink 0 0).lch[(0 : Log)].asleep = false
    ∧ (wFill.serveLink 0 0).lch[(0 : Log)].sendable 0 = true ∧ (wFill.serveLink 0 0).pickQ 0 (wFill.serveLink 0 0).lch[(0 : Log)].rrOut (wFill.serveLink 0 0).lch[(0 : Log)].sendable = some 0 := by decide +kernel
theorem test_DeliverOut_asleep : let s := wFill {} fun l => { l with asleep := true }
    s.live 0 0 = true ∧ wLeaves s = true ∧ (s.serveLink 0 0).lch[(0 : Log)].asleep = true ∧ (s.serveLink 0 0).lch[(0 : Log)].wakeReq = none := by decide +kernel
theorem test_StatusParked : let s := wFill {} fun l => { l with msg := some (1, 99) }
    s.live 0 0 = true ∧ ((s.lch[(0 : Log)].ready 0).any fun r => s.lch[(0 : Log)].parked 0 r) = true ∧ (s.que 0 0).parked = none := by decide +kernel

/-! ## Rings and descriptors -/

/-- A FILL of 64 zero bytes at address 0 as a ring entry, with its CRC. -/
def wEntry : RWord :=
  let b := (wDesc 3 64 0 0).take 32 ++ [1] ++ zeros 29
  { bytes := b ++ leBytes 2 (crc16 b), psn := false }
/-- A RING queue of 16 entries, changed by `f`. -/
def wRing (f : Que → Que := id) : State := wQ fun u => f { u with cfg := { u.cfg with ring := true, ringLog := 4, fetchAhead := 4, pidxAddr := 8192 } }
/-- A fetched entry that has returned. -/
def wFetch : Fetch := { id := 9, posted := true, data := some (some wEntry, 0) }

theorem test_PidxReturn : wRing.live 0 0 = true ∧ (wRing.que 0 0).off 16 ≤ 2 ^ (wRing.que 0 0).cfg.ringLog ∧ 2 ^ (wRing.que 0 0).cfg.ringLog < (wRing.que 0 0).off 17
    ∧ ((wRing fun u => { u with prd := { u.prd with data := some (some 16) } }).que 0 0).prd.data = some (some 16)
    ∧ ((wRing fun u => { u with prd := { u.prd with data := some none } }).que 0 0).prd.data = some none := by decide
theorem test_RingEntry : let s := wRing fun u => { u with fetches := [wFetch] }
    s.live 0 0 = true ∧ (s.refill 0 0 Origin.isRing).isNone = true ∧ (s.que 0 0).fetches = wFetch :: [] ∧ (s.que 0 0).st = .active ∧ (s.que 0 0).refetch = none ∧ (s.que 0 0).cfg.res = 0 := by decide +kernel
/-- A promised RING queue whose horizon lies ahead. -/
def wPromised : State := wRing fun u => { u with fetches := [wFetch], cfg := { u.cfg with res := 100 }, f := 1009 }
theorem test_RingEntry_refused : wPromised.live 0 0 = true ∧ (fetched (wPromised.que 0 0) 0 0 0 (.ring 0) (some wEntry, 0)).pre = none
    ∧ (wPromised.accept 0 0 (fetched (wPromised.que 0 0) 0 0 0 (.ring 0) (some wEntry, 0)) none).isRight = true := by decide +kernel
theorem test_RingEntry_free : let s := { wPromised with aclk := 1009 }
    (s.que 0 0).f ≤ s.aclk ∧ s.live 0 0 = true ∧ (s.que 0 0).st = .active := by decide
theorem test_Refill : let s := wRing fun u => { u with acc := [{ id := 7, bytes := zeros 64, have_ := false, origin := .ring 0 }], refills := [{ wFetch with after := 7 }] }
    ((s.que 0 0).refills.find? fun f => f.data.isSome && (s.que 0 0).acc.any fun a => a.id == f.after && a.origin.isRing) = some { wFetch with after := 7 }
      ∧ (((wNext (.ringEntryReturn 0 0) s).que 0 0).acc.map fun a => (a.have_, a.bytes)) = [(true, wEntry.bytes)] := by decide +kernel
theorem test_ChainMember_refused : let s := wRing fun u => { u with acc := [{ id := 7, bytes := wEntry.bytes }], chain := some { wFetch with after := 7 }, cfg := { u.cfg with res := 100 }, f := 1009 }
    (s.accept 0 0 (fetched (s.que 0 0) 0 0 0 (.chain 0) (some wEntry, 0)) (some 7)).isRight = true ∧ ((wNext (.chainMemberReturn 0 0) s).que 0 0).rechain = some 1009 := by decide +kernel
theorem test_ChainMember : let s := wRing fun u => { u with acc := [{ id := 7, bytes := wEntry.bytes }], chain := some { wFetch with after := 7 } }
    s.live 0 0 = true ∧ (s.refill 0 0 Origin.isChain).isNone = true ∧ ((s.que 0 0).chain.map fun f => f.data) = some (some (some wEntry, 0)) ∧ (s.que 0 0).rechain = none ∧ (s.que 0 0).st = .active
      ∧ ((s.que 0 0).acc.map Acc.id) = [7] ∧ (s.que 0 0).cfg.res = 0 := by decide +kernel
theorem test_ChainMember_order : let s := wRing fun u => { u with acc := [{ id := 7, bytes := wEntry.bytes }, { id := 8, bytes := wEntry.bytes }], chain := some { wFetch with after := 7 } }
    let u := s.que 0 0
    let ok (y : Acc) : Bool := y.retry || if u.acc.any (fun z => z.id == 7) then y.id == 7 else y.begun
    (u.acc.take 1).getLast?.any ok = true ∧ (u.acc.drop 1).any ok = false := by decide +kernel
theorem test_RefetchExpiry_chain : ((wRing fun u => { u with rechain := some 1008 }).que 0 0).rechain = some 1008 ∧ ((wRing fun u => { u with rechain := some 1008 }).que 0 0).refetch = none := by decide
theorem test_RefetchExpiry : ((wRing fun u => { u with refetch := some 1008 }).que 0 0).refetch = some 1008 ∧ 1008 ≤ (wRing fun u => { u with refetch := some 1008 }).aclk := by decide
theorem test_DescriptorStart : let s := wQ fun u => { u with acc := [{ id := 7, bytes := wEntry.bytes }] }
    s.live 0 0 = true ∧ ((s.que 0 0).head.any fun a => s.ready 0 0 a) = true ∧ s.slotFor 0 0 = some false := by decide +kernel
/-- A NOP at the head of queue 0. -/
def wNop (f : Acc → Acc) : State := wQ fun u => { u with acc := [f { id := 7, bytes := wDesc 0x3F 0 0 0 }] }
theorem test_DescriptorVisible : let s := wNop fun a => { a with stage := .started }
    s.live 0 0 = true ∧ ((s.acc 0 0 7).any fun a => a.stage == .started && a.settled s.lch[(0 : Log)].bed) = true := by decide +kernel
/-- The head of queue 0 may retire, with the fault `fl`, and there is room. -/
def wRetires (s : State) (fl : Bool) : Bool :=
  (s.que 0 0).acc.head?.any fun a =>
    let o := outcome a s.lch[(0 : Log)].bed
    (s.que 0 0).mayRetire a && o.isFault == fl && s.roomToRetire 0 a o (s.retireCore 0 0 0 a o)
theorem test_DescriptorRetire : wRetires (wNop fun a => { a with stage := .visible }) false = true := by decide +kernel
theorem test_DescriptorRetire_fault : wRetires (wNop fun a => { a with pre := some (3, 1) }) true = true ∧ ((wNop id).que 0 0).cfg.skip = false ∧ ((wNop id).que 0 0).st = .active
    ∧ ((wNop id).que 0 0).halt = none := by decide +kernel
theorem test_partUpset : [(1344 : BitVec 11), 1024, 0].countP (fun i => (true && areaOf i.toNat = 3) || (true && (areaOf i.toNat = 1 || areaOf i.toNat = 2))) = 2 := by decide
theorem test_QueueDrain : let s := wQ fun u => { u with st := .draining, drainA := 1007 }
    s.live 0 0 = true ∧ (s.que 0 0).st = .draining ∧ (s.que 0 0).acc = [] ∧ (s.que 0 0).chain = none ∧ (s.que 0 0).drainA < s.aclk ∧ s.phys[(0 : Phys)].st ≠ .draining ∧ (s.que 0 0).enp = false := by decide
theorem test_QueueDrain_dormant : let s := (wQ fun u => { u with st := .draining, drainA := 1007 }).modP 0 fun c => { c with st := .dormant }
    s.heldP 0 = some 0 ∧ (s.que 0 0).st = .draining ∧ (s.que 0 0).drainA < s.aclk := by decide +kernel
theorem test_QueueDrain_held : (wQ fun u => { u with st := .draining, drainA := 1007 }).heldP 0 = some 0 := by decide
theorem test_QueueDrain_enable : let s := wQ fun u => { u with st := .draining, enp := true }
    s.live 0 0 = true ∧ (s.que 0 0).enp = true := by decide
/-- Channel 0 drains with no queue left. -/
def wDrained (e : Bool) : State := wLocked.modP 0 fun c => { c with st := .draining, chEnp := e }
theorem test_ChannelDrain : (wDrained true).on = true ∧ (wDrained true).logOf 0 = some 0 ∧ (wDrained true).phys[(0 : Phys)].st = .draining ∧ (∀ q : Qn, ((wDrained true).que 0 q).st = .disabled)
    ∧ (wDrained true).phys[(0 : Phys)].chEnp = true ∧ (wDrained true).live 0 0 = true := by decide
theorem test_ChannelDrain_out : (wDrained false).phys[(0 : Phys)].chEnp = false ∧ (wDrained false).quietHost 0 = true ∧ (wDrained false).lch[(0 : Log)].noEvents = true ∧ (wDrained false).lch[(0 : Log)].msg = none := by decide
/-- A WAIT of 10 µs on task input 0 that started at 8. -/
def wWait : State := wQ fun u => { u with acc := [{ id := 7, bytes := (wDesc 0x38 0 0 0).take 28 ++ leBytes 4 10 ++ zeros 32, stage := .started, startA := 8, deadline := some 1007 }] }
theorem test_WaitTimeout : ((wWait.acc 0 0 7).any fun a => a.isWait && a.stage == .started && a.runs && decide (a.startA + 100 * field a.d 28 4 ≤ wWait.aclk) && !(wWait.tin 0 (Fin.ofNat 4 (a.d.b 24))).dueNow wWait.aclk) = true := by decide +kernel
theorem test_DeadlineMiss : ((wWait.acc 0 0 7).any fun a => a.due wWait.aclk == some 1007 && a.stage ≠ .visible && !a.missed) = true ∧ 1007 < wWait.aclk := by decide
/-- A PARTITION with POOL_WAIT 1 that waits for a chunk. -/
def wPool : State := wStarted ((wDesc 0x28 0 0 64).take 38 ++ leBytes 2 1 ++ zeros 24) { pool := 5, poolA := some 908, poolR := 908, poolUs := 1500 }
theorem test_Pool : (wPool.lch[(0 : Log)].poolWait.any fun x => x.1 == 0 && x.2.x.pool == 5 && decide (x.2.x.poolR + 100 ≤ wPool.aclk) && decide (field x.2.d 38 2 * 1600 ≤ x.2.x.poolUs + (wPool.aclk - 908))) = true
    ∧ wPool.runs 0 = true ∧ (wPool.acc 0 0 7).isSome = true := by decide +kernel
theorem test_Narrow : 0 < Desc.win (wDesc 0x21 0 0 0) ∧ 5 < 2 ^ (8 * Desc.win (wDesc 0x21 0 0 0)) ∧ (narrowVal (wDesc 0x21 0 0 0) 5).2 = false := by decide +kernel
theorem test_round_ties : roundTo 5 1 0 = 2 ∧ roundTo 5 1 1 = 3 ∧ roundTo 5 1 2 = 2 ∧ roundTo 7 1 2 = 4 ∧ roundTo (-5) 1 0 = -3 ∧ roundTo (-5) 1 1 = -2 ∧ roundTo (-5) 1 2 = -2 := by decide

/-! ## Activations -/

/-- A contribution of generation 3 at task input `x`, in mode `m`, on the ACTIVE or otherwise changed queue 0. -/
def wKick (x : Fin 4) (m : Nat) (f : Que → Que := id) : State := (wQ f).modI 0 x fun t => { t with mode := m, contrib := [(1007, 2, 3)], drainMask := 1 }
theorem test_kickDue : ∀ x : Fin 4, kickDue (wKick x 0) 0 x 3 := fun x =>
  ⟨by decide +revert, by decide +revert, by decide +revert, by decide +revert, by decide +revert, by decide, ⟨1007, 2, by decide +revert, by decide +revert⟩, by decide +revert⟩
theorem test_Kick_modes : kickIn 0 = 0 ∧ kickIn 1 = 1 ∧ (∀ m : Fin 3, ((wKick 0 m).tin 0 (kickIn 0)).mode = m.val) ∧ ((wKick 0 1).que 0 0).st = .active ∧ ((wKick 0 1).que 0 0).kicks < 15
    ∧ ((wKick 0 1 fun u => { u with kicks := 15 }).que 0 0).kicks = 15 := by decide
theorem test_Kick_states : ((wKick 0 2 fun u => { u with st := .disabled }).que 0 0).cfg.valid = true ∧ (wKick 0 2).lch[(0 : Log)].oos = false ∧ (wKick 0 2).servP 0 = some 0
    ∧ (wKick 0 2).phys[(0 : Phys)].st = .active ∧ (wKick 0 2).phys[(0 : Phys)].toDrain = false := by decide
theorem test_Drain_masks : bit (((wKick 2 0).tin 0 2).drainMask) 0 = true ∧ bit (((wKick 2 0).tin 0 2).drainMask) 1 = false := by decide
theorem test_Wake_dormant : let s := (wKick 3 0).modP 0 fun c => { c with st := .dormant }
    s.map[(0 : Log)] = some 0 ∧ s.phys[(0 : Phys)].st = .dormant := by decide
theorem test_Drain_before_kick : kickDue (wKick 2 0) 0 2 3 ∧ ((wKick 2 0).tin 0 (kickIn 0)).mode = 0 := ⟨test_kickDue 2, by decide⟩
/-- A DRAIN and a KICK ENABLE are due at queue 0. -/
def wBoth : State := (wKick 0 2).modI 0 2 fun t => { t with contrib := [(1007, 2, 3)], drainMask := 1 }
/-- A DRAIN that is due in the aclk of a KICK ENABLE applies first: the queue drains and keeps ENABLE_PENDING, whichever command is sent first (R135). -/
theorem test_Drain_first : let s := wNext (.kickEnable 0 0 []) wBoth
    ((s.que 0 0).st, (s.que 0 0).enp) = (.draining, true) ∧ wNext (.kickEnable 0 0 []) wBoth = wNext (.kickEnable 0 0 []) (wNext (.drain 0 []) wBoth) := by decide +kernel
theorem test_Contributions : let s := wQ.modI 0 0 fun t => { t with contrib := [(3, 5), (4, 7), (2, 1)].map fun e => (1007, e.1, e.2) }
    s.gate.locked = true ∧ s.gate.lockA < s.aclk ∧ s.map[(0 : Log)].isSome = true ∧ (s.tin 0 0).doneA ≠ some s.aclk ∧ (∀ y ∈ inputsBefore 0, (s.tin 0 y).doneA = some s.aclk ∨ (s.tin 0 y).dueNow s.aclk = false)
      ∧ 1007 < s.aclk ∧ (let t := wNext (.kickDoorbell 0 0 []) s; ((t.tin 0 0).lastGen, (t.tin 0 0).merged, (t.tin 0 0).loops) = (5, 1, 1)) := by decide +kernel
theorem test_Contributions_cmd : inputCmd (wKick 0 0) 0 0 [] (.kickDoorbell 0 0 []) ∧ inputCmd (wKick 2 0) 0 2 [⟨1, 3⟩] (.drain 0 [⟨1, 3⟩]) ∧ wQ.tap.drives = false :=
  ⟨.inr (.inr ⟨0, by decide, by decide, by simp only [kickOf]; rfl⟩), .inl ⟨rfl, rfl⟩, by decide⟩
theorem test_RateHeld : let s := wRun.modI 0 1 fun t => { t with heldGen := some 3, lastAct := some 908, rate := 100 }
    s.gate.locked = true ∧ s.gate.lockA < s.aclk ∧ s.map[(0 : Log)].isSome = true ∧ (∀ y ∈ inputsBefore 1, (s.tin 0 y).doneA = some s.aclk ∨ (s.tin 0 y).dueNow s.aclk = false) ∧ (s.tin 0 1).doneA ≠ some s.aclk ∧ (s.tin 0 1).heldGen = some 3 ∧ (s.tin 0 1).contrib = []
      ∧ (∀ a, (s.tin 0 1).lastAct = some a → a + (s.tin 0 1).rate ≤ s.aclk) := by
  refine ⟨by decide, by decide, by decide, by decide, by decide, by decide, by decide, fun a h => ?_⟩
  have e : a = 908 := Option.some.inj (h.symm.trans (by decide))
  subst e; decide

/-! ## The host port -/

theorem test_slices : sliceOf 0x000 = 0 ∧ sliceOf 0x100 = 1 ∧ sliceOf 0x10000 = 1 ∧ sliceOf 0x10100 = 0 ∧ sliceOf 0xFFF00 = 0 := by decide
/-- The request of a read or write of 64 bytes at address `a`. -/
def wReq (own : Own) (a : Nat) (k : Kind := .read) : Req := { q := 0, kind := k, addr := a, own }
theorem test_Post_pidx : let s := wRing fun u => { u with prd := { u.prd with out := true } }
    s.posts 0 0 = true ∧ s.hclk ≤ 2020 ∧ (s.que 0 0).prd.out = true ∧ (s.que 0 0).prd.posted = false ∧ s.regionOk (s.que 0 0).cfg.dom .read (s.que 0 0).cfg.pidxAddr = true
      ∧ ({ s with hclk := 2020 } : State).mayPost 0 0 (wReq .pidx 8192) 0 = true := by decide +kernel
theorem test_Post_ring : let s := wRing fun u => { u with found := [(1, 0)] }
    s.posts 0 0 = true ∧ (∀ g ∈ (s.que 0 0).refills ++ (s.que 0 0).fetches, g.id ≠ s.nextId) ∧ ((s.que 0 0).lacks Origin.isRing).isNone = true ∧ (s.que 0 0).refetch = none ∧ ((s.que 0 0).fetches.find? fun f => !f.posted) = none ∧ (s.que 0 0).fetches.length < (s.que 0 0).shown
      ∧ (s.que 0 0).fetches.length + (s.que 0 0).waiting < (s.que 0 0).cfg.fetchAhead ∧ (s.que 0 0).subs + (s.que 0 0).fetches.length < 16
      ∧ s.regionOk (s.que 0 0).cfg.dom .read ((s.que 0 0).cfg.ringAt 0) = true ∧ s.mayPost 0 0 (wReq (.ring 0) 0) 255 = true := by decide +kernel
theorem test_Post_chain : let s := wRing fun u => { u with acc := [{ id := 7, bytes := wEntry.bytes }], chain := some { id := 9, addr := 4096, after := 7 } }
    s.posts 0 0 = true ∧ (s.que 0 0).rechain = none ∧ ((s.que 0 0).lacks Origin.isChain).isNone = true ∧ ((s.que 0 0).chain.map fun f => (f.posted, f.addr)) = some (false, 4096) ∧ s.regionOk (s.que 0 0).cfg.dom .read 4096 = true
      ∧ s.mayPost 0 0 { wReq .chain 4096 with acc := some 7 } 0 = true := by decide +kernel
theorem test_Post_record : let s := wQ fun u => { u with recs := [{ n := 0, bytes := zeros 16 }] }
    s.posts 0 0 = true ∧ ((s.que 0 0).recs.find? fun k => !k.posted) = some { n := 0, bytes := zeros 16 } ∧ s.regionOk (s.que 0 0).cfg.dom .write ((s.que 0 0).cfg.recAt 0) = true
      ∧ s.mayPost 0 0 { wReq (.rcd 0) 4096 .write with exempt := true } 0 = true := by decide +kernel
/-- A COPY of 64 bytes from 4,096 to 0, started, with its first reads `x`. -/
def wMove (src : Nat := 4096) (x : Exec := {}) : State := wQ fun u => { u with acc := [{ id := 7, seq := 5, bytes := wDesc 1 64 src 0, stage := .started, x }] }
theorem test_Post_read : (wMove.acc 0 0 7).any (fun a => a.runs && a.d.op ≠ 0x31 && a.d.op ≠ 0x28 && (nextRead a).any fun x => x.2.addr == 4096 && wMove.regionOk 1 .read x.2.addr) = true
    ∧ wMove.posts 0 0 = true ∧ wMove.mayPost 0 0 { wReq (.rd 7 0) 4096 with acc := some 7 } 0 = true := by decide +kernel
theorem test_Post_turn : (wMove.que 0 0).readTurn ((wMove.acc 0 0 7).getD {}) none = true ∧ (({ wMove with hclk := 2016 } : State).settled 2016).mayPost 0 0 { wReq (.rd 7 0) 4096 with acc := some 7 } 0 = true := by decide +kernel
theorem test_Post_read_outside : ((wMove 0x100000).acc 0 0 7).any (fun a => (nextRead a).any fun x => !wMove.regionOk 1 .read x.2.addr) = true := by decide +kernel
/-- A LOCKED on 4 bytes at address 256, started. -/
def wLock (l : Lk) (x : Exec := {}) : State := wQ fun u => { u with acc := [{ id := 7, bytes := (wDesc 0x31 4 0 256).take 25 ++ [2] ++ zeros 38, stage := .started, lk := l, x }] }
theorem test_Post_lockRead : (wLock .none).posts 0 0 = true ∧ ((wLock .none).acc 0 0 7).any (fun a => a.runs && a.d.op == 0x31 && a.lk == .none) = true ∧ (wLock .none).regionOk 1 .lockRead 256 = true
    ∧ (wLock .none).mayPost 0 0 { wReq (.rd 7 0) 256 .lockRead with entries := 2, acc := some 7 } 0 = true := by decide +kernel
theorem test_Post_lockWrite : ((wLock .intent { lockPost := true }).acc 0 0 7).any (fun a => a.runs && a.x.lockPost && a.d.op == 0x31) = true
    ∧ (wLock .intent { lockPost := true }).mayPost 0 0 { wReq (.wr 7 0) 256 .lockWrite with acc := some 7 } 0 = true := by decide +kernel
/-- A PARTITION whose take is at stage `k`. -/
def wTake (k : Nat) : State := (wQ fun u => { u with acc := [{ id := 7, bytes := wDesc 0x28 0 0 64, stage := .started, x := { pool := k } }] }).modL 0 fun l => { l with bed := some { q := 0, dst := 64 } }
theorem test_Post_take : ∀ lock : Bool, let s := wTake (if lock then 3 else 1)
    s.posts 0 0 = true ∧ (s.acc 0 0 7).any (fun a => a.runs && a.d.op == 0x28 && a.x.pool == (if lock then 3 else 1) && a.x.reads.isEmpty) = true ∧ s.regionOk 1 (if lock then .lockRead else .read) 64 = true
      ∧ s.mayPost 0 0 { wReq (.rd 7 0) 64 (if lock then .lockRead else .read) with acc := some 7, entries := if lock then 2 else 1 } 0 = true := by decide +kernel
/-- A FILL of 64 zero bytes at address 0, started. -/
def wWrites : State := wQ fun u => { u with acc := [{ id := 7, bytes := wEntry.bytes, stage := .started }] }
theorem test_Post_write : let y := wWrites.serveReq 0 0 ((wWrites.acc 0 0 7).getD {})
    wWrites.posts 0 0 = true ∧ (y.que 0 0).houtHeld + 1 ≤ 32 ∧ (y.acc 0 0 7).any (fun b => b.d.viaHout && !b.x.lockPost && (nextWrite b y.lch[(0 : Log)].bed).any fun x => b.writeOpen y.lch[(0 : Log)].bed x.2 && wWrites.regionOk 1 .write x.2.addr
      && y.mayPost 0 0 { wReq (.wr 7 0) x.2.addr .write with size := x.2.size, cells := x.2.cells, acc := some 7 } 0) = true := by decide +kernel

/-- A pending read of queue 0 at address 0, posted at hclk 2,000. -/
def wTxn : Txn := { own := .pidx, postH := 2000, postA := 1000 }
/-- The block with `e` pending on channel 0. -/
def wPend (e : Txn) : State := wQ.modP 0 fun c => { c with pend := [e] }
/-- The state of SLICE_GRANT's decision. -/
def wDecide (s : State) : State := (((s.settle 0 2016).rejectStale 0 2016).lostLocks 0 2016).markHeld 0 2016
/-- The decision has a winner. -/
def wWins (s : State) : Bool := ((wDecide s).winner 0 (((wDecide s).aged 0 2016).filter fun t => (wDecide s).fresh t && (wDecide s).eligible 0 2016 t)).isSome
theorem test_Grant_read : (wPend wTxn).on = true ∧ (wPend wTxn).slices[(0 : SliceN)].lastH ≠ some 2016 ∧ wWins (wPend wTxn) = true := by decide +kernel
theorem test_Grant_write : wWins (wPend { wTxn with kind := .write, own := .wr 7 0 }) = true := by decide +kernel
theorem test_Grant_lockRead : wWins (wPend { wTxn with kind := .lockRead, own := .rd 7 0 }) = true := by decide +kernel
/-- The block with `e` granted in slice 0, and the fence of channel 0 at `i`. -/
def wIssue (e : Txn) (i : Nat) : State := { wQ.modS 0 fun x => { x with issue := [e] } with fence := wQ.fence.set 0 i }
theorem test_Present : (wIssue wTxn 0).pinsAt 2016 = true ∧ ((wIssue wTxn 0).settle 0 2016).slices[(0 : SliceN)].lastP = none ∧ wTxn.kind.isWrite = false
    ∧ ((((wIssue wTxn 0).settle 0 2016).slices[(0 : SliceN)].issue.find? (((wIssue wTxn 0).settle 0 2016).slices[(0 : SliceN)].readyAt 2016)).any fun w => ((wIssue wTxn 0).settle 0 2016).fresh w) = true := by decide +kernel
theorem test_Present_late : let s := (wIssue wTxn 0).modS 0 fun x => { x with lastP := some (2016, false) }
    s.pinsAt 2016 = true ∧ ((s.settle 0 2016).slices[(0 : SliceN)].lastP.any fun y => 2016 ≤ y.1) = true := by decide +kernel
/-- Two beats of slice 3, with one hclk between them, and one of slice 5 come for one channel at hclk 10: it takes one beat in each hclk, in turn (R344, R345). -/
theorem test_read_beats : let r : RdPort := { rin := [⟨3, 10, 2, [1]⟩, ⟨5, 10, 1, []⟩] }
    (r.upTo 11).rin = [⟨3, 12, 1, []⟩, ⟨5, 10, 1, []⟩] ∧ (r.upTo 12).rin = [⟨3, 12, 1, []⟩] ∧ (r.upTo 13).rin = [] ∧ (r.upTo 13).took = [(3, 12), (5, 11)] := by decide
theorem test_Present_stale : ((((wIssue wTxn 1).settle 0 2016).slices[(0 : SliceN)].issue.find? (((wIssue wTxn 1).settle 0 2016).slices[(0 : SliceN)].readyAt 2016)).any fun w => !((wIssue wTxn 1).settle 0 2016).fresh w) = true := by decide +kernel

/-- The state `s` with `e` outstanding in slice 0. -/
def wOut (s : State) (e : Txn) : State := s.modS 0 fun x => { x with out := [e] }
theorem test_Response_stray : wQ.pinsAt 2016 = true ∧ wQ.rBusy 0 2016 = false ∧ wQ.slices[(0 : SliceN)].lastB ≠ some 2016 ∧ named wQ 0 false 0 = none ∧ named wQ 0 true 0 = none := by decide
theorem test_Response_stale : let s := { wOut wQ wTxn with fence := wQ.fence.set 0 1 }
    (named s 0 false 0).isSome = true ∧ s.inc 0 ≠ wTxn.inc ∧ [({ bytes := zeros 64, psn := false } : RWord)].length = wTxn.beats := by decide
theorem test_Response_pidx : named (wOut wQ wTxn) 0 false 0 = some wTxn ∧ (wOut wQ wTxn).inc 0 = wTxn.inc ∧ wTxn.own = .pidx ∧ wTxn.kind = .read := by decide
theorem test_Response_fetch : let e : Txn := { wTxn with own := .ring 9 }
    let s := wOut (wRing fun u => { u with fetches := [{ id := 9, posted := true }] }) e
    named s 0 false 0 = some e ∧ s.inc 0 = e.inc ∧ ((s.que 0 0).fetches.map Fetch.id) = [9]
      ∧ ((wNext (.readResponse 0 0 [wEntry] 0 2016 ⟨[], []⟩) s).que 0 0).fetches = [{ id := 9, posted := true, data := some (some wEntry, 2) }] := by decide +kernel
theorem test_Response_chain : let e : Txn := { wTxn with own := .chain }
    let s := wOut (wRing fun u => { u with chain := some { id := 9, posted := true } }) e
    named s 0 false 0 = some e ∧ s.inc 0 = e.inc ∧ ((s.que 0 0).chain.map Fetch.id) = some 9
      ∧ ((wNext (.readResponse 0 0 [wEntry] 1 2016 ⟨[], []⟩) s).que 0 0).chain = some { id := 9, posted := true, data := some (none, 2) } := by decide +kernel
/-- The LOCKED of `wLock` with its LOCK_READ outstanding in slice 1, whose lock it holds. -/
def wLocking : State :=
  ((wLock .intent { reads := [{ stream := 6, addr := 256, size := 64, lo := 0, kind := .lockRead, st := .posted, data := [] }] }).modP 0 fun c => { c with locked := some (0, 7) }).modS 1
    fun x => { x with lock := { held := true, block := 256 }, out := [{ wTxn with kind := .lockRead, own := .rd 7 0, addr := 256 }] }
theorem test_Response_lock : (named wLocking 1 false 0).any (fun w => w.own == .rd 7 0 && w.kind == .lockRead && wLocking.slices[(1 : SliceN)].lock.ownedBy w && wLocking.inc w.log == w.inc) = true
    ∧ (wLocking.acc 0 0 7).any (fun a => a.d.op == 0x31 && a.x.reads.any fun r => r.stream == 6) = true ∧ (7, 0) ∉ (wLocking.que 0 0).hin := by decide +kernel
/-- The response of that LOCK_READ: poisoned, with a word that the operation leaves as it is or changes, or an error. -/
theorem test_Response_lock_ends : (∀ psn : Bool, let t := wNext (.readResponse 1 0 [{ bytes := zeros 64, psn }] 0 2016 ⟨[], []⟩) wLocking
      (t.slices[(1 : SliceN)].lock.held, t.phys[(0 : Phys)].locked) = (false, none))
    ∧ (wNext (.readResponse 1 0 [{ bytes := 1#8 :: zeros 63, psn := false }] 0 2016 ⟨[], []⟩) wLocking).slices[(1 : SliceN)].lock.answered = true
    ∧ (wNext (.readResponse 1 0 [] 1 2016 ⟨[], []⟩) wLocking).slices[(1 : SliceN)].lock.held = false := by decide +kernel
/-- The COPY of `wMove` with one read posted, `hin` listing it or not, and its transaction outstanding. -/
def wReading (f : Que → Que := id) : State :=
  wOut ((wMove 4096 { reads := [{ stream := 0, addr := 4096, size := 64, lo := 0, kind := .read, st := .posted, data := [] }], ri := 1 }).modQ 0 0 fun u => f { u with hin := [(7, 0)] })
    { wTxn with own := .rd 7 0, addr := 4096 }
theorem test_Response_read : (named wReading 0 false 0).any (fun w => w.own == .rd 7 0 && w.kind == .read && wReading.inc w.log == w.inc) = true
    ∧ (wReading.acc 0 0 7).any (fun a => a.x.reads.any fun r => r.stream < 4 && r.st == .posted) = true ∧ wReading.landing 0 0 7 0 2016 = some .landed := by decide +kernel
/-- The host-in FIFO and the return buffer hold other reads, 32 words landed and `k` held. -/
def wFull (k : Nat) : State :=
  let r (n : Nat) (st : RSt) : RTx := { stream := 0, addr := 0, size := 64 * n, lo := 0, kind := .read, st, data := [] }
  wReading fun u => { u with acc := u.acc ++ [{ id := 8, x := { reads := [r 32 .landed, r k .held] } }], hin := [(8, 0), (8, 1)] ++ u.hin }
theorem test_Response_held : (wFull 63).landing 0 0 7 0 2016 = some .held := by decide +kernel
theorem test_Response_refused : (wFull 64).landing 0 0 7 0 2016 = none := by decide +kernel
/-- A read of the COPY waits in the return buffer. -/
def wHeldRead : State := wReading fun u => { u with hin := [(7, 0)], acc := u.acc.map fun a => { a with x := { a.x with reads := a.x.reads.map fun r => { r with st := .held } } } }
theorem test_ReturnBufferMove : let s := wHeldRead
    s.on = true ∧ s.logOf 0 = some 0 ∧ (s.runP 0).isSome = true ∧ ((s.que 0 0).hin.find? fun x => ((s.que 0 0).readAt x).any fun r => r.st == .held) = some (7, 0)
      ∧ (s.que 0 0).nextIn (7, 0) = true ∧ (s.que 0 0).moveH ≤ 2016 := by decide +kernel
theorem test_ReturnBufferMove_room : wHeldRead.hinRoom 0 0 2016 1 = true := by
  have e : (wHeldRead.que 0 0).hinRec = [] := by decide +kernel
  have f : (wHeldRead.que 0 0).hinWords .landed = 0 := by decide +kernel
  simp [State.hinRoom, State.hinStale, e, f]
/-- The FILL of `wWrites` with its write outstanding. -/
def wWriting : State :=
  wOut (wQ fun u => { u with acc := [{ id := 7, bytes := wEntry.bytes, stage := .started, x := { writes := [{ addr := 0, size := 64, lo := 0, cells := [], st := .posted }], wi := 1 } }] })
    { wTxn with kind := .write, own := .wr 7 0 }
theorem test_WriteResponse : (named wWriting 0 true 0).any (fun w => w.own == .wr 7 0 && w.kind == .write && wWriting.inc w.log == w.inc) = true ∧ (wWriting.acc 0 0 7).any (fun a => a.x.writes.length == 1) = true := by decide +kernel
/-- The LOCKED of `wLock` with its LOCK_WRITE outstanding in slice 1, whose lock it holds. -/
def wUnlock : State := (wLock .intent).modS 1 fun x => { x with lock := { held := true, block := 256 }, out := [{ wTxn with kind := .lockWrite, own := .wr 7 0, addr := 256 }] }
theorem test_WriteResponse_lock : (named wUnlock 1 true 0).any (fun w => w.kind == .lockWrite && wUnlock.slices[(1 : SliceN)].lock.ownedBy w) = true ∧ (wUnlock.acc 0 0 7).any (fun a => a.d.op ≠ 0x28) = true := by decide +kernel
theorem test_WriteResponse_record : let s := wOut (wQ fun u => { u with recs := [{ n := 3, posted := true, done := true, ack := true }] }) { wTxn with kind := .write, own := .rcd 3 }
    (named s 0 true 0).any (fun w => w.own == .rcd 3) = true ∧ ((s.que 0 0).recs.head?.map Rec.n) = some 3 := by decide
theorem test_WriteResponse_take : let e : Txn := { wTxn with kind := .lockWrite, own := .wr 7 0, addr := 64 }
    let s := ((wTake 4).modS 0 fun x => { x with out := [e] }).modL 0 fun l => { l with bed := some { q := 0, dst := 64, pchunks := 9, takes := [{ top := 5, ver := 1, n := 1, ids := [4], out := .open_ }] } }
    named s 0 true 0 = some e ∧ s.inc 0 = e.inc ∧ (s.acc 0 0 7).any (fun a => a.d.op == 0x28) = true
      ∧ ((wNext (.writeResponse 0 0 0 2016) s).lch[(0 : Log)].bed.map fun b => b.takes.map Take.out) = some [.taken]
      ∧ ((wNext (.writeResponse 0 0 2 2016) s).lch[(0 : Log)].bed.map fun b => b.takes.map Take.out) = some [.unknown] := by decide +kernel
theorem test_WriteResponse_record_fails : let s := wOut (wQ fun u => { u with recs := [{ n := 3, posted := true, done := true, ack := true }] }) { wTxn with kind := .write, own := .rcd 3 }
    let t := wNext (.writeResponse 0 0 2 2016) s
    s.lch[(0 : Log)].roomFor { n := 3, fault := true } = true ∧ (t.lch[(0 : Log)].outs[0].length, t.lch[(0 : Log)].outs[1].length, t.phys[(0 : Phys)].c.cringFails) = (0, 1, 1)
      ∧ t.linkOut = [(0, .ack 0 0 1)] := by decide +kernel
theorem test_WriteResponse_record_waits : let s := wOut (wQ fun u => { u with recs := [{ n := 2 }, { n := 3, posted := true }] }) { wTxn with kind := .write, own := .rcd 3 }
    (s.que 0 0).recs = [{ n := 2 }] ++ { n := 3, posted := true } :: [] ∧ ((wNext (.writeResponse 0 0 0 2016) s).que 0 0).recs = [{ n := 2 }, { n := 3, posted := true, seen := true }] := by decide +kernel
theorem test_WriteResponse_room : wRun.lch[(0 : Log)].roomFor { n := 0, done := true } = true
    ∧ (wRun.modL 0 fun l => { l with outs := l.outs.set 0 (List.replicate 64 ⟨0, 0, 0⟩) }).lch[(0 : Log)].roomFor { n := 0, done := true } = false := by decide +kernel
theorem test_LockLease : let s := wRun.modS 0 fun x => { x with lock := { held := true, leaseH := some 1504 } }
    s.on = true ∧ s.slices[(0 : SliceN)].lock.held = true ∧ s.slices[(0 : SliceN)].lock.granted = false ∧ s.slices[(0 : SliceN)].lock.leaseH = some 1504 ∧ 1504 + s.hpt.lease ≤ 2016 := by decide
theorem test_LockLease_start : (wRun.modS 0 fun x => { x with lock := { held := true, leaseH := some 1504 } }).leaseStart 0 2016 = some 1504 := by decide +kernel
theorem test_Starve : let s := wPend { wTxn with postA := 207 }
    s.phys[(0 : Phys)].pend[(0 : Fin 8).val]? = some { wTxn with postA := 207 } ∧ wTxn.prom = false ∧ wTxn.starved = false ∧ wTxn.granted = false ∧ 207 + s.arb.limit < s.aclk := by decide
theorem test_Starve_granted : 207 + wRun.arb.limit < ({ wTxn with granted := true, presA := 1008 } : Txn).presA := by decide
theorem test_SliceWd : let s := wRun.modS 0 fun x => { x with hold := some { t := { wTxn with kind := .write, own := .wr 7 0 }, grantH := 992, gaps := [none] } }
    s.on = true ∧ s.slices[(0 : SliceN)].hold.isSome = true ∧ 1024 ≤ s.slices[(0 : SliceN)].idle 2016 ∧ s.phys[(0 : Phys)].st ≠ .quarantined ∧ s.phys[(0 : Phys)].st.monitored = true
      ∧ s.phys[(0 : Phys)].dieA = none ∧ Txn.preemptible { wTxn with kind := .write } = true := by decide +kernel
theorem test_SliceWd_beats : let s := wRun.modS 0 fun x => { x with hold := some { t := { wTxn with kind := .write, own := .wr 7 0 }, grantH := 992, gaps := [none] } }
    (s.slices[(0 : SliceN)].hold.any fun y => (s.slices[(0 : SliceN)].times y).length < y.t.beats) = true := by decide +kernel

/-! ## Sparing, sleep and test -/

theorem test_Liveness : wRun.on = true ∧ wRun.gate.locked = true ∧ wRun.aclk % 16 = 0 ∧ wRun.lastLive ≠ some wRun.aclk ∧ (∀ p : Phys, wRun.phys[p].missed < 2) := by decide
/-- Channel 0 has missed two pulses; its terrace has the reserve `r`. -/
def wMissed (r : Option Phys) : State := (wRun.modP 0 fun c => { c with missed := 2 }).modT 0 fun x => { x with reserve := r }
theorem test_Liveness_pre : (∀ p : Phys, wRun.phys[p].preRst = none) ∧ (∀ t : Ter, wRun.ters[t].cmd = none) ∧ wRun.lch[(0 : Log)].retReq = none := by decide
/-- A RESET command of the aclk of the third miss. -/
def wRst : State := wNext (.reset 0 0 wRqr) (wMissed (some 16))
theorem test_Liveness_reset : (wRst.phys[(0 : Phys)].preRst.map fun x => (x.at_, x.st)) = some (1008, .active) ∧ wRst.aclk = 1008 ∧ wRst.phys[(0 : Phys)].missed = 2
    ∧ wRst.phys[(0 : Phys)].st = .waking ∧ wRst.phys[(0 : Phys)].monA < 1008 ∧ wRst.ters[(0 : Ter)].runA < 1008 ∧ wRst.ters[(0 : Ter)].stopped = false ∧ wRst.noPulse [0] 0 = true ∧ wRst.logOf 0 = some 0
    ∧ (∀ r : Phys, r ≠ 0 → wRst.phys[r].missed < 2) ∧ (wRst.ters[(0 : Ter)].cmd.map fun c => (c.op, c.at_, c.logs)) = some (4, 1008, [0])
    ∧ wRst.lch[(0 : Log)].retReq = none := by decide +kernel
theorem test_Liveness_third : (wMissed (some 16)).phys[(0 : Phys)].missed = 2 ∧ (wMissed (some 16)).phys[(0 : Phys)].monA < (wMissed (some 16)).aclk ∧ (wMissed (some 16)).phys[(0 : Phys)].st.monitored = true
    ∧ (wMissed (some 16)).phys[(0 : Phys)].st ≠ .reserve ∧ (wMissed (some 16)).ters[(0 : Ter)].stopped = false ∧ (wMissed (some 16)).noPulse [0] 0 = true ∧ (wMissed (some 16)).logOf 0 = some 0
    ∧ (∀ r : Phys, r ≠ 0 → (wMissed (some 16)).phys[r].missed < 2) ∧ (wMissed (some 16)).ters[(0 : Ter)].busy = false ∧ (wMissed none).ters[(0 : Ter)].reserve = none := by decide +kernel
theorem test_Liveness_third_ter : (wMissed (some 16)).ters[(0 : Ter)].runA < (wMissed (some 16)).aclk ∧ ((wMissed (some 16)).ters[(0 : Ter)].cmd.any fun c => c.at_ == (wMissed (some 16)).aclk) = false
    ∧ ((wMissed (some 16)).lch[(0 : Log)].retReq.any fun r => r.at_ == (wMissed (some 16)).aclk) = false ∧ (({ wMissed (some 16) with hclk := 2016 } : State).settled 2016).noPulse [0] 0 = true := by decide +kernel
theorem test_Liveness_two : let s := (wMissed (some 16)).modT 0 fun x => { x with busy := true, tko := some { log := 1, new := 16, old := 1, at_ := 1008, swap := false, oos := false } }
    s.phys[(0 : Phys)].missed = 2 ∧ s.ters[(0 : Ter)].reserve = some 16 ∧ s.ters[(0 : Ter)].busy = true ∧ (s.ters[(0 : Ter)].tko.any fun k => !k.swap && k.at_ == s.aclk && decide ((0 : Log) < k.log)) = true := by decide +kernel
theorem test_ParityReport : wRun.on = true ∧ wRun.phys[(0 : Phys)].dieA = none ∧ wRun.phys[(0 : Phys)].st.monitored = true := by decide
theorem test_ParityReport_journal : wRun.gate.locked = true ∧ wRun.jbad[(0 : Log)] = none ∧ ((wNext (.parityReport (.journal 0 .uncorrectable)) wRun).jbad[(0 : Log)]).isSome = true := by decide +kernel
/-- A takeover of logical channel 0 by the reserve of its terrace. -/
def wTko (b : Bool) : State :=
  (wQ.modP 16 fun c => { c with st := .reserve }).modT 0 fun x => { x with tko := some { log := 0, new := 16, old := 0, at_ := 1000, swap := b, oos := b }, busy := true }
theorem test_Takeover : ((wTko false).ters[(0 : Ter)].tko.map fun k => (k.log, k.new, k.swap)) = some (0, 16, false) ∧ (wTko false).phys[(16 : Phys)].st = .reserve ∧ (wTko false).returning 0 = false
    ∧ (wTko false).on = true ∧ (wTko false).tap.drives = false ∧ ((wTko false).que 0 0).st ≠ .disabled ∧ ((wTko false).que 0 0).cfg.ring = false ∧ ((wTko true).ters[(0 : Ter)].tko.map Tko.swap) = some true := by decide
theorem test_Takeover_journal : (wTko false).jbad[(0 : Log)] = none ∧ ((wNext (.parityReport (.journal 0 .uncorrectable)) (wTko false)).jbad[(0 : Log)]).isSome = true := by decide +kernel
theorem test_Restore : let s := wLocked.modP 0 fun c => { c with st := .waking, wakeFor := .reset }
    s.on = true ∧ s.logOf 0 = some 0 ∧ s.phys[(0 : Phys)].st = .waking ∧ s.phys[(0 : Phys)].wakeFor ≠ .dormant ∧ s.phys[(0 : Phys)].scrub = false := by decide
theorem test_Restore_woken : let s := wLocked.modP 0 fun c => { c with st := .waking, wakeFor := .reset, wakeA := some 984 }
    s.phys[(0 : Phys)].woken s.aclk = true ∧ s.jbad[(0 : Log)] = none ∧ ((wNext (.parityReport (.journal 0 .uncorrectable)) s).jbad[(0 : Log)]).isSome = true := by decide +kernel
theorem test_IdlePeriod : let s := (wRun.modL 0 fun l => { l with port := { l.port with idle := 64 } }).modP 0 fun c => { c with quiet := 64 }
    s.on = true ∧ s.logOf 0 = some 0 ∧ s.phys[(0 : Phys)].st = .active ∧ s.phys[(0 : Phys)].entry = 0 ∧ 0 < s.lch[(0 : Log)].port.idle ∧ s.lch[(0 : Log)].port.idle ≤ s.phys[(0 : Phys)].quiet := by decide
theorem test_WakeComplete : let s := wLocked.modP 0 fun c => { c with st := .waking, wakeFor := .dormant, wakeA := some 984 }
    s.logOf 0 = some 0 ∧ s.phys[(0 : Phys)].st = .waking ∧ s.phys[(0 : Phys)].wakeFor = .dormant ∧ s.phys[(0 : Phys)].wakeA = some 984 ∧ 984 + 24 ≤ s.aclk := by decide
theorem test_DormantEntry : let s := wRun.modP 0 fun c => { c with entry := 1008 }
    s.phys[(0 : Phys)].st = .active ∧ 0 < s.phys[(0 : Phys)].entry ∧ s.phys[(0 : Phys)].entry - 1 + s.step1 (terP 0) ≤ s.aclk := by decide
theorem test_ClockStop : let s := wLocked.modT 0 fun x => { x with asleepA := 8 }
    s.on = true ∧ s.ters[(0 : Ter)].stopped = false ∧ 8 ≤ s.ters[(0 : Ter)].asleepA ∧ s.asleep 0 = true := by decide
theorem test_Scrub : let s := wLocked.modP 16 fun c => { c with scrub := true }
    s.on = true ∧ s.phys[(16 : Phys)].scrub = true ∧ s.phys[(16 : Phys)].st = .off ∧ s.ters[terP 16].reserve = some 16 := by decide
theorem test_Scrub_reclaim : let s := (wLocked.modP 3 fun c => { c with scrub := true, st := .quarantined }).modT 0 fun x => { x with cmd := some { op := 6, all := false, logs := [], phys := 3, at_ := 0 } }
    s.phys[(3 : Phys)].scrub = true ∧ s.phys[(3 : Phys)].st = .quarantined ∧ (s.ters[terP 3].cmd.any fun k => k.op == 6 && k.phys = (3 : Phys).val) = true := by decide
theorem test_Scrub_waking : let s := wLocked.modP 0 fun c => { c with scrub := true, st := .waking }
    s.phys[(0 : Phys)].scrub = true ∧ s.phys[(0 : Phys)].st ≠ .off ∧ s.phys[(0 : Phys)].st ≠ .quarantined := by decide
theorem test_TestPort_closed : Instr.scan ∈ closedTests ∧ wRun.gate.locked = true ∧ wRun.gate.testOpen = false ∧ State.reset.gate.locked = false ∧ wRun.on = true := by decide
theorem test_Mbist_runs : ({ wRun with tap := { wRun.tap with running := [1] } } : State).on = true ∧ ({ wRun with tap := { wRun.tap with running := [1] } } : State).tap.running ≠ [] := by decide


/-! ## Results -/

/-- The one-block digest of "abc" (FIPS 180-4). -/
theorem test_sha256_abc : sha256 [0x61, 0x62, 0x63] = ((leBytes 32 0xBA7816BF8F01CFEA414140DE5DAE2223B00361A396177A9CB410FF61F20015AD).reverse) := by decide +kernel
/-- The check value of CRC-16 with polynomial 0x1021 and initial value 0xFFFF over "123456789". -/
theorem test_crc16 : crc16 [0x31, 0x32, 0x33, 0x34, 0x35, 0x36, 0x37, 0x38, 0x39] = 0x29B1 := by decide +kernel
/-- A CREDIT of queue 1 with INCREMENT 0x0302 (R56 to R58): one flit, and its header's CRC. -/
theorem test_flit_header : ((Pkt.credit 1 0x0302).flits.map fun f => (f.bytes.take 12, f.sop, f.eop, f.psn)) = [([5, 1, 0, 0, 0, 0, 0, 0, 2, 3, 0, 0], true, true, false)]
    ∧ field (Pkt.credit 1 0x0302).header 30 2 = crc16 ((Pkt.credit 1 0x0302).header.take 30) := by decide +kernel
/-- par[i] covers bits 64i + 63 to 64i (R52). -/
theorem test_flit_parity : parOf (1#256 <<< 63) = 1 ∧ parOf (1#256 <<< 64) = 2 ∧ parOf (3#256 <<< 192) = 0 := by decide +kernel
/-- The flits of a CMD with two payload words spell it again (R51 to R59). -/
theorem test_flits_cmd : receive 0 2 (inFlits (.cmd 0 (wCmd 5 2))) = [.cmd 0 (wCmd 5 2)] := by decide +kernel
/-- A changed header bit is a header error, and a second sop ends the packet with the CMD that it cut (R105). -/
theorem test_flits_bad : receive 0 2 ((inFlits (.creditIn 0 1 7)).map fun f => { f with flit := f.flit ^^^ 1#256 }) = [.linkError 0 .header none]
    ∧ receive 0 3 ((inFlits (.cmd 0 (wCmd 5))).take 2 ++ inFlits (.creditIn 0 1 7)) = [.linkError 0 .sopInside (some ⟨0, 5, false⟩), .creditIn 0 1 7] := by decide +kernel
/-- A write enable on chip 0: 8 clocks of two aclk, nv_sck low and then high, and the levels of R565 on nv_io[3:2]. -/
theorem test_spi_wave : let w := (({ code := 6, cs := 0, addr := none, dummy := 0, out := [], back := 0, quad := false } : Spi).wave)
    w.length = 16 ∧ w.map NvPins.sck = (List.range 16).map (· % 2 == 1) ∧ (w.all fun p => p.csN == 0b10#2 && p.io.drop 2 == [some true, some true]) = true := by decide +kernel
/-- A read of one byte on single lines takes nv_io[1] at the eight clocks behind command and address (R565). -/
theorem test_spi_receive : ({ code := 3, cs := 0, addr := some (0, 3), dummy := 0, out := [], back := 1, quad := false } : Spi).receive
    (List.replicate 32 #v[true, true, true, true] ++ [1, 0, 1, 0, 0, 1, 0, 1].map fun b => #v[true, b == 1, true, true]) = [0xA5] := by decide +kernel
/-- A W1C write in the aclk in which the device sets the bit leaves it 1; a set of an earlier aclk clears (R11). -/
theorem test_w1c_set_wins : let s : State := { wRun with gate := { wRun.gate with denied := true } }
    (wNext (.registerWrite 8 4 wRqr) s).gate.denied = true
      ∧ (wNext (.registerWrite 8 4 wRqr) { wRun with edge := { wRun.edge with gate := { wRun.edge.gate with denied := true } } }).edge.gate.denied = false := by decide +kernel
/-- A scrubbed store reads zeros with good parity (R302, R332). -/
theorem test_scrubbed_word : let s := wLocked.modP 0 fun c => { c with st := .off, scrubbed := true }
    (s.storeWord 0 5).bits = 0 ∧ gray6 2 = 3 := by decide +kernel
/-- A CMD in turn is accepted (R68). -/
theorem test_cmd_accepted : (wNext (.cmd 0 (wCmd 0)) wQ).linkOut = [(0, .ack 0 0 0)] ∧ ((wNext (.cmd 0 (wCmd 0)) wQ).que 0 0).lastAcc = 0 := by decide +kernel
/-- A CMD after a missing one has NAK GAP with the SEQ expected (R705). -/
theorem test_cmd_gap : (wNext (.cmd 0 (wCmd 2)) wQ).linkOut = [(0, .nak 0 2 2 0 0)] := by decide +kernel
/-- A second grant to the same channel needs the next decision: one hclk gives one grant (R372). -/
theorem test_grant_once : (wNext (.sliceGrant 0 2016 []) (wPend wTxn)).slices[(0 : SliceN)].issue.length = 1
    ∧ (wNext (.sliceGrant 0 2016 []) (wNext (.sliceGrant 0 2016 []) (wPend wTxn))).slices[(0 : SliceN)].issue.length = 1 := by decide +kernel
/-- The commit of a takeover gives logical channel 0 to the reserve (R519). -/
theorem test_takeover_commit : (wNext (.takeoverCommit 0 ⟨.clean, []⟩) (wTko false)).map[(0 : Log)] = some 16 := by decide +kernel
/-- A wake from DORMANT takes 24 aclk (R625). -/
theorem test_wake_time : let s := wLocked.modP 0 fun c => { c with st := .waking, wakeFor := .dormant, wakeA := some 985 }
    (wNext (.wakeComplete 0) s).phys[(0 : Phys)].st = .waking ∧ (wNext (.wakeComplete 0) { s with aclk := 1009 }).phys[(0 : Phys)].st = .active := by decide +kernel
/-- A write to HPT_CFG below 16 is refused in FAILED (R363, R560). -/
theorem test_lease_range : (wNext (.registerWrite 0x4000 15 wRqr) wFailed).hpt.lease = 512 ∧ (wNext (.registerWrite 0x4000 16 wRqr) wFailed).hpt.lease = 16 := by decide +kernel
/-- The supply may not go while hrst_n is 1 (R632). -/
theorem test_supply_outside : exec .vddCoreRemoval wRun = .fault .supplyOutside := rfl

end Sys2Proof.Tests
end

section
/-! SUPPORT. What a management read returns and clears (R10, R11, R542, R543, R664, R684): the two parts of W1C and RC fields, and the three outcomes of a read. -/

namespace Sys2Proof.Machine

variable (s : State) (off : BitVec 20) (g : Reg) (v : Word) (r : Rqr)

/-! ## The two parts of W1C and RC fields -/

/-- A requester's standing does not depend on the parts of W1C and RC fields. -/
theorem State.held_secure (rc : Bool) : (s.held rc).secure r = s.secure r := by
  simp [State.secure, State.secOf, State.held, Gate.hold, DomSt.hold]

theorem State.held_tin (rc : Bool) (n : Log) (x : Fin 4) : (s.held rc).tin n x = s.edge.lch[n].ins[x].hold rc (s.tin n x) := by
  simp [State.tin, State.held, LCh.hold]

theorem State.held_ters (rc : Bool) (x : Ter) : (s.held rc).ters[x] = s.edge.ters[x].hold rc s.ters[x] := by
  simp [State.held]

/-- Outside the streaming of a candidate a read returns the register's value. -/
theorem State.held_readVal (rc : Bool) (hl : s.gate.st ≠ .loading) :
    (s.held rc).readVal r g = BitVec.ofNat 32 ((s.held rc).regVal r g) := by
  have hst : ((s.held rc).gate.st == .loading) = false := by simpa [State.held, Gate.hold] using hl
  simp [State.readVal, hst]

/-- Without the advances of its aclk an activation count reads as it stood at the edge. -/
theorem State.held_regVal_acts (n : Log) (x : Fin 4) (h : s.secure r = true) :
    (s.held false).regVal r (.trl n x .acts) = s.edge.lch[n].ins[x].acts := by
  simp only [State.regVal, State.held_secure, h, State.held_tin]
  simp [TIn.word, TIn.hold, rcSum]

/-- Without the advances of its aclk a takeover count reads as it stood at the edge. -/
theorem State.held_regVal_takeovers (x : Ter) : (s.held false).regVal r (.ter x .takeovers) = s.edge.ters[x].takeovers := by
  simp only [State.regVal, State.terWord, State.held_ters]
  rfl

/-! ## Reads -/

theorem exec_rcRead (hp : s.porN = true) : exec (.rcRead off r) s = .next (s.mgRead off r) := by
  show when s.porN s (s.mgRead off r) = _
  rw [hp]; rfl

theorem State.mgRead_refused (hm : s.mayRead r (regAt off) = false) :
    s.mgRead off r = { (s.denied r.dom (offOf off)) with mgRdata := 0 } := by
  simp [State.mgRead, hm]

/-- A read that clears nothing: the whole value, and the captures of a snapshot group. -/
theorem State.mgRead_keeps (hg : regAt off = some g) (hm : s.mayRead r (some g) = true) (hc : s.secure r = false ∨ s.gate.locked = false) :
    s.mgRead off r = { s.capture g with mgRdata := s.whole.readVal r g, free := if s.gate.st == .loading then s.free + 1 else s.free } := by
  have hclr : (s.secure r && s.gate.locked) = false := Bool.and_eq_false_iff.mpr hc
  simp [State.mgRead, hg, hm, hclr, State.whole]

/-- A read that clears RC fields: their value before this aclk. -/
theorem State.mgRead_clears (hg : regAt off = some g) (hm : s.mayRead r (some g) = true) (hs : s.secure r = true) (hk : s.gate.locked = true)
    (hl : s.gate.st ≠ .loading) :
    s.mgRead off r = { (s.capture g).rcClear g with mgRdata := BitVec.ofNat 32 ((s.held false).regVal r g), free := s.free } := by
  have hst : (s.gate.st == .loading) = false := by simpa using hl
  simp [State.mgRead, hg, hm, hs, hk, hst, State.held_readVal s g r false hl]

theorem State.capture_edge : (s.capture g).edge = s.edge := by
  unfold State.capture
  split
  · rfl
  · split <;> rfl
  · rfl
  · rfl

theorem State.capture_free : (s.capture g).free = s.free := by
  unfold State.capture
  split
  · rfl
  · split <;> rfl
  · rfl
  · rfl

/-- The fault counts of a page that is neither frozen nor under reset clear together. -/
theorem State.rcClear_fcnt (p : Phys) (o : Nat) (hr : s.hrstN = true) (hq : s.phys[p].st ≠ .quarantined) :
    s.rcClear (.chn p o .fcnt) = s.modE fun e => { e with phys := e.phys.set p { e.phys[p] with faults := 0, cringFails := 0 } } := by
  have hf : (s.phys[p].st == .quarantined || !s.hrstN) = false := by simpa [hr] using hq
  simp only [State.rcClear]
  rw [hf]; rfl

end Sys2Proof.Machine

namespace Sys2Proof.Machine

/-- Settles O19: the three outcomes of a read, with the fields that each listed register clears. -/
theorem rcReadsReturnAndClear : Obligations.RcReadsReturnAndClear := by
  refine ⟨fun s off r g hp hg hm => ⟨_, exec_rcRead s off r hp, ?_, ?_⟩, fun s off r hp hm => ⟨_, exec_rcRead s off r hp, ?_⟩⟩
  · intro hc
    rw [s.mgRead_keeps off g r hg hm hc]
    refine ⟨rfl, s.capture_edge g, fun hl => ⟨s.held_readVal g r true hl, ?_⟩⟩
    have hst : (s.gate.st == .loading) = false := by simpa using hl
    have hf : (if s.gate.st == .loading then s.free + 1 else s.free) = (s.capture g).free := by rw [hst, s.capture_free]; rfl
    rw [hf]
  · intro hs hk hl
    rw [s.mgRead_clears off g r hg hm hs hk hl]
    refine ⟨rfl, ?_, ?_, ?_, ?_, ?_, ?_, ?_, ?_⟩
    · rintro rfl; rfl
    · rintro rfl; rfl
    · rintro rfl; rfl
    · rintro rfl; rfl
    · rintro rfl; rfl
    · rintro n x rfl
      refine ⟨?_, rfl, ?_⟩
      · simp [State.capture, State.rcClear, State.modEI, State.modE]
      · rw [s.held_regVal_acts r n x hs]
    · rintro x rfl
      refine ⟨?_, rfl, ?_⟩
      · simp [State.capture, State.rcClear, State.modET, State.modE]
      · rw [s.held_regVal_takeovers r x]
    · rintro p o rfl hr hq
      have hclr := s.rcClear_fcnt p o hr hq
      refine ⟨?_, ?_⟩
      · simp only [State.capture, hclr]
        simp [State.modE]
      · simp only [State.capture, hclr]; rfl
  · rw [s.mgRead_refused off r hm]
    exact ⟨rfl, rfl, rfl, rfl, rfl, rfl⟩

end Sys2Proof.Machine
end

section
/-! SUPPORT. What a management write does, for each kind of register (R10, R11, R560, R681): W1C, read-only and RWL, with what a refusal leaves alone. -/

namespace Sys2Proof.Machine

variable (s : State) (off : BitVec 20) (g : Reg) (v : Word) (r : Rqr)

/-! ## Posting keeps LDG_CFG -/

theorem State.ledgerTake_irqEn : s.ledgerTake.ldg.irqEn = s.ldg.irqEn := by
  unfold State.ledgerTake
  split
  · split
    · dsimp only; split <;> rfl
    · rfl
  · rfl

theorem Ldg.enqueue_irqEn (l : Ldg) (now : Nat) (rs : List LRec) : (l.enqueue now rs).irqEn = l.irqEn := by
  unfold Ldg.enqueue; dsimp only; split <;> simp only

theorem State.ledgerLose_irqEn (kind plane k : Nat) : (s.ledgerLose kind plane k).ldg.irqEn = s.ldg.irqEn := rfl

/-- Stated for any queue and LSEQ, so that the kernel compares no arithmetic modulo 2 ^ 64. -/
theorem Ldg.setQueue_irqEn (l : Ldg) (q : List LRec) (n : Nat) : ({ l with queue := q, next := n } : Ldg).irqEn = l.irqEn := rfl

theorem Ldg.cut_irqEn (l : Ldg) (k : Nat) : (l.cut k).irqEn = l.irqEn := l.setQueue_irqEn _ _

theorem State.makeRoom_irqEn (plane need fuel : Nat) : (s.makeRoom plane need fuel).ldg.irqEn = s.ldg.irqEn := by
  induction fuel generalizing s with
  | zero => rfl
  | succ k ih =>
    unfold State.makeRoom
    split
    · rfl
    · split
      · rfl
      · dsimp only
        rw [ih, State.ledgerLose_irqEn, Ldg.cut_irqEn]

theorem State.postAll_irqEn (rs : List LRec) : (s.postAll rs).ldg.irqEn = s.ldg.irqEn := by
  unfold State.postAll
  dsimp only
  split
  · rfl
  · rw [State.ledgerTake_irqEn]
    exact (Ldg.enqueue_irqEn _ _ _).trans (s.makeRoom_irqEn _ _ _)

/-! ## Refused writes -/

/-- A write refused with LOCKED_WRITE touches the GLB registers and, under ISOLATED after lock, the ledger's queue. -/
theorem State.refuseLocked_frame : ∃ w, s.refuseLocked off r = { s with
    gate := { s.gate with lockedWrite := true, wrlast := w }, ldg := (s.refuseLocked off r).ldg } := by
  refine ⟨offOf off + 2 ^ 20 * r.dom.val + 2 ^ 24 * b2n r.sec + 2 ^ 25, ?_⟩
  unfold State.refuseLocked
  dsimp only
  split
  · rw [State.post_frame]; rfl
  · rfl

theorem State.refuseLocked_irqEn : (s.refuseLocked off r).ldg.irqEn = s.ldg.irqEn := by
  unfold State.refuseLocked
  dsimp only
  split
  · exact State.postAll_irqEn _ _
  · rfl

/-- Before lock nothing is recorded. -/
theorem State.refuseLocked_ldg (hk : s.gate.locked = false) : (s.refuseLocked off r).ldg = s.ldg := by
  simp [State.refuseLocked, hk, State.wrlast]

/-! ## What a register does with a write -/

theorem State.rwl_refused (ok : Bool) (t : State) (h : s.gate.locked = true ∨ s.gate.st ≠ .failed) : s.rwl off r ok t = s.refuseLocked off r := by
  unfold State.rwl
  rcases h with h | h <;> simp [h]

theorem State.rwl_failed (ok : Bool) (t : State) (hk : s.gate.locked = false) (hf : s.gate.st = .failed) (hs : s.secure r = true) :
    s.rwl off r ok t = if ok then t else s.refuseLocked off r := by
  simp [State.rwl, hk, hf, hs]

/-- A secure write to a register without a field that takes writes. -/
theorem State.regWrite_ro (h : isRo g = true) : s.regWrite off g v r = s.readOnly off r := by
  revert h
  unfold isRo
  split
  case h_14 => nofun
  all_goals exact fun _ => rfl

/-- Outside FAILED a write to an RWL register is refused. -/
theorem State.regWrite_rwl (h : isRwl g = true) (hs : s.gate.locked = true ∨ s.gate.st ≠ .failed) :
    s.regWrite off g v r = s.refuseLocked off r := by
  revert h
  unfold isRwl
  split
  case h_6 => nofun
  all_goals exact fun _ => s.rwl_refused off r _ _ hs

theorem vbits_extract (hi : Nat) : vbits v hi 0 = (v.extractLsb' 0 (hi + 1)).toNat := by
  simp [vbits, bits]

/-- HPT_CFG in FAILED takes a lease from 16 to 512 and refuses any other (R363). -/
theorem State.regWrite_hptCfg_failed (hk : s.gate.locked = false) (hf : s.gate.st = .failed) (hs : s.secure r = true) :
    s.regWrite off .hptCfg v r = if 16 ≤ (v.extractLsb' 0 10).toNat ∧ (v.extractLsb' 0 10).toNat ≤ 512
      then { s with hpt := { s.hpt with lease := (v.extractLsb' 0 10).toNat } } else s.refuseLocked off r := by
  simp only [State.regWrite, s.rwl_failed off r _ _ hk hf hs, vbits_extract v 9, Bool.and_eq_true, decide_eq_true_eq]

/-! ## The commands -/

theorem regAt_glbStatus : regAt 0x8 = some .glbStatus := by decide
theorem regAt_sunStatus : regAt 0x3004 = some .sunStatus := by decide
theorem regAt_hptCfg : regAt 0x4000 = some .hptCfg := by decide


theorem State.mgSecure_iff : s.mgSecure r = true ↔ s.porN = true ∧ s.secure r = true := by
  simp [State.mgSecure]

/-- A secure write to a mapped register goes to that register. -/
theorem State.mgWrite_secure (hs : s.secure r = true) (hg : regAt off = some g) : s.mgWrite off v r = s.regWrite off g v r := by
  simp [State.mgWrite, State.gated, hs, hg]

theorem exec_registerWrite (h : s.mgSecure r = true) (hg : regAt off = some g) :
    exec (.registerWrite off v r) s = .next (s.regWrite off g v r) := by
  obtain ⟨hp, hs⟩ := (s.mgSecure_iff r).mp h
  show when s.porN s (s.mgWrite off v r) = _
  rw [hp, s.mgWrite_secure off g v r hs hg]; rfl

/-- In FAILED the two commands are one write. -/
theorem exec_rwlWriteFailed (h : s.mgSecure r = true) (hf : s.gate.st = .failed) (hg : regAt off = some g) :
    exec (.rwlWriteFailed off v r) s = .next (s.regWrite off g v r) := by
  obtain ⟨hp, hs⟩ := (s.mgSecure_iff r).mp h
  show when (s.porN && s.gate.st == .failed) s (s.mgWrite off v r) = _
  rw [hp, hf, s.mgWrite_secure off g v r hs hg]; rfl

theorem State.secureOnly_secure (t : State) (hs : s.secure r = true) : s.secureOnly off r t = t := by
  simp [State.secureOnly, hs]

end Sys2Proof.Machine

namespace Sys2Proof.Machine

/-- GLB_STATUS: software's clear acts on the part that stood at the edge alone (R11). -/
theorem State.regWrite_glbStatus (s : State) (off : BitVec 20) (v : Word) (r : Rqr) (hs : s.secure r = true) :
    s.regWrite off .glbStatus v r = { s with edge := { s.edge with gate := { s.edge.gate with
      lockedWrite := s.edge.gate.lockedWrite && !v.getLsbD 1, denied := s.edge.gate.denied && !v.getLsbD 2
      unmapped := s.edge.gate.unmapped && !v.getLsbD 3 } } } := s.secureOnly_secure off r _ hs

theorem State.regWrite_sunStatus (s : State) (off : BitVec 20) (v : Word) (r : Rqr) (hs : s.secure r = true) :
    s.regWrite off .sunStatus v r = { s with edge := { s.edge with sun := { s.edge.sun with
      miss := s.edge.sun.miss && !v.getLsbD 0, strideBound := s.edge.sun.strideBound && !v.getLsbD 1 } } } := s.secureOnly_secure off r _ hs

/-- A write to a read-only register after lock is refused by the rule of the plane mode (R47, R681). -/
theorem State.readOnly_locked (s : State) (off : BitVec 20) (r : Rqr) (hk : s.gate.locked = true) :
    s.readOnly off r = if s.gate.mode then s.refuseDenied off r else s.refuseLocked off r := by
  cases hm : s.gate.mode <;> simp [State.readOnly, State.refuseWrite, hk, hm]

/-- Settles O21: W1C, read-only and RWL registers each by the equation of their write. -/
theorem registerWritesFollowTheirType : Obligations.RegisterWritesFollowTheirType := by
  refine ⟨fun s v r h => ?_, fun s v r h => ?_, fun s off g v r h hg hro => ⟨fun hk => ?_, fun hk => ?_⟩,
    fun s off g v r h hg hrwl hst => ⟨_, exec_registerWrite s off g v r h hg, ?_⟩, fun s v r c h hk hf hc => ?_⟩
  · have hw : exec (.registerWrite 0x8 v r) s = _ := exec_registerWrite s 0x8 .glbStatus v r h regAt_glbStatus
    rw [s.regWrite_glbStatus _ v r ((s.mgSecure_iff r).mp h).2] at hw
    exact ⟨hw, fun hset => ⟨_, hw, by simp [State.whole, State.held, Gate.hold, hset]⟩⟩
  · rw [exec_registerWrite s 0x3004 .sunStatus v r h regAt_sunStatus, s.regWrite_sunStatus _ v r ((s.mgSecure_iff r).mp h).2]
  · rw [exec_registerWrite s off g v r h hg, s.regWrite_ro off g v r hro]
    simp [State.readOnly, hk]
  · refine ⟨_, exec_registerWrite s off g v r h hg, ?_⟩
    rw [s.regWrite_ro off g v r hro, s.readOnly_locked off r hk]
    cases hm : s.gate.mode with
    | true => exact ⟨fun _ => ⟨rfl, rfl⟩, nofun, rfl, rfl, rfl, rfl, rfl, rfl, rfl⟩
    | false =>
      obtain ⟨w, hw⟩ := s.refuseLocked_frame off r
      rw [if_neg (by decide), hw]
      exact ⟨nofun, fun _ => rfl, rfl, rfl, rfl, rfl, rfl, rfl, rfl⟩
  · obtain ⟨w, hw⟩ := s.refuseLocked_frame off r
    have hirq := s.refuseLocked_irqEn off r
    rw [s.regWrite_rwl off g v r hrwl hst]
    rw [hw] at hirq ⊢
    exact ⟨rfl, hirq, rfl, rfl, rfl, rfl, rfl, rfl⟩
  · have hs := ((s.mgSecure_iff r).mp h).2
    have hx : exec c s = .next (s.regWrite 0x4000 .hptCfg v r) := by
      rcases hc with rfl | rfl
      · exact exec_rwlWriteFailed s 0x4000 .hptCfg v r h hf regAt_hptCfg
      · exact exec_registerWrite s 0x4000 .hptCfg v r h regAt_hptCfg
    rw [hx, s.regWrite_hptCfg_failed _ v r hk hf hs]
    refine ⟨fun hlo hhi => by rw [if_pos ⟨hlo, hhi⟩], fun hout => ⟨_, rfl, ?_⟩⟩
    rw [if_neg (by omega)]
    obtain ⟨w, hw⟩ := s.refuseLocked_frame 0x4000 r
    have hldg := s.refuseLocked_ldg 0x4000 r hk
    rw [hw] at hldg ⊢
    exact ⟨rfl, rfl, hldg, rfl, rfl⟩

end Sys2Proof.Machine
end

section
/-! SUPPORT. What one aclk by itself leaves alone (R11, R683, R684): its counts and its log write leave the fields that the edge reads, and what follows the edge leaves the pins, the clocks and the edge itself. -/

namespace Sys2Proof.Machine

/-! ## Before the edge -/

/-- What the log write, the streaming and the counts of an aclk may change: the ledger, the loader, the interface to the NVM, the terraces, and of a channel anything but its page. -/
structure Counted (s t : State) : Prop where
  state : t = { s with ldg := t.ldg, svc := t.svc, ters := t.ters, phys := t.phys, nvmOut := t.nvmOut, spiOut := t.spiOut }
  page : ∀ p : Phys, t.phys[p].c = s.phys[p].c

theorem Counted.refl (s : State) : Counted s s := ⟨rfl, fun _ => rfl⟩

theorem Counted.trans {s t u : State} (h : Counted s t) (k : Counted t u) : Counted s u :=
  ⟨by rw [k.state, h.state], fun p => (k.page p).trans (h.page p)⟩

theorem Counted.foldl {α : Type} (f : State → α → State) (hf : ∀ s a, Counted s (f s a)) (l : List α) (s : State) : Counted s (l.foldl f s) := by
  induction l generalizing s with
  | nil => exact .refl s
  | cons a l ih => exact (hf s a).trans (ih _)

theorem Counted.modP (s : State) (p : Phys) (f : PCh → PCh) (hf : ∀ c, (f c).c = c.c) : Counted s (s.modP p f) := by
  refine ⟨rfl, fun r => ?_⟩
  rw [State.modP_phys]
  split
  · next h => subst h; exact hf _
  · rfl

theorem Counted.modT (s : State) (t : Ter) (f : TerSt → TerSt) : Counted s (s.modT t f) := ⟨rfl, fun _ => rfl⟩

theorem Counted.logWrite (s : State) : Counted s s.logWrite := by
  unfold State.logWrite
  split
  · split
    · exact .refl s
    · exact ⟨rfl, fun _ => rfl⟩
  · exact .refl s

theorem Counted.svcStream (s : State) : Counted s s.svcStream := by
  unfold State.svcStream State.svcChunk
  split
  · split
    · exact ⟨rfl, fun _ => rfl⟩
    · exact .refl s
  · exact .refl s

theorem Counted.countQuiet (s : State) (p : Phys) : Counted s (s.countQuiet p) := by
  unfold State.countQuiet
  dsimp only
  split
  · split
    · exact .modP s p _ fun _ => rfl
    · exact .refl s
  · split
    · exact .refl s
    · exact .modP s p _ fun _ => rfl

theorem Counted.countAsleep (s : State) (t : Ter) : Counted s (s.countAsleep t) := by
  unfold State.countAsleep
  dsimp only
  split
  · split
    · exact .refl s
    · exact .modT s t _
  · split
    · exact .refl s
    · exact .modT s t _

/-! ## After the edge -/

/-- The pins, the clocks, the edge and the commands: what no event that an aclk brings by itself touches once the edge has passed. -/
def State.steady (s : State) : Bool × Bool × Bool × Nat × Nat × Edge × Tap × Word × BitVec 4 × List Instr :=
  (s.porN, s.hrstN, s.vddCore, s.aclk, s.hclk, s.edge, s.tap, s.mgRdata, s.irq, s.pending)

variable (s : State)

/-! ### Updates -/

@[simp] theorem State.modP_steady (p : Phys) (f : PCh → PCh) : (s.modP p f).steady = s.steady := rfl
@[simp] theorem State.modL_steady (n : Log) (f : LCh → LCh) : (s.modL n f).steady = s.steady := rfl
@[simp] theorem State.modQ_steady (n : Log) (q : Qn) (f : Que → Que) : (s.modQ n q f).steady = s.steady := rfl
@[simp] theorem State.modS_steady (sl : SliceN) (f : Slice → Slice) : (s.modS sl f).steady = s.steady := rfl
@[simp] theorem State.modT_steady (t : Ter) (f : TerSt → TerSt) : (s.modT t f).steady = s.steady := rfl

/-- The ledger and what the data path moves are none of the steady fields. -/
theorem State.data_steady (ldg : Ldg) (lch : Vector LCh 128) (doms : Vector DomSt 16) (rf : RfSt) (out : List (Log × Pkt)) (slices : Vector Slice 16)
    (phys : Vector PCh 136) : ({ s with ldg, lch, doms, rf, linkOut := out, slices, phys } : State).steady = s.steady := rfl

theorem State.foldl_steady {α : Type} (f : State → α → State) (hf : ∀ s a, (f s a).steady = s.steady) (l : List α) (s : State) :
    (l.foldl f s).steady = s.steady := by
  induction l generalizing s with
  | nil => rfl
  | cons a l ih => exact (ih _).trans (hf s a)

@[simp] theorem State.post_steady (kind plane src : Nat) (arg : List Byte) (q : Nat) : (s.post kind plane src arg q).steady = s.steady := by
  rw [State.post_frame]
  exact s.data_steady _ _ _ _ _ _ _

@[simp] theorem State.flow_steady (n : Log) (q : Qn) : (s.flow n q).steady = s.steady := by
  rw [(FlowFrame.flow n q s).state]
  exact s.data_steady _ _ _ _ _ _ _

/-! ### Counts, RESUMEs and wakes -/

theorem State.countStop_steady (t : Ter) : (s.countStop t).steady = s.steady := by
  unfold State.countStop; split <;> simp

@[simp] theorem State.release_steady (n : Log) (q : Qn) (run : Bool) (dg pdg : Nat) : (s.release n q run dg pdg).steady = s.steady := by
  unfold State.release; split <;> rfl

theorem State.linkErr_steady (n : Log) (p : Phys) (k count : Nat) : (s.linkErr n p k count).steady = s.steady := rfl

theorem State.resumed_steady (n : Log) (p : Phys) (q : Qn) (seq : Nat) (mode : RMode) : (s.resumed n p q seq mode).steady = s.steady := by
  unfold State.resumed
  dsimp only
  split
  · simp
  · exact s.linkErr_steady n p 10 1

theorem State.resumes_steady (n : Log) : (s.resumes n).steady = s.steady := by
  unfold State.resumes
  dsimp only
  split
  · rfl
  · split
    · rw [State.foldl_steady _ fun s _ => s.resumed_steady n _ _ _ _, State.modL_steady]
    · simp

theorem State.beginWake_steady (p : Phys) : (s.beginWake p).steady = s.steady := rfl

theorem State.latchedWake_steady (p : Phys) : (s.latchedWake p).steady = s.steady := by
  unfold State.latchedWake
  dsimp only
  split
  · exact s.beginWake_steady p
  · rfl

/-! ### Declarations of death -/

@[simp] theorem State.rewriteJ_steady : s.rewriteJ.steady = s.steady := by simp only [State.rewriteJ, State.steady]
@[simp] theorem State.restoreL_steady (n : Log) : (s.restoreL n).steady = s.steady := rfl
@[simp] theorem State.quarantine_steady (p : Phys) : (s.quarantine p).steady = s.steady := by
  simp [State.quarantine, State.steady]
@[simp] theorem State.noteDeath_steady (p : Phys) (n old new cause : Nat) (res : Bool) : (s.noteDeath p n old new cause res).steady = s.steady := rfl
@[simp] theorem State.svcEnd_steady (t : Ter) (ok : Bool) (result : Nat) : (s.svcEnd t ok result).steady = s.steady := rfl

@[simp] theorem State.svcLost_steady (n : Log) (result : Nat) : (s.svcLost n result).steady = s.steady := by
  unfold State.svcLost
  split
  · dsimp only
    split
    · split <;> simp
    · rfl
  · rfl

theorem State.unmap_steady (n : Log) : ({ s with map := s.map.set n none } : State).steady = s.steady := rfl

@[simp] theorem State.unserve_steady (n : Log) (p : Nat) : (s.unserve n p).steady = s.steady := by
  unfold State.unserve
  simp [State.unmap_steady]

theorem State.declareReserve_steady (p : Phys) (cause : Nat) : (s.declareReserve p cause).steady = s.steady := by
  unfold State.declareReserve
  dsimp only
  split
  · split <;> simp
  · simp

@[simp] theorem State.undoQs_steady (n : Log) (o : PreOut) : (s.undoQs n o).steady = s.steady := by
  unfold State.undoQs
  exact State.foldl_steady _ (fun s _ => s.modQ_steady n _ _) _ s

@[simp] theorem State.unQctl_steady (n : Log) : (s.unQctl n).steady = s.steady := by
  unfold State.unQctl; split <;> simp

theorem State.unOut_steady (n : Log) : (s.unOut n).steady = s.steady := by
  unfold State.unOut
  split
  · rfl
  · dsimp only
    split <;> simp

theorem State.unReturn_steady (n : Log) : (s.unReturn n).steady = s.steady := by
  unfold State.unReturn; split <;> simp

theorem State.setInc_steady (n : Log) (i : Nat) : ({ s with fence := s.fence.set n i } : State).steady = s.steady := rfl

theorem State.unReset_steady (p : Phys) (n : Log) : (s.unReset p n).steady = s.steady := by
  unfold State.unReset
  split
  · rfl
  · simp [State.setInc_steady]

theorem State.setFree_steady (k : Nat) : ({ s with free := k } : State).steady = s.steady := rfl

@[simp] theorem State.svcTaken_steady (p : Phys) (n : Log) : (s.svcTaken p n).steady = s.steady := by
  unfold State.svcTaken
  dsimp only
  split
  · rw [State.post_steady, State.setFree_steady, State.modT_steady]
    unfold State.over
    rw [State.foldl_steady _ fun s _ => s.unReturn_steady _, State.foldl_steady _ fun s _ => s.modL_steady _ _, State.modP_steady]
  · split
    · rfl
    · split
      · rw [State.post_steady, State.setFree_steady, State.modT_steady, State.foldl_steady _ fun s _ => s.unOut_steady _]
      · split
        · rw [State.post_steady, State.setFree_steady, State.modT_steady, State.unReset_steady]
        · rfl

theorem State.drainReq_steady (n : Log) (q : Qn) : (s.drainReq n q).steady = s.steady := by
  unfold State.drainReq
  dsimp only
  split
  · rfl
  · split <;> rfl
  · rfl
  · rfl

@[simp] theorem State.channelDrain_steady (n : Log) : (s.channelDrain n).steady = s.steady := by
  unfold State.channelDrain
  rw [State.modL_steady, State.foldl_steady]
  intro s q
  dsimp only
  rw [State.drainReq_steady, State.modQ_steady]

theorem State.setLbreak_steady (k : Nat) : ({ s with hpt := { s.hpt with lbreak := k } } : State).steady = s.steady := rfl

theorem State.lockBreak_steady (sl : SliceN) (cause : Nat) : (s.lockBreak sl cause).steady = s.steady := by
  unfold State.lockBreak
  dsimp only
  split
  · rw [State.post_steady, State.setLbreak_steady, State.modS_steady]
  · rfl

@[simp] theorem State.fenceEdge_steady (n : Log) (p : Phys) : (s.fenceEdge n p).steady = s.steady := by
  unfold State.fenceEdge State.over
  dsimp only
  rw [State.foldl_steady]
  · split <;> simp [State.fenceDrained, State.setInc_steady]
  · intro s sl
    split
    · exact s.lockBreak_steady sl 1
    · rfl

theorem State.declareServing_steady (p : Phys) (n : Log) (cause : Nat) : (s.declareServing p n cause).steady = s.steady := by
  unfold State.declareServing
  dsimp only
  rw [State.fenceEdge_steady]
  split <;> simp [apply_ite State.steady]

theorem State.declare_steady (p : Phys) (cause : Nat) : (s.declare p cause).steady = s.steady := by
  unfold State.declare
  dsimp only
  split
  · exact s.declareReserve_steady p cause
  · split
    · split
      · exact s.declareServing_steady p _ cause
      · rfl
    · rfl

theorem State.declareAll_steady (l : List (Phys × Nat)) : (s.declareAll l).steady = s.steady := by
  unfold State.declareAll
  exact State.foldl_steady _ (fun s _ => s.declare_steady _ _) _ s

/-! ## The aclk -/

/-- What an aclk does before its edge: the log write, the streaming of a service image, and the counts of quiet and sleep. -/
def State.counts : State :=
  (fins 8).foldl (fun (t : State) x => t.countAsleep x) ((fins 136).foldl (fun (t : State) p => t.countQuiet p) s.logWrite.svcStream)

/-- The edge to aclk `now`: what came joins what stood before, and the interrupt outputs take the sources `src` (R11, R683). -/
def State.edgePass (now : Nat) (src : BitVec 4) : State := { s.latch with aclk := now, irq := src }

/-- What an aclk does after its edge: the end of a frame, RESUMEs and wakes that waited, and reports. -/
def State.follow : State :=
  let t : State := if s.aclk % 100 = 0 then (fins 8).foldl (fun (t : State) x => t.countStop x) s else s
  let t := (fins 128).foldl (fun (t : State) n => t.resumes n) t
  let t := (fins 136).foldl (fun (t : State) p => t.latchedWake p) t
  t.reports.rewriteJ

theorem State.tick_reset (hp : s.porN = false) : s.tick = s := by
  unfold State.tick; rw [hp]; rfl

/-- One aclk is the counts, the edge, and what follows it. -/
theorem State.tick_eq (hp : s.porN = true) : s.tick = (s.counts.edgePass (s.aclk + 1) s.whole.sources).follow := by
  unfold State.tick; rw [hp]; rfl

theorem State.counts_counted : Counted s s.counts := by
  have hlog : Counted s s.logWrite.svcStream := (Counted.logWrite s).trans (.svcStream _)
  have hquiet := Counted.foldl (fun (t : State) p => t.countQuiet p) Counted.countQuiet (fins 136) s.logWrite.svcStream
  exact (hlog.trans hquiet).trans (.foldl _ Counted.countAsleep _ _)

theorem State.follow_steady : s.follow.steady = s.steady := by
  unfold State.follow State.reports
  dsimp only
  rw [State.rewriteJ_steady, State.declareAll_steady, State.foldl_steady _ State.latchedWake_steady, State.foldl_steady _ State.resumes_steady]
  split
  · exact State.foldl_steady _ State.countStop_steady _ s
  · rfl

theorem State.latch_page (p : Phys) : s.latch.edge.phys[p] = s.whole.phys[p].c := by
  simp [State.latch]

theorem State.whole_page (p : Phys) : s.whole.phys[p].c = s.edge.phys[p].hold true s.phys[p].c := by
  simp [State.whole, State.held]

/-- The counts before an edge leave the pages as software sees them. -/
theorem Counted.whole_page {s t : State} (h : Counted s t) (p : Phys) : t.whole.phys[p].c = s.whole.phys[p].c := by
  have hedge : t.edge = s.edge := by rw [h.state]
  rw [State.whole_page, State.whole_page, h.page, hedge]

/-- Settles O2: the counts before the edge leave what the edge reads, and what follows it leaves the edge. -/
theorem idleStepPassesOneAclk : Obligations.IdleStepPassesOneAclk := by
  intro s hpend
  have hstep : step s = .next s.tick := by unfold step; rw [hpend]
  refine ⟨fun hp => by rw [hstep, s.tick_reset hp], fun hp => ⟨_, hstep, ?_⟩⟩
  have hc := s.counts_counted
  have hs : s.tick.steady = (s.counts.edgePass (s.aclk + 1) s.whole.sources).steady := by rw [s.tick_eq hp, State.follow_steady]
  generalize s.counts = u at hc hs
  simp only [State.steady, Prod.mk.injEq] at hs
  obtain ⟨hpor, hhrst, hvdd, haclk, hhclk, hedge, htap, hmg, hirq, hpending⟩ := hs
  have kept {α : Type} (f : State → α) := congrArg f hc.state
  rw [hedge]
  exact ⟨haclk, hirq, hpending.trans ((kept State.pending).trans hpend), hpor.trans (kept State.porN), hhrst.trans (kept State.hrstN),
    hvdd.trans (kept State.vddCore), hhclk.trans (kept State.hclk), htap.trans (kept State.tap), hmg.trans (kept State.mgRdata),
    kept fun t => t.whole.gate, kept fun t => t.whole.sun, kept fun t => t.whole.arb, kept fun t => t.whole.hpt,
    fun p => (u.latch_page p).trans (hc.whole_page p), fun d => kept fun t => t.whole.doms[d]⟩

end Sys2Proof.Machine
end

section
/-! SUPPORT. The map's invariant alone is not kept by every step (R28, R30, R33, R49): a declaration of death puts back what an OUT of its aclk noted, and the invariant does not bound that note. -/

namespace Sys2Proof.Machine

/-- Logical channels 0 and 1 are served by running channels 0 and 1. An OUT of this aclk names both, channel 0 has missed two pulses, and the OUT's note at logical channel 1 says that
it found a reserve there. No OUT writes such a note, but the map's invariant does not say so. -/
def wOutNote : State :=
  { State.reset with
    porN := true, hrstN := true, aclk := 16, gate := { State.reset.gate with locked := true }
    map := ((Vector.replicate 128 none).set 0 (some 0)).set 1 (some 1)
    ters := (Vector.replicate 8 {}).set 0 { cmd := some { op := 1, all := true, logs := [0, 1], phys := 0, at_ := 16 } }
    phys := ((Vector.replicate 136 {}).set 0 { st := .active, missed := 2 }).set 1 { st := .active }
    lch := (Vector.replicate 128 {}).set 1 { preOut := some ⟨16, .reserve, []⟩ }
    pending := [.livenessPeriod [0] 0] }

theorem wOutNote_map : ∀ n : Log, wOutNote.map[n] = if n = 0 then some 0 else if n = 1 then some 1 else none := by decide +kernel
theorem wOutNote_ters : ∀ t : Ter, wOutNote.ters[t].reserve = none ∧ wOutNote.ters[t].tko = none := by decide
theorem wOutNote_phys : ∀ p : Phys, wOutNote.phys[p].st ≠ .quarantined ∧ wOutNote.phys[p].st ≠ .reserve := by decide +kernel

theorem wOutNote_spared : wOutNote.spared := by
  have served {n : Log} {p : Phys} (h : wOutNote.map[n] = some p) : n = 0 ∧ p = 0 ∨ n = 1 ∧ p = 1 := by
    rw [wOutNote_map] at h
    split at h
    · next e => exact .inl ⟨e, (Option.some.inj h).symm⟩
    · split at h
      · next e => exact .inr ⟨e, (Option.some.inj h).symm⟩
      · cases h
  have noReserve {t : Ter} {p : Phys} : wOutNote.ters[t].reserve ≠ some p := by rw [(wOutNote_ters t).1]; nofun
  have noTko {t : Ter} {k : Tko} : wOutNote.ters[t].tko ≠ some k := by rw [(wOutNote_ters t).2]; nofun
  refine ⟨⟨fun n p h => ?_, fun _ _ h => absurd h noReserve, fun _ _ h => absurd h noTko⟩, fun m n p h k => ?_, fun _ _ h => absurd h noReserve,
    fun _ _ h => absurd h noTko, fun p _ h => absurd h (wOutNote_phys p).1, fun p _ h => absurd h (wOutNote_phys p).2, fun t _ => (wOutNote_ters t).1⟩
  · obtain ⟨rfl, rfl⟩ | ⟨rfl, rfl⟩ := served h <;> rfl
  · obtain ⟨rfl, rfl⟩ | ⟨rfl, rfl⟩ := served h <;> obtain ⟨rfl, e⟩ | ⟨rfl, e⟩ := served k
    · rfl
    · exact absurd e (by decide)
    · exact absurd e (by decide)
    · rfl

/-- The block after the third missed pulse of channel 0. -/
def wOutNoteDies : State := match step wOutNote with
  | .next t => t
  | .fault _ | .refused _ => wOutNote

theorem wOutNote_step : step wOutNote = .next wOutNoteDies := rfl

/-- Channel 1 still serves logical channel 1, and its state is what the note said. -/
theorem wOutNoteDies_reserve_serves : wOutNoteDies.phys[(1 : Phys)].st = .reserve ∧ wOutNoteDies.map[(1 : Log)] = some 1 := by decide +kernel

/-- Refutes O5: a death that undoes the OUT of its aclk gives a mapped channel the state that the OUT's note holds, here RESERVE, and `spared` does not bound the notes. -/
theorem not_sparedKeptByEveryStep : ¬ Obligations.SparedKeptByEveryStep := by
  intro h
  have hscan : ∀ c rest, wOutNote.pending = c :: rest → isScan c = false := by
    intro c rest e
    obtain ⟨rfl, -⟩ := List.cons.inj (e.symm.trans (rfl : wOutNote.pending = [.livenessPeriod [0] 0]))
    rfl
  obtain ⟨-, -, -, -, -, hreserve, -⟩ := h wOutNote wOutNoteDies wOutNote_spared hscan wOutNote_step
  exact hreserve 1 1 wOutNoteDies_reserve_serves.1 wOutNoteDies_reserve_serves.2

end Sys2Proof.Machine
end

section
/-! SUPPORT. The slice hash (R41). -/

namespace Sys2Proof.Machine

/-- The slice of an address is the exclusive or of its bits 11 to 8 and 19 to 16. -/
theorem sliceOf_val (a : Nat) : (sliceOf a).val = a / 256 % 16 ^^^ a / 65536 % 16 := by
  have h : a / 256 % 16 ^^^ a / 65536 % 16 < 16 := Nat.xor_lt_two_pow (n := 4) (Nat.mod_lt _ (by decide)) (Nat.mod_lt _ (by decide))
  exact Nat.mod_eq_of_lt h

/-- Block `i` of the `k`-th 4 KiB range: only the upper bits depend on the range. -/
theorem sliceOf_block (k i : Nat) (hi : i < 16) : (sliceOf (4096 * k + 256 * i)).val = i ^^^ k / 16 % 16 := by
  rw [sliceOf_val, show (4096 * k + 256 * i) / 256 % 16 = i by omega, show (4096 * k + 256 * i) / 65536 = k / 16 by omega]

/-- Settles O49: in one range the upper bits are the same, and the exclusive or with them is injective. -/
theorem sliceHashSpreadsBlocks : Obligations.SliceHashSpreadsBlocks := by
  refine ⟨sliceOf_val, fun k i j hi hj h => ?_⟩
  have hx := congrArg Fin.val h
  rw [sliceOf_block k i hi, sliceOf_block k j hj] at hx
  exact Nat.xor_left_injective hx

end Sys2Proof.Machine
end

section
/-! SUPPORT. The reset state (R29, R141, R558, R667). -/

namespace Sys2Proof.Machine

/-! ## The map and the reserves -/

theorem reset_map (n : Log) : State.reset.map[n] = some (Fin.ofNat 136 (17 * (n.val / 16) + n.val % 16)) := by
  simp [State.reset, mapReset]

theorem reset_reserve (t : Ter) : State.reset.ters[t].reserve = some (physAt t 16) := by
  revert t; decide

theorem reset_idle (t : Ter) : State.reset.ters[t].tko = none ∧ State.reset.ters[t].cmd = none := by
  revert t; decide

/-- The place of logical channel `n` at reset lies in its terrace, before the reserve. -/
theorem reset_place (n : Log) : (Fin.ofNat 136 (17 * (n.val / 16) + n.val % 16)).val = 17 * (n.val / 16) + n.val % 16 := by
  simp; omega

theorem reset_serves {n : Log} {p : Phys} (h : State.reset.map[n] = some p) : p.val = 17 * (n.val / 16) + n.val % 16 := by
  rw [reset_map] at h
  rw [← Option.some.inj h, reset_place]

/-! ## Channels and queues -/

theorem reset_phys (p : Phys) : State.reset.phys[p] = {} := by simp [State.reset]
theorem reset_que (n : Log) (q : Qn) : State.reset.que n q = {} := by simp [State.reset, State.que]
theorem reset_inc (n : Log) : State.reset.inc n = 0 := by simp [State.reset, State.inc]

theorem reset_local : State.reset.local := by
  refine ⟨fun n p h => ?_, fun t p h => ?_, fun t k h => ?_⟩
  · have := reset_serves h
    simp only [terP, terL, Fin.mk.injEq]; omega
  · rw [reset_reserve] at h
    obtain rfl := Option.some.inj h
    simp only [terP, physAt]; ext; simp; omega
  · rw [(reset_idle t).1] at h; cases h

theorem reset_exclusive : State.reset.exclusive := by
  refine ⟨fun m n p hm hn => ?_, fun t p ht n hn => ?_, fun t k h => ?_, fun p n h => ?_, fun p n h => ?_, fun t h => ?_⟩
  · have := reset_serves hm; have := reset_serves hn
    ext; omega
  · have := reset_serves hn
    rw [reset_reserve] at ht
    obtain rfl := Option.some.inj ht
    simp only [physAt] at this; simp at this; omega
  · rw [(reset_idle t).1] at h; cases h
  · rw [reset_phys] at h; cases h
  · rw [reset_phys] at h; cases h
  · rw [(reset_idle t).2] at h; cases h

/-- Settles O4: the reset state by its definition, and the invariants from the arithmetic of the map. -/
theorem resetStateHolds : Obligations.ResetStateHolds := by
  refine ⟨fun n => ⟨_, reset_map n, reset_place n⟩, fun t => ⟨_, reset_reserve t, rfl⟩, fun p => by rw [reset_phys], fun n q => ?_, reset_inc,
    rfl, rfl, rfl, rfl, rfl, rfl, rfl, fun t => by simp [State.reset], rfl, ⟨reset_local, reset_exclusive⟩, Nat.zero_le _⟩
  rw [reset_que]; exact ⟨rfl, rfl, rfl, rfl, rfl⟩

end Sys2Proof.Machine
end

section
/-! SUPPORT. Operations on one logical channel (R137, R141, R154, R684): what a drain request and an enable event do to their queue, and the frame of everything that stays at its logical channel. -/

namespace Sys2Proof.Machine

variable {n : Log} {s t u : State}

/-! ## The frame -/

/-- What an operation at logical channel `n` may change: its entry, the identities given out, the ledger, and the packets of its port. -/
structure AtLog (n : Log) (s t : State) : Prop where
  state : t = { s with lch := t.lch, nextId := t.nextId, ldg := t.ldg, linkOut := t.linkOut }
  others : sameOthers n s t
  sent : s.linkOut <+: t.linkOut

theorem AtLog.refl (n : Log) (s : State) : AtLog n s s := ⟨rfl, fun _ _ => rfl, List.prefix_rfl⟩

theorem AtLog.trans (h : AtLog n s t) (k : AtLog n t u) : AtLog n s u :=
  ⟨by rw [k.state, h.state], fun m hm => (k.others m hm).trans (h.others m hm), h.sent.trans k.sent⟩

theorem AtLog.modL (n : Log) (s : State) (f : LCh → LCh) : AtLog n s (s.modL n f) :=
  ⟨rfl, fun m hm => by rw [State.modL_lch, if_neg (Ne.symm hm)], List.prefix_rfl⟩

theorem AtLog.modQ (n : Log) (q : Qn) (s : State) (f : Que → Que) : AtLog n s (s.modQ n q f) := .modL n s _

theorem AtLog.nextId (n : Log) (s : State) (k : Nat) : AtLog n s { s with nextId := k } := ⟨rfl, fun _ _ => rfl, List.prefix_rfl⟩

theorem AtLog.send (n : Log) (s : State) (k : Pkt) : AtLog n s (s.send n k) :=
  ⟨by unfold State.send; split <;> rfl, fun m _ => by rw [State.send_lch], State.send_prefix s n k⟩

theorem AtLog.post (n : Log) (s : State) (kind plane src : Nat) (arg : List Byte) (q : Nat) : AtLog n s (s.post kind plane src arg q) := by
  rw [State.post_frame]; exact ⟨rfl, fun _ _ => rfl, List.prefix_rfl⟩

theorem AtLog.foldl {α : Type} (f : State → α → State) (hf : ∀ s a, AtLog n s (f s a)) (l : List α) (s : State) : AtLog n s (l.foldl f s) := by
  induction l generalizing s with
  | nil => exact .refl n s
  | cons a l ih => exact (hf s a).trans (ih _)

/-- Fields outside the frame, by one equation. -/
theorem AtLog.kept {α : Type} (h : AtLog n s t) (f : State → α)
    (hf : ∀ s : State, ∀ lch nextId ldg linkOut, f { s with lch, nextId, ldg, linkOut } = f s) : f t = f s := by
  rw [h.state]; exact hf s _ _ _ _

theorem AtLog.phys (h : AtLog n s t) : t.phys = s.phys := by rw [h.state]
theorem AtLog.ters (h : AtLog n s t) : t.ters = s.ters := by rw [h.state]
theorem AtLog.map (h : AtLog n s t) : t.map = s.map := by rw [h.state]
theorem AtLog.fence (h : AtLog n s t) : t.fence = s.fence := by rw [h.state]
theorem AtLog.gate (h : AtLog n s t) : t.gate = s.gate := by rw [h.state]

/-! ## Drain requests -/

/-- A drain request at queue `u`, whose retry position takes identity `k`, in aclk `now` (R137, R500). -/
def Que.drainAsked (u : Que) (k now : Nat) : Que :=
  match u.st with
  | .active => { u with st := .draining, drainA := now, fetches := [], fltDet := false }
  | .halted => match u.halt with
    | some h => (u.freedTo { u with
        st := .draining, drainA := now, fetches := [], fltDet := true
        acc := insertRetry (h.acc k false h.dg) u.acc, halt := some { h with released := true, held := none } }).skipUnstarted
    | none => ({ u with st := .draining, drainA := now, fetches := [], fltDet := true } : Que).skipUnstarted
  | .disabled | .draining => u

theorem State.modQ_eq (s : State) (n : Log) (q : Qn) {f g : Que → Que} (h : f (s.que n q) = g (s.que n q)) : s.modQ n q f = s.modQ n q g := by
  simp only [State.modQ, State.modL, LCh.modQ, State.que] at h ⊢
  rw [h]

/-- An update that leaves its logical channel as it is leaves the state as it is. -/
theorem State.modL_self (s : State) (n : Log) {f : LCh → LCh} (h : f s.lch[n] = s.lch[n]) : s.modL n f = s := by
  unfold State.modL
  rw [h]
  exact s.modL_id n

theorem LCh.modQ_id (l : LCh) (q : Qn) : (l.modQ q fun u => u) = l := by
  simp only [LCh.modQ, Fin.getElem_fin, Vector.set_getElem_self]

theorem State.modQ_id (s : State) (n : Log) (q : Qn) {f : Que → Que} (h : f (s.que n q) = s.que n q) : s.modQ n q f = s := by
  rw [s.modQ_eq n q (g := fun u => u) h]
  exact s.modL_self n (s.lch[n].modQ_id q)

/-- A drain request is an update of its queue and may give out an identity. -/
theorem State.drainReq_eq (s : State) (n : Log) (q : Qn) :
    ∃ k, s.drainReq n q = { (s.modQ n q fun u => u.drainAsked s.nextId s.aclk) with nextId := k } := by
  unfold State.drainReq
  dsimp only
  split
  · next hst => exact ⟨s.nextId, s.modQ_eq n q (by simp only [Que.drainAsked, hst])⟩
  · next hst =>
    split
    · next h hh =>
      refine ⟨s.nextId + 1, ?_⟩
      rw [s.modQ_eq n q (g := fun u => u.drainAsked s.nextId s.aclk)]
      simp only [Que.drainAsked, hst, hh]
    · next hh => exact ⟨s.nextId, s.modQ_eq n q (by simp only [Que.drainAsked, hst, hh])⟩
  · next hst => exact ⟨s.nextId, (s.modQ_id n q (by simp only [Que.drainAsked, hst])).symm⟩
  · next hst => exact ⟨s.nextId, (s.modQ_id n q (by simp only [Que.drainAsked, hst])).symm⟩

@[simp] theorem Que.skipUnstarted_st (u : Que) : u.skipUnstarted.st = u.st := rfl
@[simp] theorem Que.freeWords_st (u : Que) (k : Nat) : (u.freeWords k).st = u.st := by unfold Que.freeWords; split <;> rfl
@[simp] theorem Que.freedTo_st (u v : Que) : (u.freedTo v).st = v.st := by simp [Que.freedTo]

/-- A drain request puts every queue that is enabled into DRAINING. -/
theorem Que.drainAsked_st (u : Que) (k now : Nat) : (u.drainAsked k now).st = if u.st = .disabled then .disabled else .draining := by
  unfold Que.drainAsked
  cases hst : u.st with
  | active => rfl
  | halted => cases u.halt <;> simp
  | disabled => exact hst
  | draining => exact hst

theorem AtLog.drainReq (n : Log) (q : Qn) (s : State) : AtLog n s (s.drainReq n q) := by
  obtain ⟨k, h⟩ := s.drainReq_eq n q
  rw [h]
  exact (AtLog.modQ n q s _).trans (.nextId n _ k)

theorem State.drainReq_que (s : State) (n : Log) (q : Qn) : (s.drainReq n q).que n q = (s.que n q).drainAsked s.nextId s.aclk := by
  obtain ⟨k, h⟩ := s.drainReq_eq n q
  rw [h]
  exact s.modQ_que n q _

theorem State.drainReq_que_ne (s : State) (n : Log) {q r : Qn} (hr : q ≠ r) : (s.drainReq n q).que n r = s.que n r := by
  obtain ⟨k, h⟩ := s.drainReq_eq n q
  rw [h]
  exact s.modQ_que_ne n hr _

/-! ## Enable events -/

theorem Que.trigger_st (u : Que) (dg : Nat) : (u.trigger dg).st = u.st := by unfold Que.trigger; (repeat' split) <;> rfl
theorem Que.trigger_acc (u : Que) (dg : Nat) : (u.trigger dg).acc = u.acc := by unfold Que.trigger; (repeat' split) <;> rfl
theorem Que.trigger_fidx (u : Que) (dg : Nat) : (u.trigger dg).fidx = u.fidx := by unfold Que.trigger; (repeat' split) <;> rfl
theorem Que.trigger_lastAcc (u : Que) (dg : Nat) : (u.trigger dg).lastAcc = u.lastAcc := by unfold Que.trigger; (repeat' split) <;> rfl
theorem Que.trigger_lastRet (u : Que) (dg : Nat) : (u.trigger dg).lastRet = u.lastRet := by unfold Que.trigger; (repeat' split) <;> rfl

/-- A trigger at a ring leaves a PIDX read due or out (R114). -/
theorem Que.trigger_out (u : Que) (dg : Nat) (h : u.cfg.ring = true) : (u.trigger dg).prd.out = true := by
  unfold Que.trigger
  rw [h]
  split
  · contradiction
  · split
    · rfl
    · next ho => split <;> simpa using ho

theorem Que.activate_st (u : Que) (dg : Nat) : (u.activate dg).st = .active := Que.trigger_st _ dg
theorem Que.activate_acc (u : Que) (dg : Nat) : (u.activate dg).acc = u.acc := Que.trigger_acc _ dg
theorem Que.activate_fidx (u : Que) (dg : Nat) : (u.activate dg).fidx = u.fidx := Que.trigger_fidx _ dg
theorem Que.activate_lastAcc (u : Que) (dg : Nat) : (u.activate dg).lastAcc = u.lastAcc := Que.trigger_lastAcc _ dg
theorem Que.activate_lastRet (u : Que) (dg : Nat) : (u.activate dg).lastRet = u.lastRet := Que.trigger_lastRet _ dg
theorem Que.activate_out (u : Que) (dg : Nat) (h : u.cfg.ring = true) : (u.activate dg).prd.out = true := Que.trigger_out _ dg h

/-- At a channel in service an enable event reaches the queue itself (R137, R642). -/
theorem State.enableQ_inService (s : State) (n : Log) (q : Qn) (dg : Nat) (ho : s.lch[n].oos = false)
    (hp : ∀ p, s.servP n = some p → s.phys[p].st ≠ .draining ∧ s.phys[p].toDrain = false) :
    s.enableQ n q dg = s.modQ n q fun u => u.enable dg := by
  refine s.modQ_eq n q ?_
  cases hs : s.servP n with
  | none => simp only [ho, Bool.or_false, Bool.false_and, Bool.false_eq_true, if_false]
  | some p =>
    obtain ⟨hst, hd⟩ := hp p hs
    simp only [ho, hd, beq_eq_false_iff_ne.mpr hst, Bool.or_false, Bool.false_and, Bool.false_eq_true, if_false]

/-- An enable event leaves a queue that is ACTIVE or HALTED_FAULT alone, and sets ENABLE_PENDING of a DRAINING one. -/
theorem State.enableQ_enabled (s : State) (n : Log) (q : Qn) (dg : Nat) (h : (s.que n q).st ≠ .disabled) :
    s.enableQ n q dg = s.modQ n q fun u => u.enable dg := by
  refine s.modQ_eq n q ?_
  have hb : ((s.que n q).st == QS.disabled) = false := by simpa using h
  simp only [hb, Bool.and_false, Bool.false_eq_true, if_false]

theorem AtLog.enableQ (n : Log) (q : Qn) (dg : Nat) (s : State) : AtLog n s (s.enableQ n q dg) := .modQ n q s _

end Sys2Proof.Machine
end

section
/-! SUPPORT. Writes of CHN_QCTL with one bit (R46, R47, R137, R154, R684). -/

namespace Sys2Proof.Machine

/-! ## What a write of one bit does -/

theorem fins_four : fins 4 = [0, 1, 2, 3] := by decide

/-- A write of CHN_QCTL notes what it found, and then takes the requests queue by queue. -/
theorem State.qctlApply_noted (s : State) (p : Phys) (n : Log) (en dr : Nat) :
    ∃ o, s.qctlApply p n en dr = (fins 4).foldl (fun (s : State) (q : Qn) =>
      if bit en q then (if bit dr q then s.drainReq n q else s).enableQ n q 0 else if bit dr q then s.drainReq n q else s)
      (s.modL n fun l => { l with preQctl := o }) := by
  unfold State.qctlApply
  dsimp only
  split
  · exact ⟨s.lch[n].preQctl, by rw [State.modL_self s n rfl]⟩
  · exact ⟨_, rfl⟩

theorem State.qctlApply_enable (s : State) (p : Phys) (n : Log) (q : Qn) :
    ∃ o, s.qctlApply p n (2 ^ q.val) 0 = (s.modL n fun l => { l with preQctl := o }).enableQ n q 0 := by
  obtain ⟨o, h⟩ := s.qctlApply_noted p n (2 ^ q.val) 0
  refine ⟨o, h.trans ?_⟩
  rw [fins_four]
  fin_cases q <;> rfl

theorem State.qctlApply_drain (s : State) (p : Phys) (n : Log) (q : Qn) :
    ∃ o, s.qctlApply p n 0 (2 ^ q.val) = (s.modL n fun l => { l with preQctl := o }).drainReq n q := by
  obtain ⟨o, h⟩ := s.qctlApply_noted p n 0 (2 ^ q.val)
  refine ⟨o, h.trans ?_⟩
  rw [fins_four]
  fin_cases q <;> rfl

/-- A serving channel that the map gives back is the one that serves. -/
theorem State.servP_of_logOf (s : State) (n : Log) (p : Phys) (h : s.logOf p = some n) (hs : s.phys[p].st.serves = true) : s.servP n = some p := by
  have hm : s.map[n] = some p := by simpa using List.find?_some h
  rw [State.servP, hm]
  exact (Option.filter_some).trans (if_pos hs)

/-- A secure write under SERVICEABLE reaches the logical channel served. -/
theorem State.qctl_secure (s : State) (p : Phys) (en dr : Nat) (r : Rqr) (n : Log) (hk : s.gate.locked = true) (hm : s.gate.mode = true)
    (hs : s.secure r = true) (hn : s.logOf p = some n) (hp : s.phys[p].st.serves = true) : s.gated (qctlOff p) r (s.qctl p en dr r) = s.qctlApply p n en dr := by
  have hf : ((s.logOf p).filter fun _ => s.phys[p].st.serves) = some n := by rw [hn]; exact (Option.filter_some).trans (if_pos hp)
  unfold State.gated State.qctl
  rw [hk, hm, hs, hf]
  rfl

/-- Under ISOLATED the write is refused (R47). -/
theorem State.qctl_isolated (s : State) (p : Phys) (en dr : Nat) (r : Rqr) (hk : s.gate.locked = true) (hm : s.gate.mode = false) :
    s.gated (qctlOff p) r (s.qctl p en dr r) = s.refuseLocked (qctlOff p) r := by
  simp [State.gated, State.qctl, hk, hm]

theorem exec_qctlEnable (s : State) (p : Phys) (q : Qn) (r : Rqr) (h : s.porN = true) :
    exec (.qctlEnable p q r) s = .next (s.gated (qctlOff p) r (s.qctl p (2 ^ q.val) 0 r)) := by
  show when s.porN s _ = _
  rw [h]; rfl

theorem exec_qctlDrain (s : State) (p : Phys) (q : Qn) (r : Rqr) (h : s.porN = true) :
    exec (.qctlDrain p q r) s = .next (s.gated (qctlOff p) r (s.qctl p 0 (2 ^ q.val) r)) := by
  show when s.porN s _ = _
  rw [h]; rfl

/-! ## The obligation's clauses -/

section
variable (s : State) (n : Log) (q : Qn) (o : Option PreOut)

/-- The note is no part of a queue, of the port or of a task input. -/
theorem State.noteQctl_que (r : Qn) : (s.modL n fun l => { l with preQctl := o }).que n r = s.que n r := by
  simp only [State.que, State.modL_lch, if_pos]

theorem State.noteQctl_siblings {t : State} (hq : ∀ r : Qn, r ≠ q → t.que n r = (s.modL n fun l => { l with preQctl := o }).que n r)
    (hp : t.lch[n].port = (s.modL n fun l => { l with preQctl := o }).lch[n].port) (hi : t.lch[n].ins = (s.modL n fun l => { l with preQctl := o }).lch[n].ins) :
    sameSiblings n q s t := by
  refine ⟨fun r hr => (hq r hr).trans (s.noteQctl_que n o r), ?_, ?_⟩
  · rw [hp, State.modL_lch, if_pos rfl]
  · rw [hi, State.modL_lch, if_pos rfl]
end

theorem State.modQ_port (s : State) (n : Log) (q : Qn) (f : Que → Que) : (s.modQ n q f).lch[n].port = s.lch[n].port := by
  rw [State.modQ, State.modL_lch, if_pos rfl, LCh.modQ_port]
theorem State.modQ_ins (s : State) (n : Log) (q : Qn) (f : Que → Que) : (s.modQ n q f).lch[n].ins = s.lch[n].ins := by
  rw [State.modQ, State.modL_lch, if_pos rfl, LCh.modQ_ins]

/-- Settles O22: a secure write notes what it found and hands one enable event or drain request to its queue; under ISOLATED it is refused. -/
theorem queueControlEnablesAndDrains : Obligations.QueueControlEnablesAndDrains := by
  refine ⟨fun s p q r n hmg hk hm hn hp => ?_, fun s p q r c hpor hk hm hc => ?_⟩
  · obtain ⟨hpor, hsec⟩ : s.porN = true ∧ s.secure r = true := by simpa [State.mgSecure] using hmg
    constructor
    · obtain ⟨o, ho⟩ := s.qctlApply_enable p n q
      refine ⟨_, (exec_qctlEnable s p q r hpor).trans (congrArg _ ((s.qctl_secure p _ _ r n hk hm hsec hn hp).trans ho)), ?_⟩
      have hwait := fun h => (s.modL n fun l => { l with preQctl := o }).enableQ_enabled n q 0 (h : (State.que _ n q).st ≠ .disabled)
      rw [s.noteQctl_que n o q] at hwait
      refine ⟨rfl, ((AtLog.modL n s _).trans (.enableQ n q 0 _)).others, s.noteQctl_siblings n q o (fun r hr => State.modQ_que_ne _ n (Ne.symm hr) _)
        (State.modQ_port _ n q _) (State.modQ_ins _ n q _), fun hst hv ho' hd ht => ?_, fun hst => ?_, fun hst => ?_⟩
      · rw [State.enableQ_inService, State.modQ_que, State.noteQctl_que]
        · have he : (s.que n q).enable 0 = (s.que n q).activate 0 := by simp only [Que.enable, hst, hv, if_pos]
          rw [he]
          exact ⟨Que.activate_st _ 0, Que.activate_acc _ 0, Que.activate_fidx _ 0, Que.activate_lastAcc _ 0, Que.activate_out _ 0⟩
        · rw [State.modL_lch, if_pos rfl]; exact ho'
        · intro p' hp'
          obtain rfl : p = p' := Option.some.inj ((s.servP_of_logOf n p hn hp).symm.trans hp')
          exact ⟨hd, ht⟩
      · rw [hwait (by rw [hst]; nofun), State.modQ_que, State.noteQctl_que]
        simp only [Que.enable, hst, Nat.max_zero]
      · have he : (s.que n q).enable 0 = s.que n q := by rcases hst with hst | hst <;> simp only [Que.enable, hst]
        rw [hwait (by rcases hst with hst | hst <;> rw [hst] <;> nofun), State.modQ_que, State.noteQctl_que, he]
    · obtain ⟨o, ho⟩ := s.qctlApply_drain p n q
      refine ⟨_, (exec_qctlDrain s p q r hpor).trans (congrArg _ ((s.qctl_secure p _ _ r n hk hm hsec hn hp).trans ho)), ?_⟩
      obtain ⟨k, hd⟩ := (s.modL n fun l => { l with preQctl := o }).drainReq_eq n q
      have hq := (s.modL n fun l => { l with preQctl := o }).drainReq_que n q
      rw [s.noteQctl_que n o q] at hq
      refine ⟨by rw [hd]; rfl, ((AtLog.modL n s _).trans (.drainReq n q _)).others, s.noteQctl_siblings n q o (fun r hr => State.drainReq_que_ne _ n (Ne.symm hr))
        (by rw [hd]; exact State.modQ_port _ n q _) (by rw [hd]; exact State.modQ_ins _ n q _), fun hst => ?_, fun hst => ?_, fun hst => ?_⟩
      · rw [hq]; simp only [Que.drainAsked, hst]; rfl
      · rw [hq, Que.drainAsked_st, hst]; rfl
      · rw [hq]; rcases hst with hst | hst <;> simp only [Que.drainAsked, hst]
  · have hexec : exec c s = .next (s.refuseLocked (qctlOff p) r) := by
      rcases hc with rfl | rfl
      · rw [exec_qctlEnable s p q r hpor, s.qctl_isolated p _ _ r hk hm]
      · rw [exec_qctlDrain s p q r hpor, s.qctl_isolated p _ _ r hk hm]
    refine ⟨_, hexec, ?_⟩
    unfold State.refuseLocked
    rw [hk, hm, Bool.not_false, Bool.and_true, if_pos rfl, State.post_frame]
    exact ⟨rfl, rfl, rfl, rfl, rfl⟩

end Sys2Proof.Machine
end

section
/-! SUPPORT. The channel reset and what it rests on (R25, R143, R356, R360, R371, R516, R520): the end of an incarnation, the restore from the journal, and the frame of both. -/

namespace Sys2Proof.Machine

/-! ## The fence edge -/

/-- What the breaking of slice locks may change. -/
def sameButLocks (s t : State) : Prop := t = { s with slices := t.slices, hpt := t.hpt, ldg := t.ldg }

theorem sameButLocks.refl (s : State) : sameButLocks s s := rfl

theorem sameButLocks.trans {s t u : State} (h : sameButLocks s t) (k : sameButLocks t u) : sameButLocks s u := by
  unfold sameButLocks at *
  rw [k, h]

theorem sameButLocks.lockBreak (s : State) (sl : SliceN) (cause : Nat) : sameButLocks s (s.lockBreak sl cause) := by
  unfold State.lockBreak
  dsimp only
  split
  · rw [State.post_frame]; rfl
  · exact .refl s

theorem sameButLocks.foldl {α : Type} (f : State → α → State) (hf : ∀ s a, sameButLocks s (f s a)) (l : List α) (s : State) : sameButLocks s (l.foldl f s) := by
  induction l generalizing s with
  | nil => exact .refl s
  | cons a l ih => exact (hf s a).trans (ih _)

/-- The locks of `n` break. -/
def State.breakLocks (s : State) (n : Log) : State :=
  s.over (fins 16) fun t sl => if t.slices[sl].lock.held && t.slices[sl].lock.owner = n.val then t.lockBreak sl 1 else t

theorem State.breakLocks_frame (s : State) (n : Log) : sameButLocks s (s.breakLocks n) := by
  refine sameButLocks.foldl _ (fun s sl => ?_) _ s
  split
  · exact .lockBreak s sl 1
  · exact .refl s

theorem State.breakLocks_free (s : State) (n : Log) (h : ∀ sl : SliceN, s.slices[sl].lock.held = false) : s.breakLocks n = s := by
  unfold State.breakLocks State.over
  induction fins 16 with
  | nil => rfl
  | cons sl l ih => rw [List.foldl_cons, h sl, Bool.false_and, if_neg Bool.false_ne_true, ih]

/-- Transactions of `n` that are outstanding. -/
def State.outOf (s : State) (n : Log) : Nat := (s.slices.toList.map fun (x : Slice) => x.out.countP fun t => t.log == n).sum

/-- The FENCE_DRAIN record of an incarnation that ends, posted or owed (R356). -/
def State.oweDrain (s : State) (n : Log) (old out : Nat) : State :=
  if out = 0 then s.fenceDrained n old 0 else s.modL n fun l => { l with fdrain := l.fdrain ++ [(old, 0)], fleft := out }

theorem AtLog.oweDrain (n : Log) (s : State) (old out : Nat) : AtLog n s (s.oweDrain n old out) := by
  unfold State.oweDrain
  split
  · exact .post n s _ _ _ _ _
  · exact .modL n s _

theorem State.oweDrain_que (s : State) (n : Log) (old out : Nat) (q : Qn) : (s.oweDrain n old out).que n q = s.que n q := by
  unfold State.oweDrain
  split
  · exact State.que_congr (by unfold State.fenceDrained; rw [State.post_frame]) n q
  · simp only [State.que, State.modL_lch, if_pos]

/-- The next incarnation of `n`, and no pending entry at `p`. -/
def State.nextInc (s : State) (n : Log) (p : Phys) : State :=
  ({ s with fence := s.fence.set n ((s.inc n + 1) % 16) } : State).modP p fun c => { c with pend := [] }

theorem State.fenceEdge_eq (s : State) (n : Log) (p : Phys) :
    s.fenceEdge n p = ((s.nextInc n p).oweDrain n (s.inc n) (s.outOf n)).breakLocks n := rfl

/-- What the end of an incarnation may change. -/
theorem State.fenceEdge_frame (s : State) (n : Log) (p : Phys) :
    s.fenceEdge n p = { (s.nextInc n p) with
      lch := (s.fenceEdge n p).lch, slices := (s.fenceEdge n p).slices, hpt := (s.fenceEdge n p).hpt
      ldg := (s.fenceEdge n p).ldg, nextId := (s.fenceEdge n p).nextId, linkOut := (s.fenceEdge n p).linkOut } := by
  rw [State.fenceEdge_eq]
  generalize hw : (s.nextInc n p).oweDrain n (s.inc n) (s.outOf n) = w
  have h := (AtLog.oweDrain n (s.nextInc n p) (s.inc n) (s.outOf n)).state
  rw [hw] at h
  have k := w.breakLocks_frame n
  unfold sameButLocks at k
  rw [k, h]

theorem State.fenceEdge_lch (s : State) (n : Log) (p : Phys) : (s.fenceEdge n p).lch = ((s.nextInc n p).oweDrain n (s.inc n) (s.outOf n)).lch := by
  rw [State.fenceEdge_eq]
  have k := ((s.nextInc n p).oweDrain n (s.inc n) (s.outOf n)).breakLocks_frame n
  unfold sameButLocks at k
  rw [k]

theorem State.fenceEdge_que (s : State) (n : Log) (p : Phys) (q : Qn) : (s.fenceEdge n p).que n q = s.que n q :=
  (State.que_congr (s.fenceEdge_lch n p) n q).trans (State.oweDrain_que _ n _ _ q)

theorem State.fenceEdge_others (s : State) (n : Log) (p : Phys) : sameOthers n s (s.fenceEdge n p) := fun m hm => by
  rw [State.fenceEdge_lch]
  exact (AtLog.oweDrain n (s.nextInc n p) _ _).others m hm

theorem State.fenceEdge_phys (s : State) (n : Log) (p : Phys) : (s.fenceEdge n p).phys = (s.nextInc n p).phys := by rw [State.fenceEdge_frame]
theorem State.fenceEdge_ters (s : State) (n : Log) (p : Phys) : (s.fenceEdge n p).ters = s.ters := by rw [State.fenceEdge_frame]; rfl
theorem State.fenceEdge_map (s : State) (n : Log) (p : Phys) : (s.fenceEdge n p).map = s.map := by rw [State.fenceEdge_frame]; rfl
theorem State.fenceEdge_gate (s : State) (n : Log) (p : Phys) : (s.fenceEdge n p).gate = s.gate := by rw [State.fenceEdge_frame]; rfl

theorem State.fenceEdge_inc (s : State) (n : Log) (p : Phys) (m : Log) : (s.fenceEdge n p).inc m = if n = m then (s.inc n + 1) % 16 else s.inc m := by
  have h : (s.fenceEdge n p).fence = s.fence.set n ((s.inc n + 1) % 16) := by rw [State.fenceEdge_frame]; rfl
  simp [State.inc, h, Vector.getElem_set, Fin.ext_iff]

/-- With every slice lock free the slices stay. -/
theorem State.fenceEdge_slices (s : State) (n : Log) (p : Phys) (h : ∀ sl : SliceN, s.slices[sl].lock.held = false) : (s.fenceEdge n p).slices = s.slices := by
  have hw : ((s.nextInc n p).oweDrain n (s.inc n) (s.outOf n)).slices = s.slices := by rw [(AtLog.oweDrain n (s.nextInc n p) _ _).state]; rfl
  rw [State.fenceEdge_eq, State.breakLocks_free]
  · exact hw
  · intro sl; rw [hw]; exact h sl

/-! ## The restore from the journal -/

/-- A part of a queue that replay credit does not touch (R418). -/
theorem Que.giveCredits_kept {α β : Type} (f : Que → β) (hf : ∀ u d, f (Que.giveCredit u d) = f u) (g : α → Bool) (d : α → List Nat) (l : List α) (u : Que) :
    f (l.foldl (fun (v : Que) x => if g x then v.giveCredit (d x) else v) u) = f u := by
  induction l generalizing u with
  | nil => rfl
  | cons x l ih =>
    rw [List.foldl_cons, ih]
    split
    · exact hf u (d x)
    · rfl

theorem Que.giveCredit_st (u : Que) (l : List Nat) : (u.giveCredit l).st = u.st := by unfold Que.giveCredit; rfl
theorem Que.giveCredit_lastAcc (u : Que) (l : List Nat) : (u.giveCredit l).lastAcc = u.lastAcc := by unfold Que.giveCredit; rfl
theorem Que.giveCredit_kicks (u : Que) (l : List Nat) : (u.giveCredit l).kicks = u.kicks := by unfold Que.giveCredit; rfl

theorem Que.restore_st (u : Que) (now : Nat) : (u.restore now).st = u.st := by
  unfold Que.restore
  dsimp only
  exact Que.giveCredits_kept Que.st Que.giveCredit_st (fun x : Acc × Acc × Bool => x.2.2) (fun x => x.1.drawn) _ u

theorem Que.restore_lastAcc (u : Que) (now : Nat) : (u.restore now).lastAcc = u.lastAcc := by
  unfold Que.restore
  dsimp only
  exact Que.giveCredits_kept Que.lastAcc Que.giveCredit_lastAcc (fun x : Acc × Acc × Bool => x.2.2) (fun x => x.1.drawn) _ u

theorem Que.restore_kicks (u : Que) (now : Nat) : (u.restore now).kicks = u.kicks := by
  unfold Que.restore
  dsimp only
  exact Que.giveCredits_kept Que.kicks Que.giveCredit_kicks (fun x : Acc × Acc × Bool => x.2.2) (fun x => x.1.drawn) _ u

theorem AtLog.restoreL (n : Log) (s : State) : AtLog n s (s.restoreL n) := .modL n s _

theorem State.restoreL_que (s : State) (n : Log) (q : Qn) : (s.restoreL n).que n q = (s.que n q).restore s.aclk := by
  simp only [State.que, State.restoreL, State.modL_lch, if_pos]
  exact mapV_get _ (fun _ u => Que.restore u s.aclk) q

/-! ## The reset -/

/-- A channel that a reset has put into WAKING (R143). -/
def PCh.resetting (c : PCh) : Prop := c.st = .waking ∧ c.wakeFor = .reset ∧ c.scrub = true

/-- The channel itself at a reset in aclk `now`. -/
def PCh.restart (c : PCh) (now : Nat) : PCh :=
  { c with
    st := .waking, wakeFor := .reset, wakeA := if c.st == .dormant then some now else if c.st == .waking then c.wakeA else none, scrub := true
    preRst := some ⟨now, c.st⟩
    missed := if c.st == .dormant then 0 else c.missed, monA := if c.st == .dormant then now else c.monA
    entry := 0, latched := false, locked := none, quiet := 0 }

/-- The channel at a reset, before its logical channel loses what it held. -/
def State.restarted (s : State) (p : Phys) : State :=
  (s.rewriteJ.restartTree (terP p)).modP p fun c => c.restart s.aclk

theorem State.restarted_frame (s : State) (p : Phys) :
    s.restarted p = { s with jbad := s.rewriteJ.jbad, ters := (s.restartTree (terP p)).ters, phys := (s.modP p fun c => c.restart s.aclk).phys } := by
  unfold State.restarted State.modP State.restartTree State.modT State.rewriteJ
  rfl

theorem State.channelReset_eq (s : State) (p : Phys) (n : Log) : s.channelReset p n = ((s.restarted p).restoreL n).fenceEdge n p := rfl

theorem State.restarted_phys (s : State) (p r : Phys) : (s.restarted p).phys[r] = if p = r then s.phys[p].restart s.aclk else s.phys[r] := by
  rw [State.restarted_frame]
  exact State.modP_phys s p r fun c => c.restart s.aclk

/-- What a reset may change. -/
theorem State.channelReset_frame (s : State) (p : Phys) (n : Log) :
    s.channelReset p n = { s with
      jbad := (s.channelReset p n).jbad, ters := (s.restartTree (terP p)).ters, phys := (s.channelReset p n).phys, fence := (s.channelReset p n).fence
      lch := (s.channelReset p n).lch, slices := (s.channelReset p n).slices, hpt := (s.channelReset p n).hpt
      ldg := (s.channelReset p n).ldg, nextId := (s.channelReset p n).nextId, linkOut := (s.channelReset p n).linkOut } := by
  rw [State.channelReset_eq]
  generalize hw : (s.restarted p).restoreL n = w
  have h := (AtLog.restoreL n (s.restarted p)).state
  rw [hw, State.restarted_frame] at h
  rw [State.fenceEdge_frame]
  unfold State.nextInc State.modP
  rw [h]

variable (s : State) (p : Phys) (n : Log)

theorem State.channelReset_physAt (r : Phys) : (s.channelReset p n).phys[r] = if p = r then { s.phys[p].restart s.aclk with pend := [] } else s.phys[r] := by
  rw [State.channelReset_eq, State.fenceEdge_phys]
  unfold State.nextInc
  rw [State.modP_phys]
  change (if p = r then { ((s.restarted p).restoreL n).phys[p] with pend := [] } else ((s.restarted p).restoreL n).phys[r]) = _
  rw [(AtLog.restoreL n _).phys, State.restarted_phys, State.restarted_phys, if_pos rfl]
  split <;> rfl

theorem State.channelReset_phys : (s.channelReset p n).phys[p] = { s.phys[p].restart s.aclk with pend := [] } := by
  rw [State.channelReset_physAt, if_pos rfl]

theorem State.channelReset_samePhys : samePhys p s (s.channelReset p n) := fun r hr => by
  rw [State.channelReset_physAt, if_neg (Ne.symm hr)]

theorem State.channelReset_inc (m : Log) : (s.channelReset p n).inc m = if n = m then (s.inc n + 1) % 16 else s.inc m := by
  rw [State.channelReset_eq, State.fenceEdge_inc]
  unfold State.inc
  rw [(AtLog.restoreL n _).fence, State.restarted_frame]

theorem State.channelReset_map : (s.channelReset p n).map = s.map := by rw [State.channelReset_frame]
theorem State.channelReset_hrstN : (s.channelReset p n).hrstN = s.hrstN := by rw [State.channelReset_frame]
theorem State.channelReset_ters : (s.channelReset p n).ters = (s.restartTree (terP p)).ters := by rw [State.channelReset_frame]
theorem State.channelReset_others : sameOthers n s (s.channelReset p n) := fun m hm => by
  rw [State.channelReset_eq, State.fenceEdge_others _ n p m hm, (AtLog.restoreL n _).others m hm, State.restarted_frame]
theorem State.channelReset_que (q : Qn) : (s.channelReset p n).que n q = (s.que n q).restore s.aclk := by
  rw [State.channelReset_eq, State.fenceEdge_que, State.restoreL_que, State.restarted_frame]
  rfl
theorem State.channelReset_slices (h : ∀ sl : SliceN, s.slices[sl].lock.held = false) : (s.channelReset p n).slices = s.slices := by
  have hw : ((s.restarted p).restoreL n).slices = s.slices := by rw [(AtLog.restoreL n _).state, State.restarted_frame]
  rw [State.channelReset_eq, State.fenceEdge_slices, hw]
  intro sl
  rw [hw]
  exact h sl

end Sys2Proof.Machine
end

section
/-! SUPPORT. The release of hrst_n: image lock, and the reset of every serving channel (R143, R362, R561, R576). -/

namespace Sys2Proof.Machine

/-! ## Every serving channel is reset -/

/-- The channel that serves `n`, if any, is reset. -/
def State.resetServing (s : State) (n : Log) : State :=
  match s.servP n with
  | some p => s.channelReset p n
  | none => s

theorem State.resetServing_some {s : State} {n : Log} {p : Phys} (h : s.servP n = some p) : s.resetServing n = s.channelReset p n := by
  unfold State.resetServing
  rw [h]

theorem State.resetServing_none {s : State} {n : Log} (h : s.servP n = none) : s.resetServing n = s := by
  unfold State.resetServing
  rw [h]

/-- What resets under free slice locks keep: the pins, the map, the slices, which channels serve, and that a channel is in its reset. -/
structure ResetKeeps (s t : State) : Prop where
  hrstN : t.hrstN = s.hrstN
  map : t.map = s.map
  slices : t.slices = s.slices
  serves : ∀ p : Phys, t.phys[p].st.serves = s.phys[p].st.serves
  resetting : ∀ p : Phys, s.phys[p].resetting → t.phys[p].resetting

theorem ResetKeeps.refl (s : State) : ResetKeeps s s := ⟨rfl, rfl, rfl, fun _ => rfl, fun _ => id⟩

theorem ResetKeeps.trans {s t u : State} (h : ResetKeeps s t) (k : ResetKeeps t u) : ResetKeeps s u where
  hrstN := k.hrstN.trans h.hrstN
  map := k.map.trans h.map
  slices := k.slices.trans h.slices
  serves p := (k.serves p).trans (h.serves p)
  resetting p := k.resetting p ∘ h.resetting p

theorem ResetKeeps.servP {s t : State} (h : ResetKeeps s t) (n : Log) : t.servP n = s.servP n := by
  unfold State.servP
  rw [h.map]
  exact congrArg (Option.filter · s.map[n]) (funext h.serves)

theorem State.serves_of_servP {s : State} {n : Log} {p : Phys} (h : s.servP n = some p) : s.phys[p].st.serves = true := by
  unfold State.servP at h
  exact (Option.filter_eq_some_iff.mp h).2

theorem PCh.restart_resetting (c : PCh) (now : Nat) : ({ c.restart now with pend := [] } : PCh).resetting := ⟨rfl, rfl, rfl⟩

theorem State.channelReset_resetting (s : State) (p : Phys) (n : Log) : (s.channelReset p n).phys[p].resetting := by
  rw [State.channelReset_phys]
  exact PCh.restart_resetting _ _

theorem State.resetServing_keeps (s : State) (n : Log) (hf : ∀ sl : SliceN, s.slices[sl].lock.held = false) : ResetKeeps s (s.resetServing n) := by
  cases h : s.servP n with
  | none => rw [State.resetServing_none h]; exact .refl s
  | some p =>
    rw [State.resetServing_some h]
    refine ⟨s.channelReset_hrstN p n, s.channelReset_map p n, s.channelReset_slices p n hf, fun r => ?_, fun r hr => ?_⟩
    · by_cases hp : r = p
      · rw [hp, (s.channelReset_resetting p n).1, State.serves_of_servP h]; rfl
      · rw [s.channelReset_samePhys p n r hp]
    · by_cases hp : r = p
      · rw [hp]; exact s.channelReset_resetting p n
      · rw [s.channelReset_samePhys p n r hp]; exact hr

theorem State.resetServing_inc (s : State) (n m : Log) (hm : m ≠ n) : (s.resetServing n).inc m = s.inc m := by
  cases h : s.servP n with
  | none => rw [State.resetServing_none h]
  | some p => rw [State.resetServing_some h, State.channelReset_inc, if_neg (Ne.symm hm)]

theorem State.resetServing_foldl_keeps (l : List Log) (s : State) (hf : ∀ sl : SliceN, s.slices[sl].lock.held = false) :
    ResetKeeps s (l.foldl State.resetServing s) := by
  induction l generalizing s with
  | nil => exact .refl s
  | cons n l ih =>
    have h := s.resetServing_keeps n hf
    exact h.trans (ih _ fun sl => by rw [h.slices]; exact hf sl)

theorem State.resetServing_foldl_inc (l : List Log) (s : State) (m : Log) (hm : m ∉ l) : (l.foldl State.resetServing s).inc m = s.inc m := by
  induction l generalizing s with
  | nil => rfl
  | cons n l ih =>
    obtain ⟨hn, hl⟩ := List.ne_and_not_mem_of_not_mem_cons hm
    exact (ih _ hl).trans (s.resetServing_inc n m hn)

/-- Each serving channel of a list without repetition is reset, and its incarnation advances once. -/
theorem State.resetServing_foldl (l : List Log) (hl : l.Nodup) (s : State) (hf : ∀ sl : SliceN, s.slices[sl].lock.held = false)
    (n : Log) (hn : n ∈ l) (p : Phys) (hp : s.servP n = some p) :
    (l.foldl State.resetServing s).phys[p].resetting ∧ (l.foldl State.resetServing s).inc n = (s.inc n + 1) % 16 := by
  induction l generalizing s with
  | nil => exact absurd hn List.not_mem_nil
  | cons m l ih =>
    obtain ⟨hml, hl'⟩ := List.nodup_cons.mp hl
    have hk := s.resetServing_keeps m hf
    have hf' : ∀ sl : SliceN, (s.resetServing m).slices[sl].lock.held = false := fun sl => by rw [hk.slices]; exact hf sl
    rw [List.foldl_cons]
    rcases List.mem_cons.mp hn with rfl | hn'
    · rw [State.resetServing_foldl_inc l _ n hml, State.resetServing_some hp]
      rw [State.resetServing_some hp] at hf'
      refine ⟨(State.resetServing_foldl_keeps l _ hf').resetting p (s.channelReset_resetting p n), ?_⟩
      rw [State.channelReset_inc, if_pos rfl]
    · have hne : n ≠ m := fun h => hml (h ▸ hn')
      rw [← s.resetServing_inc m n hne]
      exact ih hl' _ hf' hn' ((hk.servP n).trans hp)

/-! ## Image lock -/

/-- What image lock changes of the map and the pins: nothing. -/
theorem State.lock_frame (s : State) : s.lock.map = s.map ∧ s.lock.hrstN = s.hrstN ∧ s.lock.fence = s.fence
    ∧ s.lock.gate.st = .locked ∧ s.lock.gate.locked = true ∧ s.lock.gate.lockA = s.aclk := by
  unfold State.lock State.allP State.allL
  dsimp only
  rw [State.post_frame]
  dsimp only
  exact ⟨rfl, rfl, rfl, rfl, rfl, rfl⟩

theorem State.lock_phys (s : State) (p : Phys) : s.lock.phys[p] = lockPhys s.aclk p s.phys[p] := by
  unfold State.lock State.allP State.allL
  dsimp only
  rw [State.post_frame]
  dsimp only
  exact mapV_get _ (lockPhys s.aclk) p

theorem State.lock_lch (s : State) (n : Log) : s.lock.lch[n] = lockLog s.aclk s.lch[n] := by
  unfold State.lock State.allP State.allL
  dsimp only
  rw [State.post_frame]
  dsimp only
  exact mapV_get _ (fun _ l => lockLog s.aclk l) n

theorem State.lock_slices (s : State) (sl : SliceN) : s.lock.slices[sl].lock = s.slices[sl].lock := by
  unfold State.lock State.allP State.allL
  dsimp only
  rw [State.post_frame]
  dsimp only
  have h := congrArg Slice.lock (mapV_get s.slices (fun _ x => { x with bandR := { v := 400, at_ := s.aclk }, bandW := { v := 400, at_ := s.aclk } }) sl)
  exact h

theorem lockPhys_scrub (now : Nat) (p : Phys) (c : PCh) : (lockPhys now p c).scrub = true := by unfold lockPhys; split <;> rfl

theorem lockPhys_st (now : Nat) (p : Phys) (c : PCh) : (lockPhys now p c).st = if p.val % 17 = 16 then c.st else .waking := by unfold lockPhys; split <;> rfl

/-- A queue at image lock (R78, R137). -/
def Que.atLock (u : Que) (now : Nat) : Que := if (u.fillBal now).cfg.initActive then (u.fillBal now).enable 0 else u.fillBal now

theorem State.lock_que (s : State) (n : Log) (q : Qn) : s.lock.que n q = (s.que n q).atLock s.aclk := by
  unfold State.que
  rw [State.lock_lch]
  exact mapV_get _ (fun _ u => Que.atLock u s.aclk) q

theorem Que.trigger_cfg (u : Que) (dg : Nat) : (u.trigger dg).cfg = u.cfg := by unfold Que.trigger; (repeat' split) <;> rfl

theorem Que.enable_cfg (u : Que) (dg : Nat) : (u.enable dg).cfg = u.cfg := by
  unfold Que.enable
  split
  · split
    · exact Que.trigger_cfg _ dg
    · rfl
  · rfl
  · rfl
  · rfl

theorem Que.atLock_cfg (u : Que) (now : Nat) : (u.atLock now).cfg = u.cfg := by
  unfold Que.atLock
  split
  · exact Que.enable_cfg _ 0
  · rfl

/-- A valid DISABLED queue is ACTIVE after an enable event. -/
theorem Que.enable_disabled (u : Que) (dg : Nat) (hd : u.st = .disabled) (hv : u.cfg.valid = true) : (u.enable dg).st = .active := by
  unfold Que.enable
  rw [hd]
  simp only [hv, if_true]
  exact Que.activate_st u dg

theorem Que.atLock_active (u : Que) (now : Nat) (hv : u.cfg.valid = true) (hi : u.cfg.initActive = true) (hd : u.st = .disabled) :
    (u.atLock now).st = .active := by
  unfold Que.atLock
  rw [if_pos (show (u.fillBal now).cfg.initActive = true from hi)]
  exact Que.enable_disabled _ 0 hd hv

theorem State.lock_lockedFrom (s : State) : lockedFrom s s.lock := by
  obtain ⟨hmap, -, hfence, hst, hlocked, hlockA⟩ := s.lock_frame
  refine ⟨hst, hlocked, hlockA, hmap, hfence, fun p => ?_, fun n q hv hi hd => ?_⟩
  · rw [State.lock_phys]
    exact ⟨lockPhys_scrub _ _ _, lockPhys_st _ _ _⟩
  · rw [State.lock_que] at hv hi ⊢
    rw [Que.atLock_cfg] at hv hi
    exact Que.atLock_active _ _ hv hi hd

/-! ## The release of hrst_n -/

/-- hrst_n is 1, and every slice lock is free and BROKEN (R362). -/
def State.released (s : State) : State :=
  { s with hrstN := true, slices := mapV s.slices fun _ x => { x with lock := { broken := true, cause := 3 } } }

theorem State.released_lock (s : State) (sl : SliceN) : s.released.slices[sl].lock = { broken := true, cause := 3 } :=
  congrArg Slice.lock (mapV_get s.slices (fun _ x => { x with lock := { broken := true, cause := 3 } }) sl)

theorem exec_hrstDeassert (s : State) (hh : s.hrstN = false) (hv : s.vddCore = true) :
    exec .hrstDeassert s = if s.gate.st == .lockWait then .next s.released.lock else .next ((fins 128).foldl State.resetServing s.released) := by
  show execHrstDeassert s = _
  unfold execHrstDeassert
  rw [if_neg (by rw [hh]; decide), if_neg (by rw [hv]; decide)]
  rfl

/-- Settles O10: a waiting image locks (`State.lock_lockedFrom`), and otherwise the fold over the logical channels resets each serving channel once (`State.resetServing_foldl`). -/
theorem hrstDeassertResumes : Obligations.HrstDeassertResumes := by
  refine ⟨fun s hh hv => ?_, fun s hh => ?_, fun s => rfl⟩
  · rw [exec_hrstDeassert s hh hv]
    by_cases hw : s.gate.st = .lockWait
    · rw [if_pos (beq_iff_eq.mpr hw)]
      obtain ⟨hmap, hrst, -⟩ := s.released.lock_frame
      refine ⟨_, rfl, hrst, hmap, fun sl => ?_, fun _ => s.released.lock_lockedFrom, fun h => absurd hw h⟩
      rw [State.lock_slices, State.released_lock]
    · rw [if_neg (mt beq_iff_eq.mp hw)]
      have hfree : ∀ sl : SliceN, s.released.slices[sl].lock.held = false := fun sl => by rw [State.released_lock]
      have hk := State.resetServing_foldl_keeps (fins 128) s.released hfree
      refine ⟨_, rfl, hk.hrstN, hk.map, fun sl => ?_, fun h => absurd h hw, fun _ n p hp => ?_⟩
      · rw [hk.slices, State.released_lock]
      · obtain ⟨⟨hst, hfor, hscrub⟩, hinc⟩ := State.resetServing_foldl (fins 128) (fins_nodup 128) s.released hfree n (mem_fins n) p hp
        exact ⟨hst, hfor, hscrub, hinc⟩
  · show execVddCoreRemoval s = _
    unfold execVddCoreRemoval
    rw [hh]
    rfl

end Sys2Proof.Machine
end

section
/-! SUPPORT. The commands of TER_SVC: which of them runs, and what one that is refused leaves (R543, R641, R654, R657, R658). -/

namespace Sys2Proof.Machine

/-! ## The command as an instruction -/

/-- Under power a command of TER_SVC is the write of its register. -/
theorem exec_svcCmd (s : State) (op : Nat) (t : Ter) (all : Bool) (k : Fin 32) (r : Rqr) (hp : s.porN = true) (h1 : 1 ≤ op) (h6 : op ≤ 6)
    (ha : 3 ≤ op → all = false) : exec (svcCmd op t all k r) s = .next (s.service t op all k r) := by
  have h : exec (svcCmd op t all k r) s = when s.porN s (s.service t op all k r) := by
    obtain rfl | rfl | rfl | rfl | rfl | rfl : op = 1 ∨ op = 2 ∨ op = 3 ∨ op = 4 ∨ op = 5 ∨ op = 6 := by omega
    · rfl
    · rfl
    all_goals
      rw [ha (by decide)]
      rfl
  rw [h, hp]
  rfl

/-- The rights that a command needs (R543). -/
def State.commands (s : State) (t : Ter) (op : Nat) (all : Bool) (target : Nat) (r : Rqr) : Bool :=
  if op ≥ 5 then s.secure r else s.mayServe r (namedBy t op all target)

theorem State.commands_secure {s : State} {r : Rqr} (t : Ter) (op : Nat) (all : Bool) (target : Nat) (h : s.secure r = true) :
    s.commands t op all target r = true := by
  unfold State.commands State.mayServe
  rw [h]
  split <;> rfl

theorem State.commands_denied {s : State} {r : Rqr} (t : Ter) (op : Nat) (all : Bool) (target : Nat) (h : s.secure r = false)
    (hr : 5 ≤ op ∨ s.right r DomSt.svc = false) : s.commands t op all target r = false := by
  unfold State.commands State.mayServe
  split
  · exact h
  next h5 =>
    rw [h, hr.resolve_left h5]
    rfl

section
variable {s : State} {t : Ter} {op : Nat} {all : Bool} {target : Nat} {r : Rqr}

theorem State.service_isolated (hk : s.gate.locked = true) (hm : s.gate.mode = false) : s.service t op all target r = s.refuseLocked (svcOff t) r := by
  unfold State.service
  rw [if_pos (by rw [hk, hm]; rfl)]

variable (h1 : 1 ≤ op) (h6 : op ≤ 6)
include h1 h6

theorem State.service_unlocked (hk : s.gate.locked = false) :
    s.service t op all target r = if s.secure r then s.svcReject t op target 1 else s.refuseDenied (svcOff t) r := by
  unfold State.service
  rw [if_neg (by simp [hk]), if_neg (by simp; omega), if_pos (by simp [hk])]

theorem State.service_locked (hk : s.gate.locked = true) (hm : s.gate.mode = true) :
    s.service t op all target r = if s.commands t op all target r then s.svcRun t op all target else (s.refuseDenied (svcOff t) r).svcReject t op target 1 := by
  unfold State.service
  rw [if_neg (by simp [hm]), if_neg (by simp; omega), if_neg (by simp [hk])]
  rfl

end

/-! ## Refusals -/

/-- What a command that is not accepted leaves (R641). -/
theorem State.svcReject_frame (s : State) (t : Ter) (op target result : Nat) :
    s.svcReject t op target result = { s with
      ters := (s.modT t fun x => { x with op, target, sfail := true, result }).ters, free := s.free + 1, ldg := (s.svcReject t op target result).ldg } := by
  unfold State.svcReject
  dsimp only
  rw [State.post_frame]
  rfl

theorem State.svcReject_ters (s : State) (t x : Ter) (op target result : Nat) :
    (s.svcReject t op target result).ters[x] = if t = x then { s.ters[t] with op, target, sfail := true, result } else s.ters[x] := by
  rw [State.svcReject_frame]
  exact State.modT_ters s t x fun x => { x with op, target, sfail := true, result }

theorem State.svcReject_refused (s : State) (t : Ter) (op : Nat) (k : Fin 32) (code : Nat) : svcRefused t op k code s (s.svcReject t op k code) := by
  refine ⟨?_, fun x hx => ?_, ?_⟩
  · rw [State.svcReject_ters, if_pos rfl]
  · rw [State.svcReject_ters, if_neg (Ne.symm hx)]
  · rw [State.svcReject_frame]

/-! ## The command that runs -/

/-- What a free terrace and no load give (R641, R654). -/
theorem State.svcFree_iff (s : State) (t : Ter) (r : Rqr) : s.svcFree t r = true ↔
    s.porN = true ∧ s.secure r = true ∧ s.gate.locked = true ∧ s.gate.mode = true ∧ s.svc.busy = false ∧ s.ters[t].busy = false
      ∧ s.ters[t].cmd = none ∧ s.ters[t].tko = none := by
  simp only [State.svcFree, State.mgSecure, Bool.and_eq_true, Bool.not_eq_true', Option.isNone_iff_eq_none, and_assoc]

theorem State.takenNow_none {s : State} {t : Ter} (h : s.ters[t].tko = none) (ls : List Log) : s.takenNow t ls = false := by
  unfold State.takenNow
  rw [h]
  rfl

section
variable {s : State} {t : Ter} {r : Rqr} (h : s.svcFree t r = true)
include h

/-- Under a free terrace the command is the write of a register that runs. -/
theorem exec_svcCmd_free (op : Nat) (all : Bool) (k : Fin 32) (h1 : 1 ≤ op) (h6 : op ≤ 6) (ha : 3 ≤ op → all = false) :
    exec (svcCmd op t all k r) s = .next (s.svcRun t op all k) := by
  obtain ⟨hp, hs, hk, hm, -⟩ := (s.svcFree_iff t r).mp h
  rw [exec_svcCmd s op t all k r hp h1 h6 ha, State.service_locked h1 h6 hk hm, State.commands_secure t op all k hs]
  rfl

/-- OUT of a free terrace. -/
theorem State.svcRun_out (all : Bool) (k : Nat) : s.svcRun t 1 all k = s.svcOut t all k (namedBy t 1 all k) := by
  obtain ⟨-, -, -, -, hsvc, hb, hc, ht⟩ := (s.svcFree_iff t r).mp h
  unfold State.svcRun
  dsimp only
  rw [State.takenNow_none ht, hb, hc, hsvc]
  rfl

/-- RETURN of a free terrace. -/
theorem State.svcRun_ret (all : Bool) (k : Nat) : s.svcRun t 2 all k = s.svcReturn t all k (namedBy t 2 all k) := by
  obtain ⟨-, -, -, -, hsvc, hb, hc, ht⟩ := (s.svcFree_iff t r).mp h
  unfold State.svcRun
  dsimp only
  rw [State.takenNow_none ht, hb, hc, hsvc]
  rfl

theorem State.svcRun_swap {k : Nat} {n : Log} (hn : namedBy t 3 false k = [n]) : s.svcRun t 3 false k = s.svcSwap t k n := by
  obtain ⟨-, -, -, -, hsvc, hb, hc, ht⟩ := (s.svcFree_iff t r).mp h
  unfold State.svcRun
  dsimp only
  rw [State.takenNow_none ht, hb, hc, hsvc]
  rw [hn]
  rfl

theorem State.svcRun_reset {k : Nat} {n : Log} (hn : namedBy t 4 false k = [n]) : s.svcRun t 4 false k = s.svcReset t k n := by
  obtain ⟨-, -, -, -, hsvc, hb, hc, ht⟩ := (s.svcFree_iff t r).mp h
  unfold State.svcRun
  dsimp only
  rw [State.takenNow_none ht, hb, hc, hsvc]
  rw [hn]
  rfl

/-- A command from SWAP on that names no channel (R657). -/
theorem State.svcRun_unnamed {op k : Nat} (h3 : 3 ≤ op) (h6 : op ≤ 6) (hn : op ≤ 4 → namedBy t op false k = []) (hp : 5 ≤ op → physBy t k = none) :
    s.svcRun t op false k = s.svcReject t op k 2 := by
  obtain ⟨-, -, -, -, hsvc, hb, hc, ht⟩ := (s.svcFree_iff t r).mp h
  unfold State.svcRun
  dsimp only
  rw [State.takenNow_none ht, hb, hc, hsvc]
  obtain rfl | rfl | rfl | rfl : op = 3 ∨ op = 4 ∨ op = 5 ∨ op = 6 := by omega
  · rw [hn (by decide)]; rfl
  · rw [hn (by decide)]; rfl
  · rw [hp (by decide)]; rfl
  · rw [hp (by decide)]; rfl

end

/-! ## What an accepted command leaves -/

/-- The clock of the terrace is all that the restart of its tree changes. -/
theorem State.restartTree_ters (s : State) (t x : Ter) :
    ∃ stopped asleepA runA, (s.restartTree t).ters[x] = { s.ters[x] with stopped, asleepA, runA } := by
  unfold State.restartTree
  rw [State.modT_ters]
  split
  next h => subst h; exact ⟨_, _, _, rfl⟩
  · exact ⟨_, _, _, rfl⟩

theorem State.svcBegin_frame (s : State) (t : Ter) (op k : Nat) (all : Bool) (logs : List Nat) (p : Nat) :
    s.svcBegin t op k all logs p = { s with ters := (s.svcBegin t op k all logs p).ters } := rfl

/-- An accepted command runs (R658). -/
theorem State.svcBegin_ters (s : State) (t : Ter) (op k : Nat) (all : Bool) (logs : List Nat) (p : Nat) :
    (s.svcBegin t op k all logs p).ters[t] = { (s.restartTree t).ters[t] with op, target := k, cmd := some { op, all, logs, phys := p, at_ := s.aclk } } := by
  unfold State.svcBegin
  rw [State.modT_ters, if_pos rfl]

theorem State.svcBegin_cmd (s : State) (t : Ter) (op k : Nat) (all : Bool) (logs : List Nat) (p : Nat) :
    (s.svcBegin t op k all logs p).ters[t].cmd = some { op, all, logs, phys := p, at_ := s.aclk } := by
  rw [State.svcBegin_ters]

/-- The logical channel that place `i` of a terrace names (R657). -/
theorem namedBy_place (t : Ter) (op : Nat) (i : Fin 16) : namedBy t op false i = [logAt t i] := by
  unfold namedBy
  rw [if_neg (by simp), if_pos i.isLt]
  exact congrArg (fun j => [logAt t j]) (Fin.ext (Nat.mod_eq_of_lt i.isLt))

theorem namedBy_past (t : Ter) (op : Nat) {k : Nat} (hk : 16 ≤ k) : namedBy t op false k = [] := by
  unfold namedBy
  rw [if_neg (by simp), if_neg (by omega)]

end Sys2Proof.Machine
end

section
/-! SUPPORT. SWAP and RESET, and what refuses a service command (R47, R49, R143, R641, R646, R648, R654, R658). -/

namespace Sys2Proof.Machine

/-! ## SWAP and RESET -/

/-- A channel that a SWAP takes, with a reserve: the reserve is aimed at it (R646). -/
theorem State.svcSwap_reserve (s : State) (t : Ter) (k : Nat) (n : Log) (p : Phys) (h : s.lch[n].oos = true ∨ s.map[n] = none) (hp : s.ters[t].reserve = some p) :
    s.svcSwap t k n = (s.svcBegin t 3 k false [n.val]).modT t fun x => { x with
      busy := true, tko := some { log := n, new := p, old := physOr s.map[n], at_ := s.aclk, swap := true, oos := s.lch[n].oos } } := by
  unfold State.svcSwap
  rw [if_neg (by rcases h with h | h <;> simp only [h] <;> simp), hp]

theorem State.svcSwap_noReserve (s : State) (t : Ter) (k : Nat) (n : Log) (h : s.lch[n].oos = true ∨ s.map[n] = none) (hp : s.ters[t].reserve = none) :
    s.svcSwap t k n = s.svcReject t 3 k 5 := by
  unfold State.svcSwap
  rw [if_neg (by rcases h with h | h <;> simp only [h] <;> simp), hp]

theorem State.svcSwap_inService (s : State) (t : Ter) (k : Nat) (n : Log) (h : s.lch[n].oos = false) (hn : s.map[n].isSome = true) :
    s.svcSwap t k n = s.svcReject t 3 k 2 := by
  unfold State.svcSwap
  rw [if_pos]
  rw [h, ← Option.not_isSome, hn]
  rfl

/-- What an aimed SWAP leaves. -/
theorem State.svcSwap_aims (s : State) (t : Ter) (k : Nat) (n : Log) (p : Phys) (h : s.lch[n].oos = true ∨ s.map[n] = none) (hp : s.ters[t].reserve = some p) :
    s.svcSwap t k n = { s with ters := (s.svcSwap t k n).ters } ∧ (s.svcSwap t k n).ters[t].busy = true
      ∧ (s.svcSwap t k n).ters[t].tko = some { log := n, new := p, old := physOr s.map[n], at_ := s.aclk, swap := true, oos := s.lch[n].oos }
      ∧ (s.svcSwap t k n).ters[t].cmd = some { op := 3, all := false, logs := [n.val], phys := 0, at_ := s.aclk } := by
  rw [State.svcSwap_reserve s t k n p h hp, State.modT_ters, if_pos rfl, State.svcBegin_ters]
  exact ⟨rfl, rfl, rfl, rfl⟩

theorem State.svcReset_serving (s : State) (t : Ter) (k : Nat) (n : Log) (p : Phys) (hp : s.servP n = some p) (ho : s.lch[n].oos = false) :
    s.svcReset t k n = (s.svcBegin t 4 k false [n.val]).channelReset p n := by
  unfold State.svcReset
  rw [hp, ho]
  rfl

theorem State.svcReset_idle (s : State) (t : Ter) (k : Nat) (n : Log) (h : s.servP n = none ∨ s.lch[n].oos = true) :
    s.svcReset t k n = s.svcReject t 4 k 2 := by
  unfold State.svcReset
  rcases h with h | h
  · rw [h]; rfl
  · rw [h]; cases s.servP n <;> rfl

/-- A RESET that is accepted (R143, R648). -/
theorem State.svcReset_resets (s : State) (t : Ter) (k : Nat) (n : Log) (p : Phys) (hp : s.servP n = some p) (ho : s.lch[n].oos = false) :
    (s.svcReset t k n).phys[p].resetting ∧ (s.svcReset t k n).phys[p].pend = []
      ∧ (∀ m : Log, (s.svcReset t k n).inc m = if n = m then (s.inc n + 1) % 16 else s.inc m)
      ∧ (∀ q : Qn, (s.svcReset t k n).que n q = (s.que n q).restore s.aclk)
      ∧ (s.svcReset t k n).ters[t].cmd = some { op := 4, all := false, logs := [n.val], phys := 0, at_ := s.aclk }
      ∧ (s.svcReset t k n).map = s.map ∧ sameOthers n s (s.svcReset t k n) ∧ samePhys p s (s.svcReset t k n) := by
  have hcmd := s.svcBegin_cmd t 4 k false [n.val] 0
  have hf := s.svcBegin_frame t 4 k false [n.val] 0
  rw [State.svcReset_serving s t k n p hp ho]
  generalize s.svcBegin t 4 k false [n.val] = w at hcmd hf
  refine ⟨w.channelReset_resetting p n, ?_, fun m => ?_, fun q => ?_, ?_, ?_, fun m hm => ?_, fun r hr => ?_⟩
  · rw [State.channelReset_phys]
  · rw [State.channelReset_inc, hf]; rfl
  · rw [State.channelReset_que, hf]; rfl
  · obtain ⟨_, _, _, h⟩ := w.restartTree_ters (terP p) t
    rw [State.channelReset_ters, h, hcmd]
  · rw [State.channelReset_map, hf]
  · rw [State.channelReset_others _ p n m hm, hf]
  · rw [State.channelReset_samePhys _ p n r hr, hf]

/-! ## What a free terrace refuses -/

theorem State.svcOut_none (s : State) (t : Ter) (k : Nat) (ls : List Log) (h : ∀ n ∈ ls, s.servP n = none ∨ s.lch[n].oos = true) :
    s.svcOut t false k ls = s.svcReject t 1 k 2 := by
  have hg : (ls.filter fun n => (s.servP n).isSome && !s.lch[n].oos) = [] := by
    refine List.filter_eq_nil_iff.mpr fun n hn => ?_
    rcases h n hn with h | h
    · rw [h]; exact Bool.false_ne_true
    · rw [h, Bool.not_true, Bool.and_false]; exact Bool.false_ne_true
  unfold State.svcOut
  rw [hg]
  rfl

theorem State.svcReturn_none (s : State) (t : Ter) (k : Nat) (ls : List Log) (h : ls = [] ∨ ∃ n ∈ ls, s.map[n] = none) :
    s.svcReturn t false k ls = s.svcReject t 2 k 2 := by
  unfold State.svcReturn
  rw [if_pos]
  rcases h with rfl | ⟨n, hn, hm⟩
  · rfl
  · have ha : (ls.any fun n => s.map[n].isNone) = true := List.any_eq_true.mpr ⟨n, hn, by rw [hm]; rfl⟩
    rw [ha, Bool.or_true]
    rfl

/-- A command whose channel is not in the state that it takes (R641). -/
theorem State.svcRun_refused {s : State} {t : Ter} {r : Rqr} (h : s.svcFree t r = true) (i : Fin 16) {n : Log} (hn : n = logAt t i) {op code : Nat}
    (hc : (op = 1 ∧ code = 2 ∧ (s.servP n = none ∨ s.lch[n].oos = true)) ∨ (op = 2 ∧ code = 2 ∧ s.map[n] = none)
      ∨ (op = 3 ∧ code = 2 ∧ s.lch[n].oos = false ∧ s.map[n].isSome = true)
      ∨ (op = 3 ∧ code = 5 ∧ (s.lch[n].oos = true ∨ s.map[n] = none) ∧ s.ters[t].reserve = none)
      ∨ (op = 4 ∧ code = 2 ∧ (s.servP n = none ∨ s.lch[n].oos = true))) : s.svcRun t op false i = s.svcReject t op i code := by
  have hname : ∀ op, namedBy t op false i = [n] := fun op => by rw [namedBy_place, hn]
  rcases hc with ⟨rfl, rfl, hx⟩ | ⟨rfl, rfl, hx⟩ | ⟨rfl, rfl, ho, hm⟩ | ⟨rfl, rfl, hx, hr⟩ | ⟨rfl, rfl, hx⟩
  · rw [State.svcRun_out h, hname]
    exact State.svcOut_none s t i [n] fun m hm => by rw [List.mem_singleton.mp hm]; exact hx
  · rw [State.svcRun_ret h, hname]
    exact State.svcReturn_none s t i [n] (.inr ⟨n, List.mem_singleton.mpr rfl, hx⟩)
  · rw [State.svcRun_swap h (hname 3)]
    exact State.svcSwap_inService s t i n ho hm
  · rw [State.svcRun_swap h (hname 3)]
    exact State.svcSwap_noReserve s t i n hx hr
  · rw [State.svcRun_reset h (hname 4)]
    exact State.svcReset_idle s t i n hx

/-- A TARGET that names nothing (R657). -/
theorem State.svcRun_past {s : State} {t : Ter} {r : Rqr} (h : s.svcFree t r = true) {op k : Nat} (h1 : 1 ≤ op) (h6 : op ≤ 6)
    (h16 : op ≤ 4 → 16 ≤ k) (h17 : 17 ≤ k ∨ op ≤ 4) : s.svcRun t op false k = s.svcReject t op k 2 := by
  obtain rfl | rfl | h3 : op = 1 ∨ op = 2 ∨ 3 ≤ op := by omega
  · rw [State.svcRun_out h, namedBy_past t 1 (h16 (by decide))]
    exact State.svcOut_none s t k [] nofun
  · rw [State.svcRun_ret h, namedBy_past t 2 (h16 (by decide))]
    exact State.svcReturn_none s t k [] (.inl rfl)
  · refine State.svcRun_unnamed h h3 h6 (fun h4 => namedBy_past t op (h16 h4)) fun h5 => ?_
    unfold physBy
    rw [if_neg (by omega)]

/-! ## What refuses every command -/

theorem State.takenNow_other {s : State} {t : Ter} {ls : List Log} (hx : ∀ x, s.ters[t].tko = some x → x.swap = true ∨ x.at_ ≠ s.aclk ∨ x.log ∉ ls) : s.takenNow t ls = false := by
  unfold State.takenNow
  cases hc : s.ters[t].tko with
  | none => rfl
  | some x =>
    rcases hx x hc with h | h | h
    · simp [h]
    · simp [h]
    · simp [h]

section
variable {s : State} {t : Ter} {op k : Nat} {all : Bool} {ls : List Log} (hl : ls = if op ≤ 4 then namedBy t op all k else [])
include hl

/-- A takeover of this aclk (R49). -/
theorem State.svcRun_taken {x : Tko} (hx : s.ters[t].tko = some x) (hs : x.swap = false) (ha : x.at_ = s.aclk) (hm : x.log ∈ ls) :
    s.svcRun t op all k = s.svcReject t op k 4 := by
  unfold State.svcRun
  dsimp only
  rw [← hl, if_pos]
  unfold State.takenNow
  rw [hx]
  simp [hs, ha, hm]

/-- A takeover or a command that runs; OUT leaves RETURN a place (R145, R654). -/
theorem State.svcRun_busy (ht : s.takenNow t ls = false) (hb : s.ters[t].busy = true ∨ (∃ x, s.ters[t].cmd = some x ∧ (op ≠ 2 ∨ x.op ≠ 1))) :
    s.svcRun t op all k = s.svcReject t op k 3 := by
  unfold State.svcRun
  dsimp only
  rw [← hl, if_neg (by rw [ht]; decide), if_pos]
  rcases hb with hb | ⟨x, hx, h | h⟩
  · rw [hb]; simp
  · rw [hx]; simp [h]
  · rw [hx]; simp [h]

/-- A load of one of the channels named (R654). -/
theorem State.svcRun_loading (ht : s.takenNow t ls = false) (hb : s.ters[t].busy = false) (hc : s.ters[t].cmd = none) (hs : s.svc.busy = true)
    (hn : ∃ n ∈ ls, n.val ∈ s.svc.named) : s.svcRun t op all k = s.svcReject t op k 6 := by
  obtain ⟨n, hn, hm⟩ := hn
  unfold State.svcRun
  dsimp only
  rw [← hl, if_neg (by rw [ht]; decide), hb, hc, if_neg (by exact Bool.false_ne_true), if_pos]
  rw [hs, Bool.true_and]
  exact List.any_eq_true.mpr ⟨n, hn, List.contains_iff_mem.mpr hm⟩

end

/-- The rights do not change what a command does (R543). -/
theorem State.service_sameRights {s : State} {t : Ter} {op k : Nat} {all : Bool} {r r' : Rqr} (h1 : 1 ≤ op) (h6 : op ≤ 6) (hk : s.gate.locked = true)
    (hm : s.gate.mode = true) (h : s.commands t op all k r = true) (h' : s.commands t op all k r' = true) :
    s.service t op all k r = s.service t op all k r' := by
  rw [State.service_locked h1 h6 hk hm, State.service_locked h1 h6 hk hm, h, h', if_pos rfl, if_pos rfl]

/-- Settles O26: the case equations of the commands' own operations for the first part, and for the refusals the order in which `State.service` and `State.svcRun` ask. -/
theorem swapAndResetBegin : Obligations.SwapAndResetBegin := by
  refine ⟨fun s t r i k n h hk hn => ?_, fun s t r i k n op code h hk hn hc => ?_, fun s t r k op all hp h1 h6 ha => ?_⟩
  · have h3 : namedBy t 3 false k = [n] := by rw [hk, namedBy_place, hn]
    have h4 : namedBy t 4 false k = [n] := by rw [hk, namedBy_place, hn]
    have hswap : exec (.swap t k r) s = .next (s.svcSwap t k n) := by
      rw [← State.svcRun_swap h h3]; exact exec_svcCmd_free h 3 false k (by decide) (by decide) fun _ => rfl
    have hreset : exec (.reset t k r) s = .next (s.svcReset t k n) := by
      rw [← State.svcRun_reset h h4]; exact exec_svcCmd_free h 4 false k (by decide) (by decide) fun _ => rfl
    obtain ⟨-, -, -, -, -, -, hcmd, -⟩ := (s.svcFree_iff t r).mp h
    refine ⟨fun p ho hr => ⟨_, hswap, ?_⟩, fun ho hr => ⟨_, hswap, ?_⟩, fun p hs ho => ⟨_, hreset, ?_⟩, fun hm p hr => ⟨_, hswap, ?_⟩⟩
    · obtain ⟨hu, hb, ht, hc⟩ := s.svcSwap_aims t k n p (.inl ho) hr
      rw [ht, hc, hu]
      exact ⟨by rw [ho]; rfl, hb, rfl, rfl, rfl, rfl, rfl, rfl⟩
    · rw [State.svcSwap_noReserve s t k n (.inl ho) hr, State.svcReject_ters, if_pos rfl, State.svcReject_frame]
      exact ⟨rfl, rfl, hcmd, rfl, rfl, rfl⟩
    · obtain ⟨⟨hst, hfor, hscrub⟩, hpend, hinc, hque, hc, hmap, hothers, hsame⟩ := s.svcReset_resets t k n p hs ho
      refine ⟨hst, hfor, hscrub, hpend, ?_, fun m hm => ?_, fun q => ?_, by rw [hc]; rfl, hmap, hothers, hsame⟩
      · rw [hinc, if_pos rfl]
      · rw [hinc, if_neg (Ne.symm hm)]
      · rw [hque]; exact ⟨Que.restore_st _ _, Que.restore_lastAcc _ _, Que.restore_kicks _ _⟩
    · obtain ⟨hu, hb, ht, hc⟩ := s.svcSwap_aims t k n p (.inr hm) hr
      rw [ht, hc, hu]
      exact ⟨rfl, hb, rfl, rfl, rfl, rfl⟩
  · have h14 : 1 ≤ op ∧ op ≤ 4 := by omega
    refine ⟨_, exec_svcCmd_free h op false k h14.1 (by omega) fun _ => rfl, ?_⟩
    rw [hk, State.svcRun_refused h i hn hc, ← hk]
    exact s.svcReject_refused t op k code
  · intro c ls
    have hx : ∀ r, exec (svcCmd op t all k r) s = .next (s.service t op all k r) := fun r => exec_svcCmd s op t all k r hp h1 h6 ha
    have hrun : s.gate.locked = true → s.gate.mode = true → s.secure r = true → exec c s = .next (s.svcRun t op all k) := fun hk hm hs => by
      rw [hx r, State.service_locked h1 h6 hk hm, State.commands_secure t op all k hs, if_pos rfl]
    refine ⟨fun hk => ⟨fun hs => ⟨_, hx r, ?_⟩, fun hs => ⟨_, hx r, ?_⟩⟩, fun hk hm => ⟨_, hx r, ?_⟩, fun hk hm hs hr => ⟨_, hx r, ?_⟩,
      fun hk hm h4 hr r' hs => ?_, fun hk hm hs => ⟨fun x hx' hsw hat hlog => ⟨_, hrun hk hm hs, ?_⟩, fun hno => ⟨fun hb => ⟨_, hrun hk hm hs, ?_⟩,
      fun hb hc hload hn => ⟨_, hrun hk hm hs, ?_⟩⟩⟩, fun hf hall h16 h17 => ?_⟩
    · rw [State.service_unlocked h1 h6 hk, if_pos hs]
      exact s.svcReject_refused t op k 1
    · rw [State.service_unlocked h1 h6 hk, if_neg (by rw [hs]; decide)]
      exact ⟨rfl, rfl, rfl, rfl, rfl⟩
    · rw [State.service_isolated hk hm]
      obtain ⟨w, hw⟩ := s.refuseLocked_frame (svcOff t) r
      rw [hw]
      exact ⟨rfl, rfl, rfl, rfl, rfl⟩
    · rw [State.service_locked h1 h6 hk hm, State.commands_denied t op all k hs hr, if_neg Bool.false_ne_true, State.svcReject_ters, if_pos rfl, State.svcReject_frame]
      exact ⟨rfl, rfl, rfl, rfl, rfl⟩
    · have hc : ∀ r, s.commands t op all k r = s.mayServe r ls := fun r => by
        unfold State.commands
        rw [if_neg (by omega)]
        exact congrArg (s.mayServe r) (if_pos h4).symm
      have hr' : s.mayServe r' ls = true := by unfold State.mayServe; rw [hs]; rfl
      rw [hx r', State.service_sameRights h1 h6 hk hm ((hc r').trans hr') ((hc r).trans hr)]
      exact hx r
    · rw [State.svcRun_taken (rfl : ls = _) hx' hsw hat hlog]
      exact s.svcReject_refused t op k 4
    · rw [State.svcRun_busy (rfl : ls = _) (State.takenNow_other hno) hb]
      exact s.svcReject_refused t op k 3
    · rw [State.svcRun_loading (rfl : ls = _) (State.takenNow_other hno) hb hc hload hn]
      exact s.svcReject_refused t op k 6
    · refine ⟨_, exec_svcCmd_free hf op all k h1 h6 ha, ?_⟩
      rw [hall, State.svcRun_past hf h1 h6 h16 h17]
      exact s.svcReject_refused t op k 2

end Sys2Proof.Machine
end

section
/-! SUPPORT. What a request to leave or enter service changes at one channel (R137, R141, R142, R145, R625). -/

namespace Sys2Proof.Machine

/-! ## One channel's frame -/

/-- The clock of the terrace tree aside, a terrace is as it was. -/
def sameButClock (x y : TerSt) : Prop := y = { x with stopped := y.stopped, asleepA := y.asleepA, runA := y.runA }

theorem sameButClock.refl (x : TerSt) : sameButClock x x := rfl

theorem sameButClock.trans {x y z : TerSt} (h : sameButClock x y) (k : sameButClock y z) : sameButClock x z := by
  unfold sameButClock at *
  rw [k, h]

/-- What an operation at logical channel `n` and channel `p` may change: their entries, the page of `p`, the clocks of the terraces, identities, the ledger and packets of the port. -/
structure AtChan (n : Log) (p : Phys) (s t : State) : Prop where
  state : t = { s with lch := t.lch, phys := t.phys, ters := t.ters, edge := t.edge, nextId := t.nextId, ldg := t.ldg, linkOut := t.linkOut }
  others : sameOthers n s t
  chans : samePhys p s t
  clocks : ∀ x : Ter, sameButClock s.ters[x] t.ters[x]

section
variable {n : Log} {p : Phys} {s t u : State}

theorem AtChan.refl (n : Log) (p : Phys) (s : State) : AtChan n p s s := ⟨rfl, fun _ _ => rfl, fun _ _ => rfl, fun _ => rfl⟩

theorem AtChan.trans (h : AtChan n p s t) (k : AtChan n p t u) : AtChan n p s u where
  state := by rw [k.state, h.state]
  others m hm := (k.others m hm).trans (h.others m hm)
  chans r hr := (k.chans r hr).trans (h.chans r hr)
  clocks x := (h.clocks x).trans (k.clocks x)

theorem AtLog.atChan (h : AtLog n s t) (p : Phys) : AtChan n p s t where
  state := by rw [h.state]
  others := h.others
  chans r _ := by rw [h.phys]
  clocks x := by rw [h.ters]; exact .refl _

theorem AtChan.modP (n : Log) (p : Phys) (s : State) (f : PCh → PCh) : AtChan n p s (s.modP p f) where
  state := rfl
  others _ _ := rfl
  chans r hr := by rw [State.modP_phys, if_neg (Ne.symm hr)]
  clocks _ := rfl

theorem AtChan.restartTree (n : Log) (p : Phys) (s : State) (t : Ter) : AtChan n p s (s.restartTree t) where
  state := rfl
  others _ _ := rfl
  chans _ _ := rfl
  clocks x := by
    obtain ⟨_, _, _, h⟩ := s.restartTree_ters t x
    rw [h]
    rfl

theorem AtChan.newPage (n : Log) (p : Phys) (s : State) : AtChan n p s (s.newPage p) :=
  (AtChan.modP n p s _).trans ⟨rfl, fun _ _ => rfl, fun _ _ => rfl, fun _ => rfl⟩

theorem AtChan.map (h : AtChan n p s t) : t.map = s.map := by rw [h.state]
theorem AtChan.fence (h : AtChan n p s t) : t.fence = s.fence := by rw [h.state]
theorem AtChan.gate (h : AtChan n p s t) : t.gate = s.gate := by rw [h.state]
theorem AtChan.aclk (h : AtChan n p s t) : t.aclk = s.aclk := by rw [h.state]
theorem AtChan.cmd (h : AtChan n p s t) (x : Ter) : t.ters[x].cmd = s.ters[x].cmd := by rw [h.clocks x]

end

/-! ## The channel drain -/

/-- An update of the entry beside its queues. -/
theorem State.modL_que_kept (s : State) (n : Log) (f : LCh → LCh) (hf : ∀ l, (f l).qs = l.qs) (m : Log) (q : Qn) : (s.modL n f).que m q = s.que m q := by
  have h : (s.modL n f).lch[m].qs = s.lch[m].qs := by
    rw [State.modL_lch]
    split
    next h => rw [hf, h]
    · rfl
  exact congrArg (fun v : Vector Que 4 => v[q]) h

/-- A queue under a channel drain notes whether it was enabled, and takes a drain request. -/
def State.askDrain (n : Log) (s : State) (q : Qn) : State :=
  let on := (s.que n q).st == .active || (s.que n q).st == .halted
  (s.modQ n q fun u => { u with wasOn := on || (u.st == .draining && u.enp) }).drainReq n q

theorem State.channelDrain_eq (s : State) (n : Log) :
    s.channelDrain n = ((fins 4).foldl (State.askDrain n) s).modL n fun l => { l with drain := true } := rfl

theorem AtLog.askDrain (n : Log) (s : State) (q : Qn) : AtLog n s (s.askDrain n q) := (AtLog.modQ n q s _).trans (.drainReq n q _)

theorem AtLog.channelDrain (n : Log) (s : State) : AtLog n s (s.channelDrain n) := by
  rw [State.channelDrain_eq]
  exact (AtLog.foldl _ (AtLog.askDrain n) _ s).trans (.modL n _ _)

/-- Only the queues of the entry change. -/
def sameButQueues (x y : LCh) : Prop := y = { x with qs := y.qs }

theorem sameButQueues.trans {x y z : LCh} (h : sameButQueues x y) (k : sameButQueues y z) : sameButQueues x z := by
  unfold sameButQueues at *
  rw [k, h]

theorem State.modQ_sameButQueues (s : State) (n : Log) (q : Qn) (f : Que → Que) : sameButQueues s.lch[n] (s.modQ n q f).lch[n] := by
  unfold State.modQ
  rw [State.modL_lch, if_pos rfl]
  rfl

theorem State.drainReq_sameButQueues (s : State) (n : Log) (q : Qn) : sameButQueues s.lch[n] (s.drainReq n q).lch[n] := by
  obtain ⟨k, h⟩ := s.drainReq_eq n q
  rw [h]
  exact s.modQ_sameButQueues n q _

theorem State.askDrains_sameButQueues (n : Log) (l : List Qn) (s : State) : sameButQueues s.lch[n] (l.foldl (State.askDrain n) s).lch[n] := by
  induction l generalizing s with
  | nil => rfl
  | cons q l ih => exact ((s.modQ_sameButQueues n q _).trans (State.drainReq_sameButQueues _ n q)).trans (ih _)

theorem State.askDrain_que_st (s : State) (n : Log) (q r : Qn) :
    ((s.askDrain n q).que n r).st = if q = r then if (s.que n r).st = .disabled then .disabled else .draining else (s.que n r).st := by
  unfold State.askDrain
  dsimp only
  split
  next h =>
    subst h
    rw [State.drainReq_que, Que.drainAsked_st, State.modQ_que]
  next h => rw [State.drainReq_que_ne _ n h, State.modQ_que_ne _ n h]

theorem State.askDrains_que_st (n : Log) (q : Qn) (l : List Qn) (s : State) :
    ((l.foldl (State.askDrain n) s).que n q).st = if q ∈ l ∧ (s.que n q).st ≠ .disabled then .draining else (s.que n q).st := by
  induction l generalizing s with
  | nil => rw [if_neg (fun h => absurd h.1 List.not_mem_nil)]; rfl
  | cons r l ih =>
    rw [List.foldl_cons, ih, State.askDrain_que_st]
    by_cases hd : (s.que n q).st = .disabled
    · simp [hd]
    · by_cases hr : r = q
      · simp [hr, hd]
      · simp [hr, hd, Ne.symm hr]

/-- Every queue that is enabled is DRAINING under a channel drain (R137, R141). -/
theorem State.channelDrain_que_st (s : State) (n : Log) (q : Qn) :
    ((s.channelDrain n).que n q).st = if (s.que n q).st = .disabled then .disabled else .draining := by
  have h := State.askDrains_que_st n q (fins 4) s
  rw [State.channelDrain_eq]
  rw [State.modL_que_kept _ n (fun l => { l with drain := true }) (fun _ => rfl), h]
  by_cases hd : (s.que n q).st = .disabled
  · rw [if_neg (fun k => k.2 hd), if_pos hd, hd]
  · rw [if_pos ⟨mem_fins q, hd⟩, if_neg hd]

/-- Beside the queues a channel drain sets its note alone. -/
theorem State.channelDrain_lch (s : State) (n : Log) : ∃ qs, (s.channelDrain n).lch[n] = { s.lch[n] with qs, drain := true } := by
  refine ⟨((fins 4).foldl (State.askDrain n) s).lch[n].qs, ?_⟩
  rw [State.channelDrain_eq, State.modL_lch, if_pos rfl, State.askDrains_sameButQueues n (fins 4) s]

end Sys2Proof.Machine
end

section
/-! SUPPORT. OUT and RETURN of a terrace (R141, R145, R642, R645, R654). -/

namespace Sys2Proof.Machine

/-! ## A request to one channel -/

theorem State.servP_eq {s : State} {n : Log} {p : Phys} (hm : s.map[n] = some p) (hs : s.phys[p].st.serves = true) : s.servP n = some p := by
  rw [State.servP, hm]
  exact Option.filter_some.trans (if_pos hs)

theorem State.servP_eq_none {s : State} {n : Log} {p : Phys} (hm : s.map[n] = some p) (hs : s.phys[p].st.serves = false) : s.servP n = none := by
  rw [State.servP, hm]
  exact Option.filter_some.trans (if_neg (by rw [hs]; decide))

/-- OUT notes what it found at `n`, which `p` serves (R49, R642). -/
def State.noteOut (s : State) (p : Phys) (n : Log) (all : Bool) : State :=
  s.modL n fun l => { l with outReq := some (s.aclk, all), preOut := some ⟨s.aclk, s.phys[p].st, s.preQs n⟩ }

/-- The channel goes to DRAINING when it is active again. -/
def State.drainLater (s : State) (p : Phys) : State := s.modP p fun c => { c with toDrain := true }

section
variable {s : State} {n : Log} {p : Phys} (hp : s.servP n = some p) (all : Bool)
include hp

theorem State.outRequest_dormant (hst : s.phys[p].st = .dormant) : s.outRequest n all = ((s.noteOut p n all).beginWake p).drainLater p := by
  unfold State.outRequest
  rw [hp]
  dsimp only
  unfold State.noteOut
  rw [show (s.modL n _).phys = s.phys from rfl, hst]
  rfl

theorem State.outRequest_waking (hst : s.phys[p].st = .waking) : s.outRequest n all = (s.noteOut p n all).drainLater p := by
  unfold State.outRequest
  rw [hp]
  dsimp only
  unfold State.noteOut
  rw [show (s.modL n _).phys = s.phys from rfl, hst]
  rfl

theorem State.outRequest_draining (hst : s.phys[p].st = .draining) : s.outRequest n all = s.noteOut p n all := by
  unfold State.outRequest
  rw [hp]
  dsimp only
  unfold State.noteOut
  rw [show (s.modL n _).phys = s.phys from rfl, hst]

theorem State.outRequest_active (hst : s.phys[p].st = .active) (he : s.phys[p].entry = 0) : s.outRequest n all = (s.noteOut p n all).removeNow p n := by
  unfold State.outRequest
  rw [hp]
  dsimp only
  unfold State.noteOut
  rw [show (s.modL n _).phys = s.phys from rfl, hst]
  exact if_pos he

/-- A dormant entry is given up where it still can be (R623). -/
theorem State.outRequest_entering (hst : s.phys[p].st = .active) (he : s.phys[p].entry ≠ 0) :
    s.outRequest n all = ((s.noteOut p n all).demand p).removeNow p n ∨ s.outRequest n all = ((s.noteOut p n all).demand p).drainLater p := by
  unfold State.outRequest
  rw [hp]
  dsimp only
  unfold State.noteOut
  rw [show (s.modL n _).phys = s.phys from rfl, hst]
  dsimp only
  rw [if_neg he]
  split
  · exact .inl rfl
  · exact .inr rfl

end

theorem State.outRequest_none {s : State} {n : Log} (h : s.servP n = none) (all : Bool) : s.outRequest n all = s := by
  unfold State.outRequest
  rw [h]

/-- What a dormancy demand may change. -/
theorem State.demand_frame (s : State) (p : Phys) : s.demand p = { s with phys := (s.demand p).phys, ters := (s.demand p).ters } := by
  unfold State.demand
  dsimp only
  split
  · rfl
  · split
    · rfl
    · split <;> rfl
  · rfl

theorem AtChan.beginWake (n : Log) (p : Phys) (s : State) : AtChan n p s (s.beginWake p) := (AtChan.restartTree n p s _).trans (.modP n p _ _)

theorem AtChan.demand (n : Log) (p : Phys) (s : State) : AtChan n p s (s.demand p) := by
  unfold State.demand
  dsimp only
  split
  · exact .beginWake n p s
  · split
    · exact .modP n p s _
    · split
      · exact .modP n p s _
      · exact .modP n p s _
  · exact .refl n p s

theorem AtChan.noteOut (n : Log) (p : Phys) (s : State) (all : Bool) : AtChan n p s (s.noteOut p n all) := (AtLog.modL n s _).atChan p

theorem AtChan.drainLater (n : Log) (p : Phys) (s : State) : AtChan n p s (s.drainLater p) := .modP n p s _

theorem AtChan.removeNow (n : Log) (p : Phys) (s : State) : AtChan n p s (s.removeNow p n) := (AtChan.modP n p s _).trans ((AtLog.channelDrain n _).atChan p)

theorem State.noteOut_outReq (s : State) (p : Phys) (n : Log) (all : Bool) : (s.noteOut p n all).lch[n].outReq = some (s.aclk, all) := by
  unfold State.noteOut
  rw [State.modL_lch, if_pos rfl]

theorem State.noteOut_que (s : State) (p : Phys) (n : Log) (all : Bool) (q : Qn) : (s.noteOut p n all).que n q = s.que n q := by
  refine s.modL_que_kept n _ ?_ n q
  exact fun _ => rfl

theorem State.drainLater_phys (s : State) (p : Phys) : (s.drainLater p).phys[p] = { s.phys[p] with toDrain := true } := by
  unfold State.drainLater
  rw [State.modP_phys, if_pos rfl]

theorem State.beginWake_phys (s : State) (p : Phys) :
    (s.beginWake p).phys[p].st = .waking ∧ (s.beginWake p).phys[p].wakeA = some s.aclk := by
  unfold State.beginWake
  rw [State.modP_phys, if_pos rfl]
  exact ⟨rfl, rfl⟩

/-- A removal drains the channel and its logical channel (R141). -/
theorem State.removeNow_drains (s : State) (p : Phys) (n : Log) :
    (s.removeNow p n).phys[p].st = .draining ∧ (∃ qs, (s.removeNow p n).lch[n] = { s.lch[n] with qs, drain := true })
      ∧ ∀ q : Qn, ((s.removeNow p n).que n q).st = if (s.que n q).st = .disabled then .disabled else .draining := by
  unfold State.removeNow
  refine ⟨?_, State.channelDrain_lch _ n, State.channelDrain_que_st _ n⟩
  rw [(AtLog.channelDrain n _).phys, State.modP_phys, if_pos rfl]

theorem State.demand_lch (s : State) (p : Phys) : (s.demand p).lch = s.lch := by rw [State.demand_frame]

section
variable {s : State} {n : Log} {p : Phys} (hp : s.servP n = some p) (all : Bool)
include hp

/-- An out-of-service request stays at its channel. -/
theorem AtChan.outRequest : AtChan n p s (s.outRequest n all) := by
  have hnote := AtChan.noteOut n p s all
  cases hst : s.phys[p].st with
  | dormant => rw [State.outRequest_dormant hp all hst]; exact (hnote.trans (.beginWake n p _)).trans (.drainLater n p _)
  | waking => rw [State.outRequest_waking hp all hst]; exact hnote.trans (.drainLater n p _)
  | draining => rw [State.outRequest_draining hp all hst]; exact hnote
  | active =>
    by_cases he : s.phys[p].entry = 0
    · rw [State.outRequest_active hp all hst he]; exact hnote.trans (.removeNow n p _)
    · rcases State.outRequest_entering hp all hst he with h | h
      · rw [h]; exact (hnote.trans (.demand n p _)).trans (.removeNow n p _)
      · rw [h]; exact (hnote.trans (.demand n p _)).trans (.drainLater n p _)
  | off => exact absurd (State.serves_of_servP hp) (by rw [hst]; decide)
  | quarantined => exact absurd (State.serves_of_servP hp) (by rw [hst]; decide)
  | reserve => exact absurd (State.serves_of_servP hp) (by rw [hst]; decide)

/-- The request stands at its logical channel (R642). -/
theorem State.outRequest_outReq : (s.outRequest n all).lch[n].outReq = some (s.aclk, all) := by
  have hnote := s.noteOut_outReq p n all
  have hdrain : ∀ w : State, (w.removeNow p n).lch[n].outReq = w.lch[n].outReq := fun w => by
    obtain ⟨-, ⟨qs, h⟩, -⟩ := w.removeNow_drains p n
    rw [h]
  cases hst : s.phys[p].st with
  | dormant => rw [State.outRequest_dormant hp all hst]; exact hnote
  | waking => rw [State.outRequest_waking hp all hst]; exact hnote
  | draining => rw [State.outRequest_draining hp all hst]; exact hnote
  | active =>
    by_cases he : s.phys[p].entry = 0
    · rw [State.outRequest_active hp all hst he, hdrain]; exact hnote
    · rcases State.outRequest_entering hp all hst he with h | h
      · rw [h, hdrain, State.demand_lch]; exact hnote
      · rw [h]
        refine Eq.trans ?_ hnote
        rw [← State.demand_lch (s.noteOut p n all) p]
        rfl
  | off => exact absurd (State.serves_of_servP hp) (by rw [hst]; decide)
  | quarantined => exact absurd (State.serves_of_servP hp) (by rw [hst]; decide)
  | reserve => exact absurd (State.serves_of_servP hp) (by rw [hst]; decide)

end

/-! ## A return request -/

/-- RETURN notes what it finds and acts on one logical channel. -/
def State.returnStep (done : Bool) (s : State) (n : Log) : State := (s.noteReturn n done).returnRequest n

theorem State.noteReturn_none {s : State} {n : Log} (h : s.servP n = none) (done : Bool) : s.noteReturn n done = s := by
  unfold State.noteReturn
  rw [h]

theorem State.noteReturn_some {s : State} {n : Log} {p : Phys} (h : s.servP n = some p) (done : Bool) :
    s.noteReturn n done = s.modL n fun l => { l with retReq := some ⟨s.aclk, done, s.phys[p].chEnp⟩ } := by
  unfold State.noteReturn
  rw [h]

theorem AtLog.noteReturn (n : Log) (s : State) (done : Bool) : AtLog n s (s.noteReturn n done) := by
  unfold State.noteReturn
  split
  · exact .modL n s _
  · exact .refl n s

theorem State.noteReturn_que (s : State) (n : Log) (done : Bool) (m : Log) (q : Qn) : (s.noteReturn n done).que m q = s.que m q := by
  unfold State.noteReturn
  split
  · refine s.modL_que_kept n _ ?_ m q
    exact fun _ => rfl
  · rfl

/-- The restore of a channel that leaves OFF (R141). -/
def State.leaveOff (s : State) (p : Phys) : State :=
  (s.newPage p).modP p fun c => { c with st := .waking, wakeFor := .off, scrub := true, wakeA := none, missed := 0, monA := s.aclk, quiet := 0 }

theorem State.leaveOff_phys (s : State) (p : Phys) :
    (s.leaveOff p).phys[p].st = .waking ∧ (s.leaveOff p).phys[p].wakeFor = .off ∧ (s.leaveOff p).phys[p].scrub = true := by
  unfold State.leaveOff
  rw [State.modP_phys, if_pos rfl]
  exact ⟨rfl, rfl, rfl⟩

section
variable {s : State} {n : Log} {p : Phys} (hm : s.map[n] = some p)
include hm

theorem State.returnRequest_draining (hst : s.phys[p].st = .draining) : s.returnRequest n = s.modP p fun c => { c with chEnp := true } := by
  unfold State.returnRequest
  rw [hm]
  dsimp only
  rw [hst]

theorem State.returnRequest_off (hst : s.phys[p].st = .off) (ho : s.lch[n].oos = true) : s.returnRequest n = s.leaveOff p := by
  unfold State.returnRequest
  rw [hm]
  dsimp only
  rw [hst]
  exact if_pos ho

theorem State.returnRequest_other (hst : s.phys[p].st ≠ .draining) (ho : s.phys[p].st = .off → s.lch[n].oos = false) : s.returnRequest n = s := by
  unfold State.returnRequest
  rw [hm]
  dsimp only
  cases h : s.phys[p].st with
  | draining => exact absurd h hst
  | off => exact if_neg (by rw [ho h]; decide)
  | dormant | waking | active | quarantined | reserve => rfl

/-- A return request stays at its channel, and changes neither the logical channels nor the terraces. -/
theorem State.returnRequest_at : AtChan n p s (s.returnRequest n) ∧ (s.returnRequest n).lch = s.lch ∧ (s.returnRequest n).ters = s.ters := by
  by_cases hd : s.phys[p].st = .draining
  · rw [State.returnRequest_draining hm hd]
    exact ⟨.modP n p s _, rfl, rfl⟩
  · by_cases ho : s.phys[p].st = .off ∧ s.lch[n].oos = true
    · rw [State.returnRequest_off hm ho.1 ho.2]
      exact ⟨(AtChan.newPage n p s).trans (.modP n p _ _), rfl, rfl⟩
    · rw [State.returnRequest_other hm hd fun h => Bool.eq_false_iff.mpr fun k => ho ⟨h, k⟩]
      exact ⟨.refl n p s, rfl, rfl⟩

end

theorem State.returnRequest_unserved {s : State} {n : Log} (hm : s.map[n] = none) : s.returnRequest n = s := by
  unfold State.returnRequest
  rw [hm]

/-! ## The commands for one channel -/

/-- OUT of a channel in service: the request reaches it while the command runs (R642). -/
theorem State.svcOut_one {s : State} {n : Log} {p : Phys} (t : Ter) (k : Nat) (hp : s.servP n = some p) (ho : s.lch[n].oos = false) :
    ∃ w : State, s.svcOut t false k [n] = w.outRequest n false ∧ w = { s with ters := w.ters }
      ∧ w.ters[t].cmd = some { op := 1, all := false, logs := [n.val], phys := 0, at_ := s.aclk } := by
  refine ⟨s.svcBegin t 1 k false [n.val], ?_, s.svcBegin_frame t 1 k false _ 0, s.svcBegin_cmd t 1 k false _ 0⟩
  have hg : [n].filter (fun n => (s.servP n).isSome && !s.lch[n].oos) = [n] := by
    rw [List.filter_singleton, hp, ho]
    rfl
  unfold State.svcOut
  rw [hg]
  rfl

/-- RETURN of a channel out of service (R645). -/
theorem State.svcReturn_oos {s : State} {n : Log} (t : Ter) (k : Nat) (hm : s.map[n].isSome = true) (ho : s.lch[n].oos = true) :
    ∃ w : State, s.svcReturn t false k [n] = w.returnStep s.ters[t].sdone n ∧ w = { s with ters := w.ters }
      ∧ w.ters[t].cmd = some { op := 2, all := false, logs := [n.val], phys := 0, at_ := s.aclk } := by
  refine ⟨s.svcBegin t 2 k false [n.val], ?_, s.svcBegin_frame t 2 k false _ 0, s.svcBegin_cmd t 2 k false _ 0⟩
  have hb : [n].filter (fun n => s.lch[n].oos) = [n] := by
    rw [List.filter_singleton, ho]
    rfl
  unfold State.svcReturn
  rw [hb, if_neg]
  · rfl
  · rw [List.any_cons, List.any_nil, ← Option.not_isSome, hm]
    exact Bool.false_ne_true

/-- A command that ends at once is DONE without an error (R658). -/
theorem State.svcIdle_ters (s : State) (t : Ter) (op k : Nat) :
    (s.svcIdle t op k).ters[t].sdone = true ∧ (s.svcIdle t op k).ters[t].result = 0 ∧ (s.svcIdle t op k).ters[t].cmd = none := by
  unfold State.svcIdle State.svcEnd
  rw [State.modT_ters, if_pos rfl]
  exact ⟨Bool.or_true _, rfl, rfl⟩

/-- RETURN of a channel that is not out of service: nothing is to be waited for (R645). -/
theorem State.svcReturn_inService {s : State} {n : Log} (t : Ter) (k : Nat) (hm : s.map[n].isSome = true) (ho : s.lch[n].oos = false) :
    ∃ w : State, s.svcReturn t false k [n] = w.returnStep s.ters[t].sdone n ∧ w = { s with ters := w.ters }
      ∧ w.ters[t].sdone = true ∧ w.ters[t].result = 0 ∧ w.ters[t].cmd = none := by
  refine ⟨(s.restartTree t).svcIdle t 2 k, ?_, rfl, State.svcIdle_ters _ t 2 k⟩
  have hb : [n].filter (fun n => s.lch[n].oos) = [] := by
    rw [List.filter_singleton, ho]
    rfl
  unfold State.svcReturn
  rw [hb, if_neg]
  · rfl
  · rw [List.any_cons, List.any_nil, ← Option.not_isSome, hm]
    exact Bool.false_ne_true

/-- RETURN while OUT of its channel runs (R145, R654). -/
theorem State.svcRun_late {s : State} {t : Ter} {c : SvcCmd} {n : Log} {k : Nat} (hb : s.ters[t].busy = false) (ht : s.ters[t].tko = none)
    (hs : s.svc.busy = false) (hc : s.ters[t].cmd = some c) (h1 : c.op = 1) (hn : namedBy t 2 false k = [n]) (hd : s.drains n = true) :
    s.svcRun t 2 false k = s.svcReturnDrain t k [n] := by
  unfold State.svcRun
  dsimp only
  rw [State.takenNow_none ht, hb, hc, hs, if_pos (by decide : 2 ≤ 4), hn, List.any_cons, hd]
  rw [Option.any_some, h1]
  rfl

/-! ## The commands for all channels of a terrace -/

theorem foldl_kept {σ α β : Type} (f : σ → α → σ) (V : σ → β) (l : List α) (h : ∀ s, ∀ a ∈ l, V (f s a) = V s) (s : σ) : V (l.foldl f s) = V s := by
  induction l generalizing s with
  | nil => rfl
  | cons a l ih => exact (ih (fun s b hb => h s b (List.mem_cons_of_mem a hb)) _).trans (h s a List.mem_cons_self)

/-- A view that only the visit of `a` changes is what that visit leaves. -/
theorem foldl_visit {σ α β : Type} (f : σ → α → σ) (Inv : σ → Prop) (V : σ → β) (a : α) (hInv : ∀ s b, Inv s → Inv (f s b))
    (hV : ∀ s b, Inv s → b ≠ a → V (f s b) = V s) (l : List α) (hl : l.Nodup) (ha : a ∈ l) (s : σ) (hs : Inv s) :
    ∃ s', Inv s' ∧ V s' = V s ∧ V (l.foldl f s) = V (f s' a) := by
  have hrest : ∀ (l : List α) (s : σ), Inv s → a ∉ l → V (l.foldl f s) = V s := fun l => by
    induction l with
    | nil => exact fun _ _ _ => rfl
    | cons b l ih =>
      intro s hs hal
      obtain ⟨hb, hl⟩ := List.ne_and_not_mem_of_not_mem_cons hal
      exact (ih _ (hInv s b hs) hl).trans (hV s b hs (Ne.symm hb))
  induction l generalizing s with
  | nil => exact absurd ha List.not_mem_nil
  | cons b l ih =>
    obtain ⟨hbl, hl'⟩ := List.nodup_cons.mp hl
    by_cases hb : b = a
    · subst hb
      exact ⟨s, hs, rfl, hrest l _ (hInv s b hs) hbl⟩
    · obtain ⟨s', hs', hv, hf⟩ := ih hl' ((List.mem_cons.mp ha).resolve_left (Ne.symm hb)) _ (hInv s b hs)
      exact ⟨s', hs', hv.trans (hV s b hs hb), hf⟩

/-- A request for `m` reaches its logical channel, the channel that the map gives it and terrace clocks. -/
structure Reached (m : Log) (s t : State) : Prop where
  map : t.map = s.map
  aclk : t.aclk = s.aclk
  cmd : ∀ x : Ter, t.ters[x].cmd = s.ters[x].cmd
  others : sameOthers m s t
  chans : ∀ r : Phys, s.map[m] ≠ some r → t.phys[r] = s.phys[r]

theorem Reached.refl (m : Log) (s : State) : Reached m s s := ⟨rfl, rfl, fun _ => rfl, fun _ _ => rfl, fun _ _ => rfl⟩

theorem AtChan.reached {m : Log} {p : Phys} {s t : State} (h : AtChan m p s t) (hm : s.map[m] = some p) : Reached m s t :=
  ⟨h.map, h.aclk, h.cmd, h.others, fun r hr => h.chans r fun k => hr (k ▸ hm)⟩

theorem State.map_of_servP {s : State} {n : Log} {p : Phys} (h : s.servP n = some p) : s.map[n] = some p := by
  unfold State.servP at h
  exact (Option.filter_eq_some_iff.mp h).1

theorem Reached.outRequest (s : State) (m : Log) (all : Bool) : Reached m s (s.outRequest m all) := by
  cases h : s.servP m with
  | none => rw [State.outRequest_none h]; exact .refl m s
  | some p => exact (AtChan.outRequest h all).reached (State.map_of_servP h)

theorem Reached.returnStep (done : Bool) (s : State) (m : Log) : Reached m s (s.returnStep done m) := by
  have hn := AtLog.noteReturn m s done
  unfold State.returnStep
  cases h : s.map[m] with
  | none => rw [State.returnRequest_unserved (by rw [hn.map, h]), State.noteReturn_none (by rw [State.servP, h]; rfl)]; exact .refl m s
  | some p => exact ((hn.atChan p).trans (State.returnRequest_at (by rw [hn.map, h])).1).reached h

/-- RETURN changes neither a terrace nor a queue until its restores end. -/
theorem State.returnStep_kept (done : Bool) (s : State) (m : Log) : (s.returnStep done m).ters = s.ters ∧ ∀ n q, (s.returnStep done m).que n q = s.que n q := by
  have hn := AtLog.noteReturn m s done
  unfold State.returnStep
  cases h : s.map[m] with
  | none =>
    rw [State.returnRequest_unserved (by rw [hn.map, h])]
    exact ⟨hn.ters, fun n q => s.noteReturn_que m done n q⟩
  | some p =>
    obtain ⟨-, hlch, hters⟩ := State.returnRequest_at (s := s.noteReturn m done) (by rw [hn.map, h])
    exact ⟨hters.trans hn.ters, fun n q => (State.que_congr hlch n q).trans (s.noteReturn_que m done n q)⟩

theorem logsOf_nodup (t : Ter) : (logsOf t).Nodup :=
  (fins_nodup 16).map fun i j h => Fin.ext (by have := congrArg Fin.val h; simp only [logAt] at this; omega)

theorem namedBy_all (t : Ter) {op : Nat} (h : op ≤ 2) (k : Nat) : namedBy t op true k = logsOf t := by
  unfold namedBy
  rw [if_pos (by simpa using h)]

/-- No two logical channels share a channel (R30). -/
def State.unshared (s : State) : Prop := ∀ (m n : Log) (p : Phys), s.map[m] = some p → s.map[n] = some p → m = n

/-- What keeps the visits of a fold apart: a map without repetition, and one aclk. -/
def sameMap (s t : State) : Prop := t.map = s.map ∧ t.aclk = s.aclk

theorem Reached.sameMap {m : Log} {s t u : State} (h : Reached m t u) (k : sameMap s t) : sameMap s u := ⟨h.map.trans k.1, h.aclk.trans k.2⟩

/-- Where no two logical channels share a channel, a request for another leaves `n` and its channel alone. -/
theorem Reached.apart {m n : Log} {p : Phys} {s t u : State} (h : Reached m t u) (hs : s.unshared) (k : Machine.sameMap s t) (hn : s.map[n] = some p) (hm : m ≠ n) :
    (u.lch[n], u.phys[p]) = (t.lch[n], t.phys[p]) := by
  have hp : t.map[m] ≠ some p := fun hc => hm (hs m n p (by rw [← k.1]; exact hc) hn)
  rw [h.others n (Ne.symm hm), h.chans p hp]

/-- OUT of several channels: each of them takes the request as if it were alone (R642). -/
theorem State.outRequests_visit {s : State} (hs : s.unshared) {l : List Log} (hl : l.Nodup) {n : Log} (hn : n ∈ l) {p : Phys} (hp : s.servP n = some p) (all : Bool) :
    ∃ w : State, w.servP n = some p ∧ w.aclk = s.aclk ∧ w.phys[p] = s.phys[p]
      ∧ (l.foldl (fun (s : State) n => s.outRequest n all) s).lch[n] = (w.outRequest n all).lch[n]
      ∧ (l.foldl (fun (s : State) n => s.outRequest n all) s).phys[p] = (w.outRequest n all).phys[p] := by
  have hmap := State.map_of_servP hp
  obtain ⟨w, hw, hv, hf⟩ := foldl_visit (fun (s : State) n => s.outRequest n all) (sameMap s) (fun w => (w.lch[n], w.phys[p])) n
    (fun w m hw => (Reached.outRequest w m all).sameMap hw) (fun w m hw hm => (Reached.outRequest w m all).apart hs hw hmap hm) l hl hn s ⟨rfl, rfl⟩
  have hphys : w.phys[p] = s.phys[p] := (Prod.ext_iff.mp hv).2
  refine ⟨w, State.servP_eq (by rw [hw.1, hmap]) ?_, hw.2, hphys, (Prod.ext_iff.mp hf).1, (Prod.ext_iff.mp hf).2⟩
  rw [hphys]
  exact State.serves_of_servP hp

/-- RETURN of several channels: each that is OFF leaves it (R645). -/
theorem State.returnSteps_visit {s : State} (hs : s.unshared) {l : List Log} (hl : l.Nodup) {n : Log} (hn : n ∈ l) {p : Phys} (hm : s.map[n] = some p)
    (ho : s.lch[n].oos = true) (hst : s.phys[p].st = .off) (done : Bool) : ∃ w : State, (l.foldl (State.returnStep done) s).phys[p] = (w.leaveOff p).phys[p] := by
  obtain ⟨w, hw, hv, hf⟩ := foldl_visit (State.returnStep done) (sameMap s) (fun w => (w.lch[n], w.phys[p])) n
    (fun w m hw => (Reached.returnStep done w m).sameMap hw) (fun w m hw hne => (Reached.returnStep done w m).apart hs hw hm hne) l hl hn s ⟨rfl, rfl⟩
  obtain ⟨hlch, hphys⟩ := Prod.ext_iff.mp hv
  dsimp only at hlch hphys
  have hwm : w.map[n] = some p := by rw [hw.1, hm]
  have hwo : w.lch[n].oos = true := by rw [hlch, ho]
  have hwst : w.phys[p].st = .off := by rw [hphys, hst]
  refine ⟨w, (Prod.ext_iff.mp hf).2.trans ?_⟩
  unfold State.returnStep
  dsimp only
  rw [State.noteReturn_none (State.servP_eq_none hwm (by rw [hwst]; rfl)), State.returnRequest_off hwm hwst hwo]

/-! ## OUT and RETURN of one channel, by what the channel does -/

section
variable {s : State} {t : Ter} {r : Rqr} {k : Fin 32} {n : Log} {p : Phys} (h : s.svcFree t r = true) (hk : ∀ op, namedBy t op false k = [n])
  (hm : s.map[n] = some p)
include h hk hm

theorem exec_out_one (hs : s.phys[p].st.serves = true) (ho : s.lch[n].oos = false) :
    ∃ w : State, exec (.out t false k r) s = .next (w.outRequest n false) ∧ w = { s with ters := w.ters } ∧ w.servP n = some p
      ∧ AtChan n p w (w.outRequest n false) ∧ ((w.outRequest n false).ters[t].cmd.map fun c => (c.op, c.logs)) = some (1, [n.val]) := by
  obtain ⟨w, hu, hw, hc⟩ := State.svcOut_one t k (State.servP_eq hm hs) ho
  have hp : w.servP n = some p := by rw [hw]; exact State.servP_eq hm hs
  refine ⟨w, ?_, hw, hp, .outRequest hp false, ?_⟩
  · rw [← hu, ← hk 1, ← State.svcRun_out h]
    exact exec_svcCmd_free h 1 false k (by decide) (by decide) nofun
  · rw [(AtChan.outRequest hp false).cmd, hc]
    rfl

omit hm in
theorem exec_ret_one : exec (.ret t false k r) s = .next (s.svcReturn t false k [n]) := by
  rw [← hk 2, ← State.svcRun_ret h]
  exact exec_svcCmd_free h 2 false k (by decide) (by decide) nofun

/-- An active channel drains at once. -/
theorem out_active (hst : s.phys[p].st = .active) (he : s.phys[p].entry = 0) (ho : s.lch[n].oos = false) : ∃ u, exec (.out t false k r) s = .next u
    ∧ u.phys[p].st = .draining ∧ u.lch[n].drain = true ∧ u.lch[n].outReq = some (s.aclk, false)
    ∧ (∀ q : Qn, (s.que n q).st ≠ .disabled → (u.que n q).st = .draining) ∧ (∀ q : Qn, (s.que n q).st = .disabled → (u.que n q).st = .disabled)
    ∧ (u.ters[t].cmd.map fun c => (c.op, c.logs)) = some (1, [n.val]) ∧ u.map = s.map ∧ u.fence = s.fence
    ∧ sameOthers n s u ∧ samePhys p s u ∧ u.gate = s.gate := by
  obtain ⟨w, hx, hw, hp, hat, hc⟩ := exec_out_one h hk hm (by rw [hst]; rfl) ho
  have hact : w.outRequest n false = (w.noteOut p n false).removeNow p n := State.outRequest_active hp false (by rw [hw]; exact hst) (by rw [hw]; exact he)
  have hreq := State.outRequest_outReq hp false
  obtain ⟨hd, ⟨qs, hl⟩, hq⟩ := (w.noteOut p n false).removeNow_drains p n
  rw [← hact] at hd hl hq
  have hq' : ∀ q, ((w.outRequest n false).que n q).st = if (s.que n q).st = .disabled then .disabled else .draining := fun q => by
    rw [hq, State.noteOut_que, hw]; rfl
  refine ⟨_, hx, hd, by rw [hl], by rw [hreq, hw], fun q hn => by rw [hq', if_neg hn], fun q hn => by rw [hq', if_pos hn], hc,
    by rw [hat.map, hw], by rw [hat.fence, hw], fun m hne => by rw [hat.others m hne, hw], fun r hr => by rw [hat.chans r hr, hw], by rw [hat.gate, hw]⟩

/-- A DORMANT channel wakes, to drain (R625). -/
theorem out_dormant (hst : s.phys[p].st = .dormant) (ho : s.lch[n].oos = false) : ∃ u, exec (.out t false k r) s = .next u
    ∧ u.phys[p].st = .waking ∧ u.phys[p].toDrain = true ∧ u.phys[p].wakeA = some s.aclk ∧ (u.ters[t].cmd.map fun c => (c.op, c.logs)) = some (1, [n.val])
    ∧ (∀ q : Qn, u.que n q = s.que n q) ∧ u.map = s.map ∧ sameOthers n s u ∧ samePhys p s u := by
  obtain ⟨w, hx, hw, hp, hat, hc⟩ := exec_out_one h hk hm (by rw [hst]; rfl) ho
  have hdorm : w.outRequest n false = ((w.noteOut p n false).beginWake p).drainLater p := State.outRequest_dormant hp false (by rw [hw]; exact hst)
  have hphys : (w.outRequest n false).phys[p] = { ((w.noteOut p n false).beginWake p).phys[p] with toDrain := true } := by rw [hdorm, State.drainLater_phys]
  obtain ⟨hwst, hwa⟩ := (w.noteOut p n false).beginWake_phys p
  refine ⟨_, hx, by rw [hphys]; exact hwst, by rw [hphys], ?_, hc, fun q => ?_, by rw [hat.map, hw], fun m hne => by rw [hat.others m hne, hw],
    fun r hr => by rw [hat.chans r hr, hw]⟩
  · rw [hphys]
    refine hwa.trans ?_
    rw [(AtChan.noteOut n p w false).aclk, hw]
  · rw [hdorm]
    refine (w.noteOut_que p n false q).trans ?_
    rw [hw]
    rfl

/-- A WAKING channel drains when it is up. -/
theorem out_waking (hst : s.phys[p].st = .waking) (ho : s.lch[n].oos = false) : ∃ u, exec (.out t false k r) s = .next u
    ∧ u.phys[p] = { s.phys[p] with toDrain := true } ∧ (u.ters[t].cmd.map fun c => (c.op, c.logs)) = some (1, [n.val])
    ∧ (∀ q : Qn, u.que n q = s.que n q) ∧ u.map = s.map ∧ sameOthers n s u ∧ samePhys p s u := by
  obtain ⟨w, hx, hw, hp, hat, hc⟩ := exec_out_one h hk hm (by rw [hst]; rfl) ho
  have hwake : w.outRequest n false = (w.noteOut p n false).drainLater p := State.outRequest_waking hp false (by rw [hw]; exact hst)
  refine ⟨_, hx, ?_, hc, fun q => ?_, by rw [hat.map, hw], fun m hne => by rw [hat.others m hne, hw], fun r hr => by rw [hat.chans r hr, hw]⟩
  · rw [hwake, State.drainLater_phys, hw]
    rfl
  · rw [hwake]
    refine (w.noteOut_que p n false q).trans ?_
    rw [hw]
    rfl

/-- A channel that enters dormancy drains at once or when it is up. -/
theorem out_entering (hst : s.phys[p].st = .active) (he : s.phys[p].entry ≠ 0) (ho : s.lch[n].oos = false) : ∃ u, exec (.out t false k r) s = .next u
    ∧ (u.phys[p].st = .draining ∨ u.phys[p].toDrain = true) ∧ (u.ters[t].cmd.map fun c => (c.op, c.logs)) = some (1, [n.val])
    ∧ u.map = s.map ∧ sameOthers n s u ∧ samePhys p s u := by
  obtain ⟨w, hx, hw, hp, hat, hc⟩ := exec_out_one h hk hm (by rw [hst]; rfl) ho
  refine ⟨_, hx, ?_, hc, by rw [hat.map, hw], fun m hne => by rw [hat.others m hne, hw], fun r hr => by rw [hat.chans r hr, hw]⟩
  rcases State.outRequest_entering hp false (by rw [hw]; exact hst) (by rw [hw]; exact he) with hr | hr
  · rw [hr]
    exact .inl (State.removeNow_drains _ p n).1
  · rw [hr, State.drainLater_phys]
    exact .inr rfl

/-- A channel out of service leaves OFF (R141). -/
theorem ret_off (hst : s.phys[p].st = .off) (ho : s.lch[n].oos = true) : ∃ u, exec (.ret t false k r) s = .next u
    ∧ u.phys[p].st = .waking ∧ u.phys[p].wakeFor = .off ∧ u.phys[p].scrub = true
    ∧ (u.ters[t].cmd.map fun c => (c.op, c.logs)) = some (2, [n.val]) ∧ u.lch = s.lch ∧ u.map = s.map ∧ u.fence = s.fence
    ∧ samePhys p s u ∧ u.gate = s.gate := by
  obtain ⟨w, hu, hw, hc⟩ := State.svcReturn_oos t k (by rw [hm]; rfl) ho
  have hwm : w.map[n] = some p := by rw [hw]; exact hm
  have hwst : w.phys[p].st = .off := by rw [hw]; exact hst
  have hoff : w.returnStep s.ters[t].sdone n = w.leaveOff p := by
    unfold State.returnStep
    rw [State.noteReturn_none (State.servP_eq_none hwm (by rw [hwst]; rfl)), State.returnRequest_off hwm hwst (by rw [hw]; exact ho)]
  have hat : AtChan n p w (w.leaveOff p) := (AtChan.newPage n p w).trans (.modP n p _ _)
  obtain ⟨h1, h2, h3⟩ := w.leaveOff_phys p
  rw [exec_ret_one h hk, hu, hoff]
  refine ⟨_, rfl, h1, h2, h3, by rw [hat.cmd, hc]; rfl, ?_, by rw [hat.map, hw], by rw [hat.fence, hw], fun r hr => by rw [hat.chans r hr, hw], by rw [hat.gate, hw]⟩
  rw [show (w.leaveOff p).lch = w.lch from rfl, hw]

end

/-- A channel that drains takes ENABLE_PENDING (R145). -/
theorem State.returnStep_draining {w : State} {n : Log} {p : Phys} (hm : w.map[n] = some p) (hst : w.phys[p].st = .draining) (done : Bool) :
    (w.returnStep done n).phys[p] = { w.phys[p] with chEnp := true } ∧ samePhys p w (w.returnStep done n)
      ∧ (w.returnStep done n).lch[n] = { w.lch[n] with retReq := some ⟨w.aclk, done, w.phys[p].chEnp⟩ } ∧ sameOthers n w (w.returnStep done n) := by
  have hn := AtLog.noteReturn n w done
  have hnm : (w.noteReturn n done).map[n] = some p := by rw [hn.map, hm]
  have hphys : (w.noteReturn n done).phys = w.phys := hn.phys
  obtain ⟨hat, hlch, -⟩ := State.returnRequest_at hnm
  unfold State.returnStep
  refine ⟨?_, fun r hr => ?_, ?_, fun m hne => ?_⟩
  · rw [State.returnRequest_draining hnm (by rw [hphys, hst]), State.modP_phys, if_pos rfl, hphys]
  · rw [hat.chans r hr, hphys]
  · rw [hlch, State.noteReturn_some (State.servP_eq hm (by rw [hst]; rfl)), State.modL_lch, if_pos rfl]
  · rw [hlch, hn.others m hne]

/-- In service a return request changes no channel (R645). -/
theorem State.returnStep_inService {w : State} {n : Log} {p : Phys} (hm : w.map[n] = some p)
    (hst : w.phys[p].st = .active ∨ w.phys[p].st = .waking ∨ w.phys[p].st = .dormant) (done : Bool) :
    (w.returnStep done n).phys = w.phys ∧ sameOthers n w (w.returnStep done n) := by
  have hn := AtLog.noteReturn n w done
  have hphys : (w.noteReturn n done).phys[p].st = w.phys[p].st := by rw [hn.phys]
  unfold State.returnStep
  rw [State.returnRequest_other (by rw [hn.map, hm]) (by rw [hphys]; rcases hst with h | h | h <;> rw [h] <;> decide)
    (fun h => by rw [hphys] at h; rcases hst with k | k | k <;> rw [k] at h <;> exact absurd h (by decide))]
  exact ⟨hn.phys, hn.others⟩

section
variable {s : State} {t : Ter} {r : Rqr} {k : Fin 32} {n : Log} {p : Phys} (h : s.svcFree t r = true) (hk : ∀ op, namedBy t op false k = [n])
  (hm : s.map[n] = some p)
include h hk hm

/-- A channel that drains goes back to service when it has drained (R145). -/
theorem ret_draining (hst : s.phys[p].st = .draining) (ho : s.lch[n].oos = false) : ∃ u, exec (.ret t false k r) s = .next u
    ∧ u.phys[p] = { s.phys[p] with chEnp := true } ∧ u.ters[t].sdone = true ∧ u.lch[n] = { s.lch[n] with retReq := some ⟨s.aclk, s.ters[t].sdone, s.phys[p].chEnp⟩ }
    ∧ sameOthers n s u ∧ u.map = s.map ∧ samePhys p s u := by
  obtain ⟨w, hu, hw, hdone, -⟩ := State.svcReturn_inService t k (by rw [hm]; rfl) ho
  have hwm : w.map[n] = some p := by rw [hw]; exact hm
  obtain ⟨hphys, hchans, hlch, hothers⟩ := State.returnStep_draining hwm (by rw [hw]; exact hst) s.ters[t].sdone
  rw [exec_ret_one h hk, hu]
  refine ⟨_, rfl, by rw [hphys, hw], by rw [(w.returnStep_kept _ n).1, hdone], by rw [hlch, hw], fun m hne => by rw [hothers m hne, hw],
    by rw [(Reached.returnStep _ w n).map, hw], fun r hr => by rw [hchans r hr, hw]⟩

/-- A channel in service returns at once (R645). -/
theorem ret_inService (hst : s.phys[p].st = .active ∨ s.phys[p].st = .waking ∨ s.phys[p].st = .dormant) (ho : s.lch[n].oos = false) :
    ∃ u, exec (.ret t false k r) s = .next u ∧ u.phys = s.phys ∧ u.ters[t].sdone = true ∧ u.ters[t].result = 0 ∧ u.ters[t].cmd = none
      ∧ (∀ q : Qn, u.que n q = s.que n q) ∧ sameOthers n s u ∧ u.map = s.map := by
  obtain ⟨w, hu, hw, hdone, hres, hcmd⟩ := State.svcReturn_inService t k (by rw [hm]; rfl) ho
  have hwm : w.map[n] = some p := by rw [hw]; exact hm
  obtain ⟨hphys, hothers⟩ := State.returnStep_inService hwm (by rw [hw]; exact hst) s.ters[t].sdone
  obtain ⟨hters, hque⟩ := w.returnStep_kept s.ters[t].sdone n
  rw [exec_ret_one h hk, hu]
  refine ⟨_, rfl, by rw [hphys, hw], by rw [hters, hdone], by rw [hters, hres], by rw [hters, hcmd], fun q => ?_, fun m hne => by rw [hothers m hne, hw],
    by rw [(Reached.returnStep _ w n).map, hw]⟩
  rw [hque, hw]
  rfl

end

/-! ## OUT and RETURN with ALL -/

section
variable {s : State} {t : Ter} {r : Rqr} (k : Fin 32) (h : s.svcFree t r = true)
include h

theorem exec_out_all : exec (.out t true k r) s = .next (s.svcOut t true k (logsOf t)) := by
  rw [← namedBy_all t (by decide : 1 ≤ 2) k, ← State.svcRun_out h]
  exact exec_svcCmd_free h 1 true k (by decide) (by decide) (by omega)

theorem exec_ret_all : exec (.ret t true k r) s = .next (s.svcReturn t true k (logsOf t)) := by
  rw [← namedBy_all t (by decide : 2 ≤ 2) k, ← State.svcRun_ret h]
  exact exec_svcCmd_free h 2 true k (by decide) (by decide) (by omega)

theorem out_all_none (hg : ((logsOf t).filter fun n => (s.servP n).isSome && !s.lch[n].oos) = []) : ∃ u, exec (.out t true k r) s = .next u
    ∧ u.ters[t].sdone = true ∧ u.ters[t].result = 0 ∧ u.ters[t].cmd = none ∧ u = { s with ters := u.ters } := by
  have hu : s.svcOut t true k (logsOf t) = s.svcIdle t 1 k := by
    unfold State.svcOut
    rw [hg]
    rfl
  obtain ⟨hd, hr, hc⟩ := s.svcIdle_ters t 1 k
  rw [exec_out_all k h, hu]
  exact ⟨_, rfl, hd, hr, hc, rfl⟩

theorem out_all (hs : s.unshared) {go : List Log} (hgo : go = (logsOf t).filter fun n => (s.servP n).isSome && !s.lch[n].oos) (hne : go ≠ []) :
    ∃ u, exec (.out t true k r) s = .next u ∧ (u.ters[t].cmd.map fun c => (c.op, c.logs)) = some (1, go.map fun n => n.val) ∧ u.map = s.map
      ∧ (∀ n ∈ go, u.lch[n].outReq = some (s.aclk, true) ∧ ∀ p : Phys, s.map[n] = some p → s.phys[p].st = .active → s.phys[p].entry = 0 →
          u.phys[p].st = .draining ∧ u.lch[n].drain = true)
      ∧ (∀ n : Log, n ∉ go → u.lch[n] = s.lch[n]) := by
  obtain ⟨w, hu, hw, hc⟩ : ∃ w : State, s.svcOut t true k (logsOf t) = go.foldl (fun (s : State) n => s.outRequest n true) w ∧ w = { s with ters := w.ters }
      ∧ (w.ters[t].cmd.map fun c => (c.op, c.logs)) = some (1, go.map fun n => n.val) := by
    refine ⟨s.svcBegin t 1 k true (go.map fun n => n.val), ?_, s.svcBegin_frame t 1 k true _ 0, by rw [State.svcBegin_cmd]; rfl⟩
    unfold State.svcOut
    rw [← hgo, if_neg (by rwa [List.isEmpty_iff])]
  have hnodup : go.Nodup := hgo ▸ (logsOf_nodup t).filter _
  have hex : w.unshared := by unfold State.unshared; rw [hw]; exact hs
  rw [exec_out_all k h, hu]
  refine ⟨_, rfl, ?_, ?_, fun n hn => ?_, fun n hn => ?_⟩
  · rw [foldl_kept _ (fun u : State => u.ters[t].cmd) go (fun u m _ => (Reached.outRequest u m true).cmd t) w, hc]
  · rw [foldl_kept _ (fun u : State => u.map) go (fun u m _ => (Reached.outRequest u m true).map) w, hw]
  · have hserv : (s.servP n).isSome = true := by
      rw [hgo] at hn
      exact (Bool.and_eq_true_iff.mp (List.mem_filter.mp hn).2).1
    obtain ⟨p, hp⟩ := Option.isSome_iff_exists.mp hserv
    obtain ⟨v, hv, ha, hphys, hl, hc⟩ := State.outRequests_visit hex hnodup hn (p := p) (by rw [hw]; exact hp) true
    rw [hl]
    refine ⟨by rw [State.outRequest_outReq hv, ha, hw], fun p' hp' hst he => ?_⟩
    have hpp : p' = p := Option.some.inj (hp'.symm.trans (State.map_of_servP hp))
    subst hpp
    obtain ⟨hd, ⟨qs, hdl⟩, -⟩ := (v.noteOut p' n true).removeNow_drains p' n
    rw [hc, State.outRequest_active hv true (by rw [hphys, hw]; exact hst) (by rw [hphys, hw]; exact he)]
    exact ⟨hd, by rw [hdl]⟩
  · rw [foldl_kept _ (fun u : State => u.lch[n]) go (fun u m hm => (Reached.outRequest u m true).others n fun hnm => hn (hnm ▸ hm)) w, hw]

theorem ret_all_none (hb : ((logsOf t).filter fun n => s.lch[n].oos) = []) : ∃ u, exec (.ret t true k r) s = .next u ∧ u.ters[t].sdone = true
    ∧ u.ters[t].result = 0 ∧ u.ters[t].cmd = none ∧ u.map = s.map ∧ (∀ (n : Log) (q : Qn), u.que n q = s.que n q) := by
  have hu : s.svcReturn t true k (logsOf t) = (logsOf t).foldl (State.returnStep s.ters[t].sdone) ((s.restartTree t).svcIdle t 2 k) := by
    unfold State.svcReturn
    rw [hb]
    rfl
  obtain ⟨hd, hr, hc⟩ := (s.restartTree t).svcIdle_ters t 2 k
  have hkept := fun w m => State.returnStep_kept s.ters[t].sdone w m
  have hters := foldl_kept (State.returnStep s.ters[t].sdone) (fun u : State => u.ters) (logsOf t) (fun u m _ => (hkept u m).1) ((s.restartTree t).svcIdle t 2 k)
  rw [exec_ret_all k h, hu]
  refine ⟨_, rfl, by rw [hters]; exact hd, by rw [hters]; exact hr, by rw [hters]; exact hc, ?_, fun n q => ?_⟩
  · exact foldl_kept _ (fun u : State => u.map) (logsOf t) (fun u m _ => (Reached.returnStep _ u m).map) _
  · exact foldl_kept _ (fun u : State => u.que n q) (logsOf t) (fun u m _ => (hkept u m).2 n q) _

theorem ret_all (hs : s.unshared) {back : List Log} (hback : back = (logsOf t).filter fun n => s.lch[n].oos) (hne : back ≠ []) :
    ∃ u, exec (.ret t true k r) s = .next u ∧ (u.ters[t].cmd.map fun c => (c.op, c.logs)) = some (2, back.map fun n => n.val) ∧ u.map = s.map
      ∧ (∀ n ∈ back, ∀ p : Phys, s.map[n] = some p → s.phys[p].st = .off → u.phys[p].st = .waking ∧ u.phys[p].wakeFor = .off ∧ u.phys[p].scrub = true)
      ∧ (∀ (n : Log) (q : Qn), u.que n q = s.que n q) := by
  obtain ⟨w, hu, hw, hc⟩ : ∃ w : State, s.svcReturn t true k (logsOf t) = (logsOf t).foldl (State.returnStep s.ters[t].sdone) w ∧ w = { s with ters := w.ters }
      ∧ (w.ters[t].cmd.map fun c => (c.op, c.logs)) = some (2, back.map fun n => n.val) := by
    refine ⟨s.svcBegin t 2 k true (back.map fun n => n.val), ?_, s.svcBegin_frame t 2 k true _ 0, by rw [State.svcBegin_cmd]; rfl⟩
    unfold State.svcReturn
    rw [if_neg (by rw [Bool.not_true, Bool.false_and]; exact Bool.false_ne_true)]
    dsimp only
    rw [← hback, if_neg (by rwa [List.isEmpty_iff])]
    rfl
  have hex : w.unshared := by unfold State.unshared; rw [hw]; exact hs
  have hkept := fun w m => State.returnStep_kept s.ters[t].sdone w m
  rw [exec_ret_all k h, hu]
  refine ⟨_, rfl, ?_, ?_, fun n hn p hm hst => ?_, fun n q => ?_⟩
  · rw [foldl_kept _ (fun u : State => u.ters) (logsOf t) (fun u m _ => (hkept u m).1) w, hc]
  · rw [foldl_kept _ (fun u : State => u.map) (logsOf t) (fun u m _ => (Reached.returnStep _ u m).map) w, hw]
  · obtain ⟨hmem, ho⟩ := List.mem_filter.mp (hback ▸ hn)
    obtain ⟨v, hv⟩ := State.returnSteps_visit hex (logsOf_nodup t) hmem (p := p) (by rw [hw]; exact hm) (by rw [hw]; exact ho) (by rw [hw]; exact hst) s.ters[t].sdone
    rw [hv]
    exact v.leaveOff_phys p
  · rw [foldl_kept _ (fun u : State => u.que n q) (logsOf t) (fun u m _ => (hkept u m).2 n q) w, hw]
    rfl

end
/-! ## RETURN while OUT runs -/

theorem ret_late {s : State} {t : Ter} {r : Rqr} {k : Fin 32} {n : Log} {p : Phys} {c : SvcCmd} (hs : s.mgSecure r = true) (hl : s.gate.locked = true)
    (hmode : s.gate.mode = true) (hsvc : s.svc.busy = false) (hb : s.ters[t].busy = false) (ht : s.ters[t].tko = none) (hc : s.ters[t].cmd = some c)
    (h1 : c.op = 1) (hk : namedBy t 2 false k = [n]) (hm : s.map[n] = some p) (hst : s.phys[p].st = .draining) :
    ∃ u, exec (.ret t false k r) s = .next u ∧ u.phys[p] = { s.phys[p] with chEnp := true } ∧ samePhys p s u
      ∧ u.ters[t] = { s.ters[t] with op := 2, target := k.val, sdone := true, result := 0 } ∧ (∀ q : Qn, u.que n q = s.que n q) ∧ sameOthers n s u ∧ u.map = s.map := by
  obtain ⟨hp, hsec⟩ := (s.mgSecure_iff r).mp hs
  have hserv : s.servP n = some p := State.servP_eq hm (by rw [hst]; rfl)
  have hd : s.drains n = true := by
    unfold State.drains
    rw [hserv, Option.any_some, hst]
    rfl
  have hu : s.svcReturnDrain t k [n] = (s.returnStep s.ters[t].sdone n).modT t fun x => { x with op := 2, target := k, sdone := true, result := 0 } := by
    unfold State.svcReturnDrain
    dsimp only
    rw [List.foldl_cons, List.foldl_nil, if_pos hd]
    rfl
  have hx : exec (.ret t false k r) s = .next (s.svcReturnDrain t k [n]) := by
    rw [← State.svcRun_late hb ht hsvc hc h1 hk hd]
    refine (exec_svcCmd s 2 t false k r hp (by decide) (by decide) nofun).trans ?_
    rw [State.service_locked (by decide) (by decide) hl hmode, State.commands_secure t 2 false k hsec]
    rfl
  obtain ⟨hphys, hchans, -, hothers⟩ := State.returnStep_draining hm hst s.ters[t].sdone
  obtain ⟨hters, hque⟩ := s.returnStep_kept s.ters[t].sdone n
  have hmap := (Reached.returnStep s.ters[t].sdone s n).map
  rw [hx, hu]
  generalize s.returnStep s.ters[t].sdone n = w at *
  refine ⟨_, rfl, hphys, hchans, ?_, hque n, hothers, hmap⟩
  rw [State.modT_ters, if_pos rfl, hters]

/-- Settles O25: the case equations of `State.outRequest` and `State.returnRequest` for one channel; with ALL a fold whose visits stay apart, since no two logical channels share a channel. -/
theorem outAndReturnBegin : Obligations.OutAndReturnBegin := by
  refine ⟨fun s t r i k n p h hk hn hm => ?_, fun s t r k h hs => ?_, fun s t r i k n p c hs hl hmode hsvc hb ht hc h1 hk hn hm hst => ?_⟩
  · have hname : ∀ op, namedBy t op false k = [n] := fun op => by rw [hk, namedBy_place, hn]
    exact ⟨out_active h hname hm, ret_off h hname hm, ret_draining h hname hm, out_dormant h hname hm, out_waking h hname hm, out_entering h hname hm,
      ret_inService h hname hm⟩
  · exact ⟨out_all_none k h, out_all k h hs.2.1 rfl, ret_all_none k h, ret_all k h hs.2.1 rfl⟩
  · exact ret_late hs hl hmode hsvc hb ht hc h1 (by rw [hk, namedBy_place, hn]) hm hst

end Sys2Proof.Machine
end

section
/-! SUPPORT. Records that are posted together (R22, R23, R580, R582, R584). -/

namespace Sys2Proof.Machine

/-! ## Records in plane order -/

/-- The entry of a record: all but its time, its number and its aclk (R580). -/
def LRec.sameEntry (r r0 : LRec) : Prop := r.kind = r0.kind ∧ r.src = r0.src ∧ r.arg = r0.arg ∧ r.plane = r0.plane ∧ r.q = r0.q ∧ r.cont = r0.cont

theorem LRec.sameEntry.trans {r r1 r2 : LRec} (h : r.sameEntry r1) (k : r1.sameEntry r2) : r.sameEntry r2 := by
  obtain ⟨h1, h2, h3, h4, h5, h6⟩ := h
  obtain ⟨k1, k2, k3, k4, k5, k6⟩ := k
  exact ⟨h1.trans k1, h2.trans k2, h3.trans k3, h4.trans k4, h5.trans k5, h6.trans k6⟩

/-- Records in the order of their planes. -/
def inPlanes (l : List LRec) : Prop := l.Pairwise fun a b => a.plane ≤ b.plane

theorem insertRec_cons (x : LRec) (l : List LRec) (r : LRec) : insertRec (x :: l) r = if x.plane ≤ r.plane then x :: insertRec l r else r :: x :: l := by
  unfold insertRec
  by_cases h : x.plane ≤ r.plane
  · simp [h]
  · simp [h]

theorem insertRec_perm (l : List LRec) (r : LRec) : (insertRec l r).Perm (r :: l) := by
  unfold insertRec
  refine List.perm_middle.trans ?_
  rw [List.takeWhile_append_dropWhile]

theorem foldl_insertRec_perm (rs l : List LRec) : (rs.foldl insertRec l).Perm (l ++ rs) := by
  induction rs generalizing l with
  | nil => rw [List.append_nil]; rfl
  | cons r rs ih => exact ((ih _).trans ((insertRec_perm l r).append_right rs)).trans List.perm_middle.symm

theorem insertRec_inPlanes (l : List LRec) (r : LRec) (h : inPlanes l) : inPlanes (insertRec l r) := by
  induction l with
  | nil => exact List.pairwise_singleton _ r
  | cons x l ih =>
    obtain ⟨hx, hl⟩ := List.pairwise_cons.mp h
    rw [insertRec_cons]
    split
    next hr =>
      refine List.pairwise_cons.mpr ⟨fun y hy => ?_, ih hl⟩
      rcases List.mem_cons.mp ((insertRec_perm l r).mem_iff.mp hy) with rfl | hy
      · exact hr
      · exact hx y hy
    next hr =>
      refine List.pairwise_cons.mpr ⟨fun y hy => ?_, h⟩
      rcases List.mem_cons.mp hy with rfl | hy
      · exact Nat.le_of_not_le hr
      · exact (Nat.le_of_not_le hr).trans (hx y hy)

theorem foldl_insertRec_inPlanes (rs l : List LRec) (h : inPlanes l) : inPlanes (rs.foldl insertRec l) := by
  induction rs generalizing l with
  | nil => exact h
  | cons r rs ih => exact ih _ (insertRec_inPlanes l r h)

/-- A record of the last plane goes to the end. -/
theorem insertRec_last (l : List LRec) (r : LRec) (h : ∀ x ∈ l, x.plane ≤ r.plane) : insertRec l r = l ++ [r] := by
  induction l with
  | nil => rfl
  | cons x l ih => rw [insertRec_cons, if_pos (h x List.mem_cons_self), ih fun y hy => h y (List.mem_cons_of_mem x hy)]; rfl

/-- Records in plane order behind those of their planes stay as they are. -/
theorem foldl_insertRec_sorted (rs l : List LRec) (h : inPlanes (l ++ rs)) : rs.foldl insertRec l = l ++ rs := by
  induction rs generalizing l with
  | nil => rw [List.append_nil]; rfl
  | cons r rs ih =>
    rw [List.append_cons] at h
    have hlast := insertRec_last l r fun x hx => (List.pairwise_append.mp (List.pairwise_append.mp h).1).2.2 x hx r List.mem_cons_self
    rw [List.foldl_cons, hlast, ih _ h, List.append_assoc]
    rfl

/-! ## Numbers -/

theorem numbered_get (b : Nat) (l : List LRec) (i : Nat) : (numbered b l)[i]? = l[i]?.map fun r => { r with lseq := (b + i) % 2 ^ 64 } := by
  unfold numbered
  rw [List.getElem?_map, List.getElem?_zipIdx, Option.map_map, Nat.zero_add]
  rfl

theorem numbered_lseq {b : Nat} {l : List LRec} {i : Nat} {r : LRec} (h : (numbered b l)[i]? = some r) :
    r.lseq = (b + i) % 2 ^ 64 ∧ ∃ r0, l[i]? = some r0 ∧ r = { r0 with lseq := (b + i) % 2 ^ 64 } := by
  rw [numbered_get] at h
  obtain ⟨r0, h0, rfl⟩ := Option.map_eq_some_iff.mp h
  exact ⟨rfl, r0, h0, rfl⟩

theorem numbered_mem (b : Nat) {l : List LRec} {r : LRec} (h : r ∈ l) : ∃ r' ∈ numbered b l, r'.sameEntry r := by
  obtain ⟨i, hi⟩ := List.mem_iff_getElem?.mp h
  refine ⟨{ r with lseq := (b + i) % 2 ^ 64 }, List.mem_of_getElem? (i := i) ((numbered_get b l i).trans (by rw [hi]; rfl)), rfl, rfl, rfl, rfl, rfl, rfl⟩

theorem numbered_planes (b : Nat) (l : List LRec) : (numbered b l).map LRec.plane = l.map LRec.plane := by
  refine List.ext_getElem? fun i => ?_
  rw [List.getElem?_map, List.getElem?_map, numbered_get, Option.map_map]
  rfl

theorem numbered_inPlanes (b : Nat) (l : List LRec) (h : inPlanes l) : inPlanes (numbered b l) := by
  have hm : ∀ l : List LRec, inPlanes l ↔ (l.map LRec.plane).Pairwise (· ≤ ·) := fun l => List.pairwise_map.symm
  rw [hm, numbered_planes, ← hm]
  exact h

/-- Records numbered among others. -/
theorem numbered_merged {b : Nat} (grp : List LRec) {rs : List LRec} {r : LRec} (h : r ∈ rs) :
    ∃ r' ∈ numbered b (rs.foldl insertRec grp), r'.sameEntry r :=
  numbered_mem b ((foldl_insertRec_perm rs grp).mem_iff.mpr (List.mem_append_right grp h))

/-! ## What enters the queue -/

/-- The records of aclk `now` at the end of a list. -/
theorem takeWhile_posted (now : Nat) (old grp : List LRec) (hg : ∀ r ∈ grp, r.at_ = some now) (ho : ∀ r, old.getLast? = some r → r.at_ ≠ some now) :
    (old ++ grp).reverse.takeWhile (fun r => r.at_ = some now) = grp.reverse := by
  have hold : old.reverse.takeWhile (fun r => r.at_ = some now) = [] := by
    cases h : old.reverse with
    | nil => rfl
    | cons r l =>
      rw [List.takeWhile_cons, if_neg]
      refine fun k => ho r ?_ (of_decide_eq_true k)
      rw [← List.head?_reverse, h]
      rfl
  rw [List.reverse_append, List.takeWhile_append_of_pos, hold, List.append_nil]
  exact fun r hr => decide_eq_true (hg r (List.mem_reverse.mp hr))

section
variable (l : Ldg) (now : Nat) (rs old grp : List LRec) (hq : l.queue = old ++ grp) (hg : ∀ r ∈ grp, r.at_ = some now)
  (ho : ∀ r, old.getLast? = some r → r.at_ ≠ some now)
include hq hg ho

/-- The parts of the queue that `Ldg.enqueue` tells apart. -/
theorem Ldg.posted_parts : (l.queue.reverse.takeWhile fun r => r.at_ = some now).length = grp.length
    ∧ l.queue.take (l.queue.length - grp.length) = old ∧ l.queue.drop (l.queue.length - grp.length) = grp := by
  rw [hq, takeWhile_posted now old grp hg ho, List.length_reverse, List.length_append, Nat.add_sub_cancel]
  exact ⟨rfl, List.take_left, List.drop_left⟩

/-- Behind an older record the new ones join those of their aclk in the queue. -/
theorem Ldg.enqueue_queue (hc : old = [] → ∀ c, l.cur = some c → c.at_ ≠ some now) :
    l.enqueue now rs = { l with queue := old ++ numbered ((grp.head?.map LRec.lseq).getD l.next) (rs.foldl insertRec grp) } := by
  obtain ⟨hk, hold, hgrp⟩ := l.posted_parts now old grp hq hg ho
  have hf : (l.cur.filter fun c => old.isEmpty && c.at_ = some now) = none := by
    cases hcur : l.cur with
    | none => rfl
    | some c =>
      refine Option.filter_some.trans (if_neg fun h => ?_)
      obtain ⟨he, ha⟩ := Bool.and_eq_true_iff.mp h
      exact hc (List.isEmpty_iff.mp he) c hcur (of_decide_eq_true ha)
  unfold Ldg.enqueue
  dsimp only
  rw [hk, hold, hgrp, hf]

end

/-- When all of the queue is of this aclk, so may be the record that the writer has just taken (R23). -/
theorem Ldg.enqueue_writer (l : Ldg) (now : Nat) (rs : List LRec) (c : LRec) (hg : ∀ r ∈ l.queue, r.at_ = some now) (hc : l.cur = some c) (ha : c.at_ = some now) :
    l.enqueue now rs = { l with
      cur := (numbered c.lseq (rs.foldl insertRec (c :: l.queue))).head?, queue := (numbered c.lseq (rs.foldl insertRec (c :: l.queue))).tail } := by
  obtain ⟨hk, hold, hgrp⟩ := l.posted_parts now [] l.queue rfl hg nofun
  have hf : (l.cur.filter fun c => ([] : List LRec).isEmpty && c.at_ = some now) = some c := by
    rw [hc]
    exact Option.filter_some.trans (if_pos (by rw [List.isEmpty_nil, Bool.true_and]; exact decide_eq_true ha))
  unfold Ldg.enqueue
  dsimp only
  rw [hk, hold, hgrp, hf]

/-- The writer stays as it is while it holds a record or the ledger is not valid. -/
theorem State.ledgerTake_idle {s : State} (h : s.ldg.cur.isSome = true ∨ s.ldg.valid = false) : s.ledgerTake = s := by
  unfold State.ledgerTake
  split
  next hc _ =>
    rw [hc] at h
    rw [h.resolve_left Bool.false_ne_true, Bool.false_and, Bool.false_and, if_neg Bool.false_ne_true]
  · rfl

theorem head?_append_tail {α : Type} (l : List α) : l.head?.toList ++ l.tail = l := by cases l <;> rfl

/-! ## Posting -/

/-- Records as they are posted in this aclk. -/
def State.stamped (s : State) (rs : List LRec) : List LRec := rs.map fun r => { r with time := s.frame % 2 ^ 32, at_ := some s.aclk }

theorem State.stamped_length (s : State) (rs : List LRec) : (s.stamped rs).length = rs.length := List.length_map _

theorem State.stamped_mem (s : State) {rs : List LRec} {r : LRec} (h : r ∈ rs) : ∃ r' ∈ s.stamped rs, r'.sameEntry r :=
  ⟨_, List.mem_map_of_mem h, rfl, rfl, rfl, rfl, rfl, rfl⟩

theorem State.stamped_inPlanes (s : State) {rs : List LRec} (h : inPlanes rs) : inPlanes (s.stamped rs) := List.pairwise_map.mpr h

/-- Records that do not fit, or without a key, are lost and counted (R584). -/
theorem State.postAll_lost {s : State} {rs : List LRec}
    (h : s.ldg.keyErr = true ∨ 64 + s.ldg.behind s.aclk ((rs.head?.map LRec.plane).getD 0) < s.ldg.queue.length + rs.length) :
    s.postAll rs = s.ledgerLose ((rs.head?.map LRec.kind).getD 0) ((rs.head?.map LRec.plane).getD 0) rs.length := by
  unfold State.postAll
  dsimp only
  rw [if_pos]
  rw [Bool.or_eq_true]
  exact h.imp id decide_eq_true

theorem State.postAll_enters {s : State} {rs : List LRec} (hk : s.ldg.keyErr = false)
    (hf : s.ldg.queue.length + rs.length ≤ 64 + s.ldg.behind s.aclk ((rs.head?.map LRec.plane).getD 0)) :
    s.postAll rs = State.ledgerTake { s with
      ldg := ((s.makeRoom ((rs.head?.map LRec.plane).getD 0) rs.length rs.length).ldg.enqueue s.aclk (s.stamped rs)).adv rs.length } := by
  have hroom := State.makeRoom_frame ((rs.head?.map LRec.plane).getD 0) rs.length rs.length s
  unfold State.postAll
  dsimp only
  rw [if_neg, hroom]
  · rfl
  · rw [Bool.or_eq_true, hk, decide_eq_true_eq]
    rintro (h | h)
    · exact Bool.false_ne_true h
    · omega

/-- With room for them the records enter the queue as it is. -/
theorem State.makeRoom_enough (plane need fuel : Nat) (s : State) (h : s.ldg.queue.length + need ≤ 64) : s.makeRoom plane need fuel = s := by
  cases fuel with
  | zero => rfl
  | succ n => exact if_pos h

section
variable {s : State} {rs : List LRec} (hk : s.ldg.keyErr = false) (hf : s.ldg.queue.length + rs.length ≤ 64)
  (hw : s.ldg.cur.isSome = true ∨ s.ldg.valid = false)
include hk hf hw

/-- Records that fit, behind those of their aclk that stand in the queue. -/
theorem State.postAll_queue {old grp : List LRec} (hq : s.ldg.queue = old ++ grp) (hg : ∀ r ∈ grp, r.at_ = some s.aclk)
    (ho : ∀ r, old.getLast? = some r → r.at_ ≠ some s.aclk) (hc : old = [] → ∀ c, s.ldg.cur = some c → c.at_ ≠ some s.aclk) :
    (s.postAll rs).ldg = { s.ldg with
      queue := old ++ numbered ((grp.head?.map LRec.lseq).getD s.ldg.next) ((s.stamped rs).foldl insertRec grp), next := (s.ldg.next + rs.length) % 2 ^ 64 } := by
  rw [State.postAll_enters hk (by omega), State.makeRoom_enough _ _ _ s hf, Ldg.enqueue_queue s.ldg s.aclk (s.stamped rs) old grp hq hg ho hc, State.ledgerTake_idle]
  · rfl
  · exact hw

omit hw in
/-- Records that fit, behind those of their aclk of which the writer has the first. -/
theorem State.postAll_writer {c : LRec} (hg : ∀ r ∈ s.ldg.queue, r.at_ = some s.aclk) (hc : s.ldg.cur = some c) (ha : c.at_ = some s.aclk) :
    (s.postAll rs).ldg.cur.toList ++ (s.postAll rs).ldg.queue = numbered c.lseq ((s.stamped rs).foldl insertRec (c :: s.ldg.queue)) := by
  have hne : ((numbered c.lseq ((s.stamped rs).foldl insertRec (c :: s.ldg.queue))).head?).isSome = true := by
    rw [List.isSome_head?, ← List.length_pos_iff, numbered_length, foldl_insertRec_length]
    exact Nat.add_pos_left (Nat.succ_pos _) _
  rw [State.postAll_enters hk (by omega), State.makeRoom_enough _ _ _ s hf, Ldg.enqueue_writer s.ldg s.aclk (s.stamped rs) c hg hc ha, State.ledgerTake_idle (.inl hne)]
  exact head?_append_tail _

/-- No record of this aclk yet: the new ones stand behind the queue with consecutive numbers (R582). -/
theorem State.postAll_first (hnew : ∀ r ∈ s.ldg.cur.toList ++ s.ldg.queue, r.at_ ≠ some s.aclk) (hp : inPlanes rs) :
    (s.postAll rs).ldg = { s.ldg with queue := s.ldg.queue ++ numbered s.ldg.next (s.stamped rs), next := (s.ldg.next + rs.length) % 2 ^ 64 } := by
  rw [State.postAll_queue hk hf hw (old := s.ldg.queue) (grp := []) (List.append_nil _).symm nofun
    (fun r hr => hnew r (List.mem_append_right _ (List.mem_of_getLast? hr))) fun _ c hc => hnew c (List.mem_append_left _ (by rw [hc]; exact List.mem_singleton.mpr rfl))]
  rw [foldl_insertRec_sorted (s.stamped rs) [] (s.stamped_inPlanes hp)]
  rfl

/-- All records of this aclk, the new ones included, stand in plane order with consecutive numbers, behind the older ones (R23, R582). -/
theorem State.postAll_merges {old now : List LRec} (hall : s.ldg.cur.toList ++ s.ldg.queue = old ++ now) (hg : ∀ r ∈ now, r.at_ = some s.aclk)
    (ho : ∀ r, old.getLast? = some r → r.at_ ≠ some s.aclk) :
    (s.postAll rs).ldg.cur.toList ++ (s.postAll rs).ldg.queue = old ++ numbered ((now.head?.map LRec.lseq).getD s.ldg.next) ((s.stamped rs).foldl insertRec now) := by
  cases hc : s.ldg.cur with
  | none =>
    rw [hc] at hall
    rw [State.postAll_queue hk hf hw hall hg ho fun _ c h => by rw [hc] at h; exact absurd h nofun]
    dsimp only
    rw [hc]
    rfl
  | some c =>
    rw [hc] at hall
    cases old with
    | nil =>
      obtain rfl : c :: s.ldg.queue = now := hall
      rw [State.postAll_writer hk hf (fun r hr => hg r (List.mem_cons_of_mem c hr)) hc (hg c List.mem_cons_self)]
      rfl
    | cons x old =>
      obtain ⟨rfl, hq⟩ := List.cons.inj hall
      have ho' : ∀ r, old.getLast? = some r → r.at_ ≠ some s.aclk := fun r hr => ho r (by rw [List.getLast?_cons, hr]; rfl)
      rw [State.postAll_queue hk hf hw hq hg ho' fun he y hy => ?_]
      · dsimp only
        rw [hc]
        rfl
      · rw [hc] at hy
        exact Option.some.inj hy ▸ ho c (by rw [he]; rfl)

end

/-! ## A full queue -/

/-- A queue whose last `k` records lose their place, one loss of them being counted. -/
def State.cutLost (s : State) (kind plane k : Nat) : State := ({ s with ldg := s.ldg.cut k } : State).ledgerLose kind plane k

theorem Ldg.cut_frame (l : Ldg) (k : Nat) : ∃ next, l.cut k = { l with queue := l.queue.take (l.queue.length - k), next } := ⟨_, rfl⟩

theorem State.cutLost_parts (s : State) (kind plane k : Nat) :
    (s.cutLost kind plane k).ldg.queue = s.ldg.queue.take (s.ldg.queue.length - k) ∧ (s.cutLost kind plane k).ldg.cur = s.ldg.cur
      ∧ (s.cutLost kind plane k).ldg.valid = s.ldg.valid ∧ (s.cutLost kind plane k).ldg.lostCnt = min 0xFFFFFFFF (s.ldg.lostCnt + k) := by
  obtain ⟨next, h⟩ := s.ldg.cut_frame k
  unfold State.cutLost
  rw [h]
  exact ⟨rfl, rfl, rfl, rfl⟩

/-- A record at the end of a full queue loses its place (R584). -/
theorem State.makeRoom_cut (plane need fuel : Nat) (s : State) (h : 64 < s.ldg.queue.length + need) (hk : ∀ r ∈ s.ldg.queue, r.kind ≠ 0x3F) (hq : s.ldg.queue ≠ []) :
    ∃ kind pl, s.makeRoom plane need (fuel + 1) = State.makeRoom plane need fuel (s.cutLost kind pl 1) := by
  rw [State.makeRoom, if_neg (by omega)]
  split
  next hr => exact absurd (List.reverse_eq_nil_iff.mp hr) hq
  next r rest hr =>
    have hmem : r ∈ s.ldg.queue := List.mem_reverse.mp (hr ▸ List.mem_cons_self)
    dsimp only
    rw [if_neg (hk r hmem)]
    exact ⟨_, _, rfl⟩

/-- `d` records make room: the queue is cut to what the new ones leave, and each is counted. -/
theorem State.makeRoom_full (plane need : Nat) (d fuel : Nat) (hd : d ≤ fuel) (hn : need ≤ 64) (s : State) (hl : s.ldg.queue.length + need = 64 + d)
    (hk : ∀ r ∈ s.ldg.queue, r.kind ≠ 0x3F) :
    (s.makeRoom plane need fuel).ldg.queue.length + need = 64 ∧ (s.makeRoom plane need fuel).ldg.cur = s.ldg.cur
      ∧ (s.makeRoom plane need fuel).ldg.valid = s.ldg.valid
      ∧ (0 < d → (s.makeRoom plane need fuel).ldg.lostCnt = min 0xFFFFFFFF (s.ldg.lostCnt + d)) := by
  induction d generalizing fuel s with
  | zero =>
    rw [State.makeRoom_enough plane need fuel s (by omega)]
    exact ⟨hl, rfl, rfl, fun h => absurd h (Nat.lt_irrefl 0)⟩
  | succ d ih =>
    obtain ⟨fuel, rfl⟩ : ∃ m, fuel = m + 1 := ⟨fuel - 1, by omega⟩
    obtain ⟨kind, pl, hcut⟩ := s.makeRoom_cut plane need fuel (by omega) hk (fun he => by rw [he, List.length_nil] at hl; omega)
    obtain ⟨hq, hcur, hvalid, hc⟩ := s.cutLost_parts kind pl 1
    rw [hcut, ← hcur, ← hvalid]
    generalize s.cutLost kind pl 1 = w at hq hc
    have hlen : w.ldg.queue.length + need = 64 + d := by
      rw [hq, List.length_take]
      omega
    obtain ⟨h1, h2, h3, h4⟩ := ih fuel (by omega) w hlen fun r hr => hk r (List.mem_of_mem_take (hq ▸ hr))
    refine ⟨h1, h2, h3, fun _ => ?_⟩
    cases d with
    | zero => rw [State.makeRoom_enough _ _ _ w (by omega), hc, Nat.zero_add]
    | succ d =>
      rw [h4 (Nat.succ_pos d), hc]
      omega

/-- With the writer held, entering keeps the records that stand there, in all, and adds the new ones. -/
theorem Ldg.enqueue_holds (l : Ldg) (now : Nat) (rs : List LRec) (hw : l.cur.isSome = true ∨ l.valid = false) :
    ((l.enqueue now rs).cur.isSome = true ∨ (l.enqueue now rs).valid = false) ∧ (l.enqueue now rs).queue.length = l.queue.length + rs.length
      ∧ (∀ r ∈ rs, ∃ r' ∈ (l.enqueue now rs).cur.toList ++ (l.enqueue now rs).queue, r'.sameEntry r) ∧ (l.enqueue now rs).lostCnt = l.lostCnt := by
  unfold Ldg.enqueue
  dsimp only
  generalize hk : (l.queue.reverse.takeWhile fun r => r.at_ = some now).length = k
  have hlen : (l.queue.take (l.queue.length - k)).length + (l.queue.drop (l.queue.length - k)).length = l.queue.length := by
    rw [← List.length_append, List.take_append_drop]
  split
  next c hc =>
    have hold : l.queue.take (l.queue.length - k) = [] := by
      obtain ⟨-, h⟩ := Option.filter_eq_some_iff.mp hc
      exact List.isEmpty_iff.mp (Bool.and_eq_true_iff.mp h).1
    rw [hold, List.length_nil, Nat.zero_add] at hlen
    generalize hall : numbered c.lseq (rs.foldl insertRec (c :: l.queue.drop (l.queue.length - k))) = all
    have hl : all.length = l.queue.length + 1 + rs.length := by rw [← hall, numbered_length, foldl_insertRec_length, List.length_cons, hlen]
    refine ⟨.inl ?_, ?_, fun r hr => ?_, rfl⟩
    · rw [List.isSome_head?, ← List.length_pos_iff]
      omega
    · rw [List.length_tail]
      omega
    · rw [head?_append_tail, ← hall]
      exact numbered_merged _ hr
  · refine ⟨hw, ?_, fun r hr => ?_, rfl⟩
    · rw [List.length_append, numbered_length, foldl_insertRec_length]
      omega
    · obtain ⟨r', hm, hs⟩ := numbered_merged (b := (((l.queue.drop (l.queue.length - k)).head?.map LRec.lseq).getD l.next)) (l.queue.drop (l.queue.length - k)) hr
      exact ⟨r', List.mem_append_right _ (List.mem_append_right _ hm), hs⟩

theorem Ldg.behind_le (l : Ldg) (now plane : Nat) : l.behind now plane ≤ l.queue.length := by
  unfold Ldg.behind
  rw [← List.length_reverse (as := l.queue)]
  exact (List.takeWhile_sublist _).length_le

/-- In a full queue the new records take the places of those of later planes (R23). -/
theorem State.postAll_full {s : State} {rs : List LRec} (hk : s.ldg.keyErr = false) (h64 : s.ldg.queue.length ≤ 64) (hfull : 64 < s.ldg.queue.length + rs.length)
    (hf : s.ldg.queue.length + rs.length ≤ 64 + s.ldg.behind s.aclk ((rs.head?.map LRec.plane).getD 0)) (hw : s.ldg.cur.isSome = true ∨ s.ldg.valid = false)
    (h3F : ∀ r ∈ s.ldg.queue, r.kind ≠ 0x3F) :
    (s.postAll rs).ldg.queue.length = 64 ∧ (s.postAll rs).ldg.lostCnt = min 0xFFFFFFFF (s.ldg.lostCnt + (s.ldg.queue.length + rs.length - 64))
      ∧ ∀ r ∈ rs, ∃ r' ∈ (s.postAll rs).ldg.cur.toList ++ (s.postAll rs).ldg.queue, r'.sameEntry r := by
  have hb := s.ldg.behind_le s.aclk ((rs.head?.map LRec.plane).getD 0)
  obtain ⟨hlen, hcur, hvalid, hlost⟩ := State.makeRoom_full ((rs.head?.map LRec.plane).getD 0) rs.length (s.ldg.queue.length + rs.length - 64) rs.length
    (by omega) (by omega) s (by omega) h3F
  rw [State.postAll_enters hk hf]
  generalize s.makeRoom ((rs.head?.map LRec.plane).getD 0) rs.length rs.length = m at hlen hcur hvalid hlost
  obtain ⟨hw', hq, hall, hcnt⟩ := m.ldg.enqueue_holds s.aclk (s.stamped rs) (by rw [hcur, hvalid]; exact hw)
  rw [State.ledgerTake_idle]
  · refine ⟨?_, ?_, fun r hr => ?_⟩
    · show (m.ldg.enqueue s.aclk (s.stamped rs)).queue.length = 64
      rw [hq, State.stamped_length, hlen]
    · show (m.ldg.enqueue s.aclk (s.stamped rs)).lostCnt = _
      rw [hcnt, hlost (by omega)]
    · obtain ⟨r1, hm, h1⟩ := s.stamped_mem hr
      obtain ⟨r2, hm2, h2⟩ := hall r1 hm
      exact ⟨r2, hm2, LRec.sameEntry.trans h2 h1⟩
  · exact hw'

/-- Settles O16: `State.postAll_lost`, `State.postAll_first`, `State.postAll_merges` and `State.postAll_full` for the four outcomes of a post. -/
theorem postingQueueTakesOrCounts : Obligations.PostingQueueTakesOrCounts := by
  intro s rs
  refine ⟨s.postAll_frame rs, fun h => ?_, fun hk hf hw hnew hp => ?_, fun hk hf hw old now hall hg ho => ?_, fun hk h64 hfull hf hw h3F => ?_⟩
  · rw [State.postAll_lost h]
    exact ⟨rfl, rfl, rfl⟩
  · rw [State.postAll_first hk hf hw hnew hp]
    refine ⟨_, rfl, by rw [numbered_length, State.stamped_length], fun i r hr => ?_, rfl, rfl⟩
    obtain ⟨hl, r1, h1, rfl⟩ := numbered_lseq hr
    obtain ⟨r0, h0, rfl⟩ := Option.map_eq_some_iff.mp ((List.getElem?_map ..).symm.trans h1)
    exact ⟨rfl, rfl, r0, h0, rfl, rfl, rfl, rfl, rfl, rfl⟩
  · refine ⟨_, State.postAll_merges hk hf hw hall hg ho, ?_, fun hp => ?_, fun i r hr => (numbered_lseq hr).1, fun r0 h0 => ?_⟩
    · rw [numbered_length, foldl_insertRec_length, State.stamped_length]
    · exact numbered_inPlanes _ _ (foldl_insertRec_inPlanes _ _ hp)
    · obtain ⟨r1, hm, h1⟩ := s.stamped_mem h0
      obtain ⟨r2, hm2, h2⟩ := numbered_merged now hm
      exact ⟨r2, hm2, h2.trans h1⟩
  · obtain ⟨hlen, hlost, hall⟩ := State.postAll_full hk h64 hfull hf hw h3F
    refine ⟨hlen, hlost, fun r0 h0 => ?_⟩
    obtain ⟨r, hm, hkind, hsrc, harg, hplane, -⟩ := hall r0 h0
    exact ⟨r, hm, hkind, hsrc, harg, hplane⟩

end Sys2Proof.Machine
end

section
/-! SUPPORT. The load of a service image (R563, R566, R574, R608, R614, R649, R650). -/

namespace Sys2Proof.Machine

/-! ## What the reads of the image change -/

/-- The state with another place in the image and another trace of the interface. -/
def State.readTo (s : State) (pos : Nat) (out : List Spi) : State := { s with svc := { s.svc with pos }, spiOut := out }

theorem State.svcRest_readTo (k : Nat) (s : State) : ∃ pos out, State.svcRest k s = s.readTo pos out := by
  induction k generalizing s with
  | zero => exact ⟨s.svc.pos, s.spiOut, rfl⟩
  | succ k ih =>
    obtain ⟨pos, out, h⟩ := ih s.svcChunk
    refine ⟨pos, out, h.trans ?_⟩
    unfold State.svcChunk
    split
    · rfl
    · rfl

theorem State.loadSec_readTo (b : List Byte) (s : State) (x : Sec) (pos : Nat) (out : List Spi) :
    State.loadSec b (s.readTo pos out) x = (State.loadSec b s x).readTo pos out := by
  unfold State.loadSec
  dsimp only
  split <;> rfl

theorem State.loadSvc_readTo (b : List Byte) (s : State) (pos : Nat) (out : List Spi) : (s.readTo pos out).loadSvc b = (s.loadSvc b).readTo pos out := by
  have h : ∀ (l : List Sec) (s : State), l.foldl (State.loadSec b) (s.readTo pos out) = (l.foldl (State.loadSec b) s).readTo pos out := fun l => by
    induction l with
    | nil => exact fun _ => rfl
    | cons x l ih => exact fun s => by rw [List.foldl_cons, State.loadSec_readTo, ih]; rfl
  unfold State.loadSvc
  rw [h]
  rfl

theorem ruleFails_readTo (s : State) (w : Where) (pos : Nat) (out : List Spi) : ruleFails (s.readTo pos out) w = ruleFails s w := rfl

/-- The checks look at neither the place in the image nor the interface. -/
theorem State.loadFail_readTo (s : State) (b : List Byte) (pos : Nat) (out : List Spi) : (s.readTo pos out).loadFail b = s.loadFail b := by
  have hc : contentFail true b (s.readTo pos out) = contentFail true b s := by
    unfold contentFail
    rw [if_pos rfl, if_pos rfl, State.loadSvc_readTo, ruleFails_readTo]
    rfl
  unfold State.loadFail
  rw [hc]
  rfl

/-! ## What the sections write -/

/-- Only what an image configures changes (R608). -/
def sameButCfg (s t : State) : Prop :=
  t = { s with gate := t.gate, ldg := t.ldg, sun := t.sun, arb := t.arb, hpt := t.hpt, doms := t.doms, lch := t.lch }

theorem sameButCfg.trans {s t u : State} (h : sameButCfg s t) (k : sameButCfg t u) : sameButCfg s u := by
  unfold sameButCfg at *
  rw [k, h]

theorem sameButCfg.loadSec (b : List Byte) (s : State) (x : Sec) : sameButCfg s (State.loadSec b s x) := by
  unfold State.loadSec sameButCfg
  dsimp only
  split <;> rfl

theorem sameButCfg.sections (b : List Byte) (l : List Sec) (s : State) : sameButCfg s (l.foldl (State.loadSec b) s) := by
  induction l generalizing s with
  | nil => rfl
  | cons x l ih => exact (sameButCfg.loadSec b s x).trans (ih _)

theorem sameButCfg.loadSvc (b : List Byte) (s : State) : sameButCfg s (s.loadSvc b) := (sameButCfg.sections b _ s).trans rfl

/-- A section writes the logical channel that it names. -/
theorem State.loadSec_lch (b : List Byte) (s : State) (x : Sec) (m : Log) (hm : x.inst % 128 ≠ m.val) : (State.loadSec b s x).lch[m] = s.lch[m] := by
  have hne : Fin.ofNat 128 x.inst ≠ m := fun h => hm (congrArg Fin.val h)
  unfold State.loadSec
  dsimp only
  split
  · rfl
  · rfl
  · rfl
  · rfl
  · rw [State.modL_lch, if_neg hne]
  · rw [State.modL_lch, if_neg hne]

theorem State.loadSvc_lch (b : List Byte) (s : State) (m : Log) (hm : ∀ x ∈ sections b, x.inst % 128 ≠ m.val) : (s.loadSvc b).lch[m] = s.lch[m] := by
  have h : ∀ (l : List Sec) (s : State), (∀ x ∈ l, x.inst % 128 ≠ m.val) → (l.foldl (State.loadSec b) s).lch[m] = s.lch[m] := fun l => by
    induction l with
    | nil => exact fun _ _ => rfl
    | cons x l ih => exact fun s hl => (ih _ fun y hy => hl y (List.mem_cons_of_mem x hy)).trans (s.loadSec_lch b x m (hl x List.mem_cons_self))
  exact h (sections b) s hm

/-! ## What a reload leaves -/

/-- A logical channel as a reload leaves it (R650). -/
def LCh.renewed (l : LCh) : Prop := l.reloaded = true ∧ ∀ q : Qn, l.qs[q].lastAcc = 0xFFFF ∧ l.qs[q].rcnt = 0 ∧ l.qs[q].fidx = 0

theorem LCh.reload_renewed (l : LCh) (now : Nat) : (l.reload now).renewed := by
  refine ⟨rfl, fun q => ?_⟩
  have h : (l.reload now).qs[q] = (l.qs[q]).reload now := mapV_get l.qs (fun _ u => u.reload now) q
  rw [h]
  exact ⟨rfl, rfl, rfl⟩

/-- The logical channels `ls` are reloaded. -/
def State.reloads (s : State) (now : Nat) (ls : List Log) : State := ls.foldl (fun (t : State) n => t.modL n fun l => l.reload now) s

theorem State.reloads_frame (now : Nat) (ls : List Log) (s : State) : s.reloads now ls = { s with lch := (s.reloads now ls).lch } := by
  induction ls generalizing s with
  | nil => rfl
  | cons n ls ih => exact ih (s.modL n fun l => l.reload now)

theorem State.reloads_other (now : Nat) (m : Log) (ls : List Log) (hm : m ∉ ls) (s : State) : (s.reloads now ls).lch[m] = s.lch[m] := by
  induction ls generalizing s with
  | nil => rfl
  | cons n ls ih =>
    obtain ⟨hn, hl⟩ := List.ne_and_not_mem_of_not_mem_cons hm
    refine (ih hl _).trans ?_
    rw [State.modL_lch, if_neg (Ne.symm hn)]

theorem State.reloads_renewed (now : Nat) (m : Log) (ls : List Log) (s : State) (h : m ∈ ls ∨ s.lch[m].renewed) : (s.reloads now ls).lch[m].renewed := by
  induction ls generalizing s with
  | nil => exact h.resolve_left List.not_mem_nil
  | cons n ls ih =>
    refine ih _ ?_
    rw [State.modL_lch]
    by_cases hn : n = m
    · rw [if_pos hn]
      exact .inr (LCh.reload_renewed _ now)
    · rw [if_neg hn]
      exact h.imp_left fun hm => (List.mem_cons.mp hm).resolve_left (Ne.symm hn)

/-- The logical channels that an image names. -/
def namedLogs (img : List Byte) : List Log := (lmask img).map fun n => Fin.ofNat 128 n

theorem mem_namedLogs (img : List Byte) (m : Log) : m ∈ namedLogs img ↔ m.val ∈ lmask img := by
  have hlt : ∀ n ∈ lmask img, n < 128 := fun n hn => List.mem_range.mp (List.mem_filter.mp hn).1
  unfold namedLogs
  rw [List.mem_map]
  constructor
  · rintro ⟨n, hn, rfl⟩
    rw [Fin.val_ofNat, Nat.mod_eq_of_lt (hlt n hn)]
    exact hn
  · exact fun hm => ⟨m.val, hm, Fin.ext (Nat.mod_eq_of_lt m.isLt)⟩

/-! ## The end of the load -/

/-- The load is over. -/
def State.loadIdle (t : State) : State :=
  { t with gate := { t.gate with key := none }, svc := { t.svc with busy := false, named := [], len := 0, pos := 0, inService := false } }

/-- The load has passed (R650). -/
def State.loadPass (s : State) (img : List Byte) : State :=
  let t := (s.loadSvc img).reloads s.aclk (namedLogs img)
  ({ t with svc := { t.svc with done := true } } : State).loadIdle.post 0x31 2 (namedLogs img).length (leBytes 4 s.svc.addr ++ leBytes 4 (field img 12 4))

/-- What a pass leaves: the sections' writes and the reloads. -/
theorem State.loadPass_frame (s : State) (img : List Byte) :
    (s.loadPass img).svc = { s.svc with done := true, busy := false, named := [], len := 0, pos := 0, inService := false }
      ∧ (s.loadPass img).lch = ((s.loadSvc img).reloads s.aclk (namedLogs img)).lch
      ∧ (s.loadPass img).map = s.map ∧ (s.loadPass img).phys = s.phys ∧ (s.loadPass img).fence = s.fence ∧ (s.loadPass img).ters = s.ters := by
  have h : sameButCfg s ((s.loadSvc img).reloads s.aclk (namedLogs img)) := by
    refine (sameButCfg.loadSvc img s).trans ?_
    unfold sameButCfg
    rw [State.reloads_frame]
  unfold State.loadPass
  dsimp only
  rw [State.post_frame]
  generalize (s.loadSvc img).reloads s.aclk (namedLogs img) = w at h ⊢
  unfold sameButCfg at h
  rw [h]
  exact ⟨rfl, rfl, rfl, rfl, rfl, rfl⟩

section
variable {s : State} {img : List Byte} (hb : s.svc.busy = true) (hq : s.gate.kpReq = none) (hl : img.length = s.svc.len ∨ s.gate.kpErr ≠ 0)
  (hi : img = [] ∨ s.svc.len ≤ s.svc.pos ∨ s.ldg.idle = true)
include hb hq hl hi

theorem exec_serviceLoadEnd : ∃ pos out, (∀ c d, s.loadFail img = some (c, d) → exec (.serviceLoadEnd img) s = .next ((s.readTo pos out).loadIdle.loadReject c d))
    ∧ (s.loadFail img = none → exec (.serviceLoadEnd img) s = .next ((s.readTo pos out).loadPass img)) := by
  obtain ⟨pos, out, h⟩ : ∃ pos out, (if img.isEmpty then s else State.svcRest 256 s) = s.readTo pos out := by
    split
    · exact ⟨s.svc.pos, s.spiOut, rfl⟩
    · exact State.svcRest_readTo 256 s
  have hfail := s.loadFail_readTo img pos out
  have hwait : (!img.isEmpty && decide (s.svc.pos < s.svc.len) && !s.ldg.idle) = false := by
    rcases hi with rfl | hi | hi
    · rfl
    · rw [decide_eq_false (by omega), Bool.and_false, Bool.false_and]
    · rw [hi, Bool.not_true, Bool.and_false]
  have hopen : (!s.svc.busy || s.gate.kpReq.isSome || !(decide (img.length = s.svc.len) || decide (s.gate.kpErr ≠ 0))) = false := by
    rw [hb, hq]
    rcases hl with hl | hl
    · rw [decide_eq_true hl, Bool.true_or]; rfl
    · rw [decide_eq_true hl, Bool.or_true]; rfl
  refine ⟨pos, out, fun c d hc => ?_, fun hc => ?_⟩
  · show execServiceLoadEnd img s = _
    unfold execServiceLoadEnd
    dsimp only
    rw [hopen, hwait, if_neg Bool.false_ne_true, if_neg Bool.false_ne_true, h, hfail, hc]
    rfl
  · show execServiceLoadEnd img s = _
    unfold execServiceLoadEnd
    dsimp only
    rw [hopen, hwait, if_neg Bool.false_ne_true, if_neg Bool.false_ne_true, h, hfail, hc]
    rfl

end

/-! ## The start of the load -/

theorem State.mayServe_secure {s : State} {r : Rqr} (h : s.secure r = true) (ls : List Log) : s.mayServe r ls = true := by
  unfold State.mayServe
  rw [h]
  rfl

/-- A load that begins (R649). -/
def State.loadBegin (s : State) (hdr : List Byte) : State :=
  State.askAuth { (s.spiReads [(s.svc.addr, 64)]) with
    svc := { s.svc with busy := true, named := lmask hdr, len := field hdr 8 4, pos := 0, inService := (namedLogs hdr).any fun n => !s.lch[n].oos } }

theorem State.loadGo_begins {s : State} {hdr : List Byte} {r : Rqr} (hs : s.secure r = true) (hk : s.gate.locked = true) (hp : s.gate.svcPath = true)
    (hb : s.svc.busy = false) (ha : 0x200000 ≤ s.svc.addr) (ha' : s.svc.addr ≤ 0x3FFFC0) (hh : headerFail hdr 2 = none) (hlen : s.svc.addr + field hdr 8 4 ≤ 0x400000) :
    s.loadGo hdr r = s.loadBegin hdr := by
  have hfail : svcHeaderFail hdr s.svc.addr = none := by
    unfold svcHeaderFail
    rw [hh]
    exact if_neg (by omega)
  have hserve : (s.spiReads [(s.svc.addr, 64)]).mayServe r ((lmask hdr).map fun n => Fin.ofNat 128 n) = true := State.mayServe_secure hs _
  have haddr : (decide (s.svc.addr < 0x200000) || decide (s.svc.addr > 0x3FFFC0)) = false := by
    rw [decide_eq_false (by omega), decide_eq_false (by omega)]
    rfl
  unfold State.loadGo
  dsimp only
  rw [hk, hp, hb, haddr, hfail, hserve]
  rfl

/-- Settles O28: the checks do not look at what the reads of the image change (`State.loadFail_readTo`); a pass is the sections' writes and the reloads of the named channels. -/
theorem serviceLoadsRunAndEnd : Obligations.ServiceLoadsRunAndEnd := by
  refine ⟨fun s hdr r hs hk hm hp hb ha ha' hh hlen => ?_, fun s img hb hq hl hi => ?_⟩
  · obtain ⟨hpor, hsec⟩ := (s.mgSecure_iff r).mp hs
    have hmay : s.mayLoad r = true := by
      unfold State.mayLoad State.right
      rw [hk, hm, hsec]
      rfl
    refine ⟨s.loadBegin hdr, ?_, rfl, rfl, rfl, rfl, rfl, rfl⟩
    show when s.porN s _ = _
    rw [hpor, hmay, if_pos rfl, State.loadGo_begins hsec hk hp hb ha ha' hh hlen]
    rfl
  · obtain ⟨pos, out, hbad, hgood⟩ := exec_serviceLoadEnd hb hq hl hi
    refine ⟨fun c d hc => ⟨_, hbad c d hc, ?_⟩, fun hc => ⟨_, hgood hc, ?_⟩⟩
    · unfold State.loadReject
      rw [State.post_frame]
      exact ⟨rfl, rfl, rfl, rfl, rfl, rfl⟩
    · obtain ⟨hsvc, hlch, hmap, hphys, hfence, hters⟩ := (s.readTo pos out).loadPass_frame img
      refine ⟨by rw [hsvc], by rw [hsvc], by rw [hsvc]; rfl, fun m hm hx => ?_, fun m hm => ?_, hmap, hphys, hfence, hters⟩
      · rw [hlch, State.reloads_other _ m _ (mt (mem_namedLogs img m).mp hm), State.loadSvc_lch img _ m hx]
        rfl
      · obtain ⟨hr, hq⟩ := State.reloads_renewed (s.readTo pos out).aclk m (namedLogs img) ((s.readTo pos out).loadSvc img) (.inl ((mem_namedLogs img m).mpr hm))
        unfold State.que
        rw [hlch]
        exact ⟨hr, hq⟩

end Sys2Proof.Machine
end

section
/-! SUPPORT. How a logical channel begins to be served, and how it is left unserved (R34, R77, R142, R418, R501, R514, R518, R519, R645). -/

namespace Sys2Proof.Machine

/-! ## Queues -/

/-- A queue but for what its link carries and owes. -/
def sameButLink (u v : Que) : Prop :=
  v = { u with link := v.link, wordCr := v.wordCr, flitCr := v.flitCr, owed := v.owed, discard := v.discard, toDrop := v.toDrop }

theorem sameButLink.refl (u : Que) : sameButLink u u := rfl

theorem sameButLink.trans {u v w : Que} (h : sameButLink u v) (k : sameButLink v w) : sameButLink u w := by
  unfold sameButLink at *
  rw [k, h]

/-- A queue holds the same descriptors and stands at the same sequence numbers (R66). -/
def sameSeqs (u v : Que) : Prop := v.acc.map Acc.id = u.acc.map Acc.id ∧ v.lastAcc = u.lastAcc ∧ v.lastRet = u.lastRet

theorem sameSeqs.refl (u : Que) : sameSeqs u u := ⟨rfl, rfl, rfl⟩

theorem sameSeqs.trans {u v w : Que} (h : sameSeqs u v) (k : sameSeqs v w) : sameSeqs u w :=
  ⟨k.1.trans h.1, k.2.1.trans h.2.1, k.2.2.trans h.2.2⟩

theorem sameButLink.seqs {u v : Que} (h : sameButLink u v) : sameSeqs u v := by
  unfold sameButLink at h
  rw [h]
  exact ⟨rfl, rfl, rfl⟩

theorem sameButLink.parts {u v : Que} (h : sameButLink u v) : v.st = u.st ∧ v.cfg = u.cfg ∧ v.lastAcc = u.lastAcc ∧ v.lastRet = u.lastRet := by
  unfold sameButLink at h
  rw [h]
  exact ⟨rfl, rfl, rfl, rfl⟩

theorem updFirst_ids (p : Acc → Bool) (f : Acc → Acc) (hf : ∀ a, (f a).id = a.id) (l : List Acc) : (updFirst p f l).map Acc.id = l.map Acc.id := by
  induction l with
  | nil => rfl
  | cons a l ih =>
    unfold updFirst
    split
    · rw [List.map_cons, List.map_cons, hf]
    · rw [List.map_cons, List.map_cons, ih]

theorem sameSeqs.release (u : Que) (id now : Nat) : sameSeqs u (u.release id now) := by
  unfold Que.release
  split <;> exact ⟨rfl, rfl, rfl⟩

theorem sameSeqs.modA (u : Que) (id : Nat) (f : Acc → Acc) (hf : ∀ a, (f a).id = a.id) : sameSeqs u (u.modA id f) :=
  ⟨updFirst_ids _ f hf u.acc, rfl, rfl⟩

theorem sameSeqs.foldl {α : Type} (f : Que → α → Que) (hf : ∀ u a, sameSeqs u (f u a)) (l : List α) (u : Que) : sameSeqs u (l.foldl f u) := by
  induction l generalizing u with
  | nil => exact .refl u
  | cons a l ih => exact (hf u a).trans (ih _)

theorem sameSeqs.settleRestored (u : Que) (now : Nat) : sameSeqs u (u.settleRestored now) := by
  unfold Que.settleRestored
  refine .foldl _ (fun v a => ?_) _ u
  split
  · refine (sameSeqs.modA v a.id _ ?_).trans (.release _ a.id now)
    exact fun _ => rfl
  · exact .refl v

theorem sameSeqs.trigger (u : Que) (dg : Nat) : sameSeqs u (u.trigger dg) := ⟨by rw [Que.trigger_acc], Que.trigger_lastAcc u dg, Que.trigger_lastRet u dg⟩

theorem sameSeqs.activate (u : Que) (dg : Nat) : sameSeqs u (u.activate dg) := ⟨by rw [Que.activate_acc], Que.activate_lastAcc u dg, Que.activate_lastRet u dg⟩

theorem sameSeqs.returnState (u : Que) (reloaded : Bool) : sameSeqs u (u.returnState reloaded) := by
  unfold Que.returnState
  dsimp only
  generalize (if reloaded then u.cfg.initActive && u.cfg.valid else u.wasOn || (u.enp && u.cfg.valid)) = b
  cases b with
  | false => exact ⟨rfl, rfl, rfl⟩
  | true => exact sameSeqs.activate { u with wasOn := false, enp := false, enDg := 0 } u.enDg

/-- A queue as its channel begins to be served (R114, R402, R418). -/
def Que.served (u : Que) (takeover : Bool) (now : Nat) : Que :=
  let v := (if takeover then u.fillBal now else u).settleRestored now
  if v.st == .active then v.trigger 0 else v

theorem sameSeqs.served (u : Que) (takeover : Bool) (now : Nat) : sameSeqs u (u.served takeover now) := by
  have hfill : sameSeqs u (if takeover then u.fillBal now else u) := by
    split
    · exact ⟨rfl, rfl, rfl⟩
    · exact .refl u
  unfold Que.served
  dsimp only
  generalize (if takeover then u.fillBal now else u) = v at hfill ⊢
  refine (hfill.trans (.settleRestored v now)).trans ?_
  split
  · exact .trigger _ 0
  · exact .refl _

/-! ## The resume of a logical channel -/

/-- The announcement of `n`'s queues: its packets, and what the link of each queue carries. -/
structure Announces (n : Log) (s t : State) : Prop where
  atLog : AtLog n s t
  ques : ∀ q : Qn, sameButLink (s.que n q) (t.que n q)

theorem Announces.refl (n : Log) (s : State) : Announces n s s := ⟨.refl n s, fun _ => .refl _⟩

theorem Announces.trans {n : Log} {s t u : State} (h : Announces n s t) (k : Announces n t u) : Announces n s u :=
  ⟨h.atLog.trans k.atLog, fun q => (h.ques q).trans (k.ques q)⟩

theorem Announces.foldl {α : Type} {n : Log} (f : State → α → State) (hf : ∀ s a, Announces n s (f s a)) (l : List α) (s : State) : Announces n s (l.foldl f s) := by
  induction l generalizing s with
  | nil => exact .refl n s
  | cons a l ih => exact (hf s a).trans (ih _)

theorem Announces.send (n : Log) (s : State) (k : Pkt) : Announces n s (s.send n k) :=
  ⟨.send n s k, fun q => by rw [State.que_congr (State.send_lch s n k)]; exact .refl _⟩

theorem Announces.modQ (n : Log) (q : Qn) (s : State) (f : Que → Que) (hf : ∀ u, sameButLink u (f u)) : Announces n s (s.modQ n q f) := by
  refine ⟨.modQ n q s f, fun r => ?_⟩
  by_cases hr : q = r
  · subst hr
    rw [State.modQ_que]
    exact hf _
  · rw [State.modQ_que_ne _ n hr]
    exact .refl _

theorem Announces.resume (n : Log) (takeover : Bool) (s : State) (q : Qn) : Announces n s (s.resume n takeover q) := by
  unfold State.resume
  dsimp only
  split
  · exact .refl n s
  · refine (Announces.modQ n q s _ fun u => ?_).trans (.send n _ _)
    rfl

theorem Announces.resendHalt (n : Log) (s : State) (q : Qn) : Announces n s (s.resendHalt n q) := by
  unfold State.resendHalt
  split
  · split
    · exact .send n s _
    · exact .refl n s
  · exact .refl n s

theorem Announces.badMarks (n : Log) (s : State) (bad : List Qn) : Announces n s (s.badMarks n bad) := by
  unfold State.badMarks State.over
  refine .foldl _ (fun s q => .modQ n q s _ fun u => ?_) bad s
  rfl

/-- The packets with which `n` begins to be served. -/
def State.announce (s : State) (n : Log) (takeover : Bool) : State :=
  if s.hrstN && s.vddCore then (fins 4).foldl (fun s q => s.resendHalt n q) ((fins 4).foldl (fun s q => s.resume n takeover q) s) else s

theorem Announces.announce (n : Log) (takeover : Bool) (s : State) : Announces n s (s.announce n takeover) := by
  unfold State.announce
  split
  · exact (Announces.foldl _ (Announces.resume n takeover) _ s).trans (.foldl _ (Announces.resendHalt n) _ _)
  · exact .refl n s

theorem State.serveStart_eq (s : State) (n : Log) (takeover : Bool) : s.serveStart n takeover = (s.announce n takeover).modL n fun l =>
    { l with rrOut := 0, rrSlot := 0, chEnp := false, qs := mapV l.qs fun _ u => u.served takeover s.aclk } := rfl

/-- The RESUME of a CMD queue in service (R77). -/
theorem State.resume_sends (s : State) (n : Log) (takeover : Bool) (q : Qn) (hst : (s.que n q).st ≠ .disabled) (hr : (s.que n q).cfg.ring = false) (hd : s.tap.drives = false) :
    ∃ replay, (n, Pkt.resume q (s.que n q).lastAcc takeover replay (s.inc n) (s.que n q).lastRet (s.que n q).cfg.window
      (if (s.que n q).cfg.stream then 0 else (s.que n q).cfg.initWords)) ∈ (s.resume n takeover q).linkOut := by
  refine ⟨takeover && !(s.que n q).cfg.stream && (s.que n q).acc.any fun a => a.runs && a.d.takesDeliver, ?_⟩
  have hgo : ((s.que n q).st == QS.disabled || !(!(s.que n q).cfg.ring || (s.que n q).cfg.ring && !(s.que n q).cfg.stream && decide ((s.que n q).cfg.fifo - 64 > 0))) = false := by
    rw [hr, beq_eq_false_iff_ne.mpr hst]
    rfl
  unfold State.resume
  dsimp only
  rw [if_neg (by rw [hgo]; exact Bool.false_ne_true), State.send_linkOut, if_neg (by rw [show (s.modQ n q _).tap = s.tap from rfl, hd]; exact Bool.false_ne_true)]
  refine List.mem_append_right _ (List.mem_singleton.mpr ?_)
  rw [hr]
  rfl

/-- Every CMD queue in service is announced (R77). -/
theorem State.announce_resumes (s : State) (n : Log) (takeover : Bool) (hon : s.on = true) (hd : s.tap.drives = false) (q : Qn) (hst : (s.que n q).st ≠ .disabled)
    (hr : (s.que n q).cfg.ring = false) :
    ∃ replay, (n, Pkt.resume q (s.que n q).lastAcc takeover replay (s.inc n) (s.que n q).lastRet (s.que n q).cfg.window
      (if (s.que n q).cfg.stream then 0 else (s.que n q).cfg.initWords)) ∈ (s.announce n takeover).linkOut := by
  obtain ⟨l, m, hl⟩ := List.append_of_mem (mem_fins q)
  have hann : s.announce n takeover = (fins 4).foldl (fun s q => s.resendHalt n q)
      (m.foldl (fun s q => s.resume n takeover q) ((l.foldl (fun s q => s.resume n takeover q) s).resume n takeover q)) := by
    have hin : (fins 4).foldl (fun s q => s.resume n takeover q) s = m.foldl (fun s q => s.resume n takeover q) ((l.foldl (fun s q => s.resume n takeover q) s).resume n takeover q) := by
      rw [hl, List.foldl_append, List.foldl_cons]
    unfold State.announce
    rw [if_pos (show (s.hrstN && s.vddCore) = true from hon), hin]
  have hbefore := Announces.foldl _ (Announces.resume n takeover) l s
  generalize l.foldl (fun s q => s.resume n takeover q) s = w at hann hbefore
  have hafter := (Announces.foldl _ (Announces.resume n takeover) m (w.resume n takeover q)).trans (.foldl _ (Announces.resendHalt n) (fins 4) _)
  rw [← hann] at hafter
  have hinc : w.inc n = s.inc n := by
    unfold State.inc
    rw [hbefore.atLog.fence]
  obtain ⟨hwst, hwcfg, hwacc, hwret⟩ := (hbefore.ques q).parts
  obtain ⟨replay, hmem⟩ := w.resume_sends n takeover q (by rw [hwst]; exact hst) (by rw [hwcfg]; exact hr) (by rw [hbefore.atLog.state]; exact hd)
  rw [hwacc, hwret, hwcfg, hinc] at hmem
  exact ⟨replay, hafter.atLog.sent.subset hmem⟩

/-! ## The frame of an arrival -/

/-- A terrace but for its command, its status and the places that a SWAP left vacant. -/
def sameButSvc (x y : TerSt) : Prop := y = { x with cmd := y.cmd, sdone := y.sdone, sfail := y.sfail, result := y.result, vacant := y.vacant }

theorem sameButSvc.refl (x : TerSt) : sameButSvc x x := rfl

theorem sameButSvc.trans {x y z : TerSt} (h : sameButSvc x y) (k : sameButSvc y z) : sameButSvc x z := by
  unfold sameButSvc at *
  rw [k, h]

/-- What changes when `n` begins to be served: its entry, the commands of its terrace, identities, the ledger and packets; its queues hold the same descriptors. -/
structure Arrives (n : Log) (s t : State) : Prop where
  state : t = { s with lch := t.lch, ters := t.ters, nextId := t.nextId, ldg := t.ldg, linkOut := t.linkOut }
  others : sameOthers n s t
  sent : s.linkOut <+: t.linkOut
  svc : ∀ x : Ter, sameButSvc s.ters[x] t.ters[x]
  ques : ∀ q : Qn, sameSeqs (s.que n q) (t.que n q)

section
variable {n : Log} {s t u : State}

theorem Arrives.refl (n : Log) (s : State) : Arrives n s s := ⟨rfl, fun _ _ => rfl, List.prefix_rfl, fun _ => rfl, fun _ => .refl _⟩

theorem Arrives.trans (h : Arrives n s t) (k : Arrives n t u) : Arrives n s u where
  state := by rw [k.state, h.state]
  others m hm := (k.others m hm).trans (h.others m hm)
  sent := h.sent.trans k.sent
  svc x := (h.svc x).trans (k.svc x)
  ques q := (h.ques q).trans (k.ques q)

theorem AtLog.arrives (h : AtLog n s t) (hq : ∀ q : Qn, sameSeqs (s.que n q) (t.que n q)) : Arrives n s t where
  state := by rw [h.state]
  others := h.others
  sent := h.sent
  svc x := by rw [h.ters]; exact .refl _
  ques := hq

theorem Announces.arrives (h : Announces n s t) : Arrives n s t := h.atLog.arrives fun q => (h.ques q).seqs

/-- An update of every queue of the entry. -/
theorem Arrives.modQs (n : Log) (s : State) (g : Que → Que) (hg : ∀ u, sameSeqs u (g u)) (f : LCh → LCh) (hf : (f s.lch[n]).qs = mapV s.lch[n].qs fun _ u => g u) : Arrives n s (s.modL n f) := by
  refine (AtLog.modL n s f).arrives fun q => ?_
  have h : (s.modL n f).lch[n].qs = mapV s.lch[n].qs fun _ u => g u := by rw [State.modL_lch, if_pos rfl, hf]
  have hq : (s.modL n f).que n q = g (s.que n q) := (congrArg (fun v : Vector Que 4 => v[q]) h).trans (mapV_get _ (fun _ u => g u) q)
  rw [hq]
  exact hg _

theorem Arrives.backInService (n : Log) (s : State) : Arrives n s (s.backInService n) := by
  unfold State.backInService
  exact .modQs n s (fun u => u.returnState s.lch[n].reloaded) (fun u => .returnState u _) _ rfl

theorem Arrives.serveStart (n : Log) (s : State) (takeover : Bool) : Arrives n s (s.serveStart n takeover) := by
  rw [State.serveStart_eq]
  refine (Announces.announce n takeover s).arrives.trans (.modQs n _ (fun u => u.served takeover s.aclk) (fun u => .served u takeover _) _ rfl)

theorem Arrives.post (n : Log) (s : State) (kind plane src : Nat) (arg : List Byte) (q : Nat) : Arrives n s (s.post kind plane src arg q) := by
  rw [State.post_frame]
  exact ⟨rfl, fun _ _ => rfl, List.prefix_rfl, fun _ => rfl, fun _ => .refl _⟩

theorem Arrives.modT (n : Log) (s : State) (x : Ter) (f : TerSt → TerSt) (hf : ∀ y, sameButSvc y (f y)) : Arrives n s (s.modT x f) := by
  refine ⟨rfl, fun _ _ => rfl, List.prefix_rfl, fun y => ?_, fun _ => .refl _⟩
  rw [State.modT_ters]
  split
  next h => subst h; exact hf _
  · exact .refl _

theorem Arrives.svcDone (n : Log) (s : State) (op : Nat) : Arrives n s (s.svcDone op n) := by
  unfold State.svcDone
  split
  · split
    · dsimp only
      split
      · refine .modT n s _ _ ?_
        exact fun _ => rfl
      · refine .modT n s _ _ ?_
        exact fun _ => rfl
    · exact .refl n s
  · exact .refl n s

theorem Arrives.arrive (n : Log) (s : State) (old new : Nat) (takeover : Bool) : Arrives n s (s.arrive n old new takeover) := by
  unfold State.arrive
  split
  · exact (((Arrives.backInService n s).trans (.serveStart n _ takeover)).trans (.post n _ _ _ _ _ _)).trans (.svcDone n _ 2)
  · exact (Arrives.serveStart n s takeover).trans (.svcDone n _ 4)

end

/-! ## Journal errors and unserved logical channels -/

/-- Corrected errors are counted (R518). -/
theorem State.journalOk_frame (s : State) (t : Ter) (j : JErr) : s.journalOk t j = { s with ters := (s.journalOk t j).ters } := by
  unfold State.journalOk
  split <;> rfl

theorem State.journalOk_ters (s : State) (t : Ter) (j : JErr) (x : Ter) : ∃ jecc, (s.journalOk t j).ters[x] = { s.ters[x] with jecc } := by
  unfold State.journalOk
  split
  · rw [State.modT_ters]
    split
    next h => subst h; exact ⟨_, rfl⟩
    · exact ⟨_, rfl⟩
  · exact ⟨_, rfl⟩
  · exact ⟨_, rfl⟩

/-- An entry that is given up is reported once (R518). -/
theorem State.journalLost_frame (s : State) (n : Log) :
    s.journalLost n = { s with ters := (s.journalLost n).ters, ldg := (s.journalLost n).ldg, jbad := s.jbad.set n none } := by
  unfold State.journalLost State.journalErr
  dsimp only
  split
  · rfl
  · rw [State.post_frame]
    rfl

theorem State.journalErr_ters (s : State) (n : Log) (x : Ter) :
    (s.journalErr n).ters[x] = if terL n = x then { s.ters[terL n] with jue := true, juec := satAdd 0xFFFF s.ters[terL n].juec 1 } else s.ters[x] := by
  unfold State.journalErr
  rw [State.post_frame]
  exact State.modT_ters s (terL n) x fun x => { x with jue := true, juec := satAdd 0xFFFF x.juec 1 }

theorem State.journalLost_ters (s : State) (n : Log) (x : Ter) : ∃ jue juec, (s.journalLost n).ters[x] = { s.ters[x] with jue, juec } ∧ (s.jbad[n] = none → x = terL n → jue = true) := by
  unfold State.journalLost
  dsimp only
  cases h : s.jbad[n] with
  | some _ => exact ⟨_, _, rfl, nofun⟩
  | none =>
    have hx := s.journalErr_ters n x
    by_cases ht : terL n = x
    · subst ht
      rw [if_pos rfl] at hx
      exact ⟨_, _, hx, fun _ _ => rfl⟩
    · rw [if_neg ht] at hx
      exact ⟨_, _, hx, fun _ k => absurd k.symm ht⟩

theorem State.journalLost_jbad (s : State) (n : Log) : (s.journalLost n).jbad[n] = none := by
  rw [State.journalLost_frame]
  exact Vector.getElem_set_self ..

theorem State.svcLost_frame (s : State) (n : Log) (result : Nat) : s.svcLost n result = { s with ters := (s.svcLost n result).ters } := by
  unfold State.svcLost
  split
  · split
    · dsimp only
      split <;> rfl
    · rfl
  · rfl

theorem State.svcLost_ters (s : State) (n : Log) (result : Nat) (x : Ter) : sameButSvc s.ters[x] (s.svcLost n result).ters[x] := by
  have h : ∀ f : TerSt → TerSt, (∀ y, sameButSvc y (f y)) → sameButSvc s.ters[x] (s.modT (terL n) f).ters[x] := fun f hf => by
    rw [State.modT_ters]
    split
    next hx => subst hx; exact hf _
    · exact .refl _
  unfold State.svcLost
  split
  · split
    · dsimp only
      split
      · exact h _ fun _ => rfl
      · exact h _ fun _ => rfl
    · exact .refl _
  · exact .refl _

/-- R34: no channel serves `n`, its terrace says so, and a command that named it loses it. -/
theorem State.unserve_eq (s : State) (n : Log) (p : Nat) : ∃ w : State, s.unserve n p = w.svcLost n 5
    ∧ w = { s with map := s.map.set n none, ters := (s.modT (terL n) fun x => { x with noRes := true }).ters, lch := w.lch, ldg := w.ldg } ∧ sameOthers n s w := by
  refine ⟨_, rfl, ?_, fun m hm => ?_⟩
  · rw [State.post_frame]
    rfl
  · rw [State.post_frame]
    dsimp only
    rw [State.modL_lch, if_neg (Ne.symm hm)]
    rfl

theorem State.unserve_frame (s : State) (n : Log) (p : Nat) : s.unserve n p = { s with
    map := s.map.set n none, ters := (s.unserve n p).ters, lch := (s.unserve n p).lch, ldg := (s.unserve n p).ldg } := by
  obtain ⟨w, hu, hw, -⟩ := s.unserve_eq n p
  rw [hu, State.svcLost_frame, hw]

theorem State.unserve_others (s : State) (n : Log) (p : Nat) : sameOthers n s (s.unserve n p) := fun m hm => by
  obtain ⟨w, hu, -, hw⟩ := s.unserve_eq n p
  rw [hu, State.svcLost_frame]
  exact hw m hm

theorem State.unserve_ters (s : State) (n : Log) (p : Nat) (x : Ter) :
    sameButSvc (if terL n = x then { s.ters[x] with noRes := true } else s.ters[x]) (s.unserve n p).ters[x] := by
  obtain ⟨w, hu, hw, -⟩ := s.unserve_eq n p
  have h : w.ters[x] = if terL n = x then { s.ters[x] with noRes := true } else s.ters[x] := by
    rw [hw]
    refine (State.modT_ters s (terL n) x fun x => { x with noRes := true }).trans ?_
    split
    next hx => subst hx; rfl
    · rfl
  rw [hu, ← h]
  exact w.svcLost_ters n 5 x

/-- An unserved logical channel leaves the takeover of its terrace alone, and sets NO_RESERVE (R34). -/
theorem State.unserve_parts (s : State) (n : Log) (p : Nat) (x : Ter) :
    (s.unserve n p).ters[x].reserve = s.ters[x].reserve ∧ (s.unserve n p).ters[x].busy = s.ters[x].busy ∧ (s.unserve n p).ters[x].tko = s.ters[x].tko
      ∧ (s.unserve n p).ters[x].jue = s.ters[x].jue ∧ (terL n = x → (s.unserve n p).ters[x].noRes = true) := by
  have h := s.unserve_ters n p x
  unfold sameButSvc at h
  rw [h]
  by_cases hx : terL n = x
  · rw [if_pos hx]
    exact ⟨rfl, rfl, rfl, rfl, fun _ => rfl⟩
  · rw [if_neg hx]
    exact ⟨rfl, rfl, rfl, rfl, fun k => absurd k hx⟩

/-- A channel that is taken out of service for good (R513, R514). -/
theorem State.quarantine_frame (s : State) (p : Phys) :
    s.quarantine p = { s with phys := (s.quarantine p).phys, slices := (s.quarantine p).slices } := rfl

theorem State.quarantine_phys (s : State) (p : Phys) : (s.quarantine p).phys[p].st = .quarantined ∧ (s.quarantine p).phys[p].gate = false
    ∧ (s.quarantine p).phys[p].pend = [] ∧ samePhys p s (s.quarantine p) := by
  have h : ∀ r : Phys, ∃ c : PCh, (s.quarantine p).phys[r] = (if p = r then c else s.phys[r]) ∧ c.st = .quarantined ∧ c.gate = false ∧ c.pend = [] := fun r => by
    unfold State.quarantine
    dsimp only
    rw [State.modP_phys]
    exact ⟨_, rfl, rfl, rfl, rfl⟩
  obtain ⟨c, hc, h1, h2, h3⟩ := h p
  rw [if_pos rfl] at hc
  refine ⟨by rw [hc, h1], by rw [hc, h2], by rw [hc, h3], fun r hr => ?_⟩
  obtain ⟨c, hc, -⟩ := h r
  rw [hc, if_neg (Ne.symm hr)]

end Sys2Proof.Machine
end

section
/-! SUPPORT. The commit of a takeover or swap, and the end of a restore (R32, R77, R142, R143, R518, R519, R625). -/

namespace Sys2Proof.Machine

/-! ## The commit -/

/-- The task inputs of a logical channel that comes back from being unserved (R434). -/
def LCh.rewake (l : LCh) (now : Nat) : LCh :=
  { l with ins := mapV l.ins fun _ i => { i with
      contrib := i.contrib.filter fun c => now ≤ c.1 + 1
      heldGen := i.heldGen.filter fun _ => i.lastAct.any fun a => now ≤ a + i.rate } }

/-- A logical channel that a channel is about to serve. -/
def State.rewake (s : State) (n : Log) : State := if s.map[n].isSome then s else s.modL n fun l => l.rewake s.aclk

/-- The reserve as it begins to serve `l`. -/
def PCh.taking (c : PCh) (l : LCh) : PCh := { c with st := if l.drain then .draining else .active, chEnp := l.chEnp, quiet := 0, toDrain := false, gate := true }

/-- A terrace after its takeover. -/
def TerSt.taken (x : TerSt) : TerSt := { x with reserve := none, busy := false, tko := none }

/-- The map gives logical channel `n` to channel `p`. -/
def State.mapTo (s : State) (n : Log) (p : Phys) : State := { s with map := s.map.set n (some p) }

/-- The reserve takes the place of what served `n` (R32, R519). -/
def State.takeOver (s : State) (t : Ter) (k : Tko) : State :=
  (((s.rewake k.log).mapTo k.log k.new).modP k.new fun c => c.taking s.lch[k.log]).modT t TerSt.taken

/-- A terrace counts a takeover (R531). -/
def TerSt.counted (x : TerSt) : TerSt := { x with takeovers := satAdd 0xFFFFFFFF x.takeovers 1 }

/-- A takeover is counted and recorded (R531, R581). -/
def State.noteTakeover (s : State) (t : Ter) (arg : List Byte) (n : Log) : State :=
  (s.modT t TerSt.counted).post 0x11 0 n arg

theorem State.noteTakeover_frame (s : State) (t : Ter) (arg : List Byte) (n : Log) :
    s.noteTakeover t arg n = { s with ters := (s.modT t TerSt.counted).ters, ldg := (s.noteTakeover t arg n).ldg } := by
  unfold State.noteTakeover
  rw [State.post_frame]
  rfl

theorem State.noteTakeover_cmd (s : State) (t : Ter) (arg : List Byte) (n : Log) (x : Ter) : (s.noteTakeover t arg n).ters[x].cmd = s.ters[x].cmd := by
  have h : (s.noteTakeover t arg n).ters[x] = if t = x then s.ters[t].counted else s.ters[x] := by
    rw [State.noteTakeover_frame]
    exact State.modT_ters s t x TerSt.counted
  rw [h]
  split
  next hx => subst hx; rfl
  · rfl

theorem State.commit_takeover (s : State) (t : Ter) (k : Tko) (h : k.swap = false) :
    ∃ arg, s.commit t k = ((s.takeOver t k).noteTakeover t arg k.log).arrive k.log k.old k.new true := by
  unfold State.commit
  dsimp only
  rw [h, if_neg Bool.false_ne_true]
  exact ⟨_, rfl⟩

/-- After a swap the logical channel arrives, and a channel that stays out of service leaves its place vacant (R646). -/
theorem State.commit_swap (s : State) (t : Ter) (k : Tko) (h : k.swap = true) : Arrives k.log (s.takeOver t k) (s.commit t k) := by
  have hback : Arrives k.log (s.takeOver t k) (if k.oos then ((s.takeOver t k).backInService k.log).modT t fun x =>
      { x with vacant := x.vacant ||| (1#17 <<< (k.old % 17)) } else s.takeOver t k) := by
    split
    · refine (Arrives.backInService k.log _).trans (.modT k.log _ t _ ?_)
      exact fun _ => rfl
    · exact .refl _ _
  unfold State.commit
  dsimp only
  rw [h, if_pos rfl]
  exact ((hback.trans (.serveStart k.log _ _)).trans (.post k.log _ _ _ _ _ _)).trans (.svcDone k.log _ 3)

theorem State.rewake_frame (s : State) (n : Log) : s.rewake n = { s with lch := (s.rewake n).lch } := by
  unfold State.rewake
  split <;> rfl

theorem AtLog.rewake (n : Log) (s : State) : AtLog n s (s.rewake n) := by
  unfold State.rewake
  split
  · exact .refl n s
  · exact .modL n s _

theorem State.rewake_que (s : State) (n : Log) (q : Qn) : (s.rewake n).que n q = s.que n q := by
  unfold State.rewake
  split
  · rfl
  · exact s.modL_que_kept n (fun l => l.rewake s.aclk) (fun _ => rfl) n q

section
variable (s : State) (t : Ter) (k : Tko)

theorem State.takeOver_frame : s.takeOver t k = { s with
    map := s.map.set k.log (some k.new), phys := (s.takeOver t k).phys, ters := (s.takeOver t k).ters, lch := (s.rewake k.log).lch } := by
  unfold State.takeOver
  rw [State.rewake_frame]
  rfl

theorem State.takeOver_physAt (r : Phys) : (s.takeOver t k).phys[r] = if k.new = r then s.phys[k.new].taking s.lch[k.log] else s.phys[r] := by
  unfold State.takeOver
  rw [State.rewake_frame, State.modT_phys, State.modP_phys]
  rfl

theorem State.takeOver_ters (x : Ter) : (s.takeOver t k).ters[x] = if t = x then s.ters[t].taken else s.ters[x] := by
  unfold State.takeOver
  rw [State.rewake_frame, State.modT_ters]
  rfl

theorem State.takeOver_others : sameOthers k.log s (s.takeOver t k) := fun m hm => by
  rw [State.takeOver_frame]
  exact (AtLog.rewake k.log s).others m hm

theorem State.takeOver_que (q : Qn) : (s.takeOver t k).que k.log q = s.que k.log q := by
  refine (State.que_congr ?_ k.log q).trans (s.rewake_que k.log q)
  rw [State.takeOver_frame]

theorem State.takeOver_cmd (x : Ter) : (s.takeOver t k).ters[x].cmd = s.ters[x].cmd := by
  rw [State.takeOver_ters]
  split
  next h => subst h; rfl
  · rfl

end

/-- What a commit changes (R32, R519). -/
theorem State.commit_serves (s : State) (t : Ter) (k : Tko) : ∃ w : State, Arrives k.log w (s.commit t k)
    ∧ w = { (s.takeOver t k) with ters := w.ters, ldg := w.ldg } ∧ w.ters[t].reserve = none ∧ w.ters[t].tko = none ∧ w.ters[t].busy = false
    ∧ (k.swap = false → w.ters[t].takeovers = min 0xFFFFFFFF (s.ters[t].takeovers + 1)) := by
  have hter : (s.takeOver t k).ters[t] = s.ters[t].taken := (s.takeOver_ters t k t).trans (if_pos rfl)
  cases h : k.swap with
  | true =>
    refine ⟨s.takeOver t k, s.commit_swap t k h, rfl, by rw [hter]; rfl, by rw [hter]; rfl, by rw [hter]; rfl, nofun⟩
  | false =>
    obtain ⟨arg, ha⟩ := s.commit_takeover t k h
    have hnote : ((s.takeOver t k).noteTakeover t arg k.log).ters[t] = TerSt.counted s.ters[t].taken := by
      rw [State.noteTakeover_frame, ← hter]
      exact (State.modT_ters _ t t TerSt.counted).trans (if_pos rfl)
    rw [ha]
    refine ⟨_, Arrives.arrive k.log _ k.old k.new true, ?_, by rw [hnote]; rfl, by rw [hnote]; rfl, by rw [hnote]; rfl, fun _ => by rw [hnote]; rfl⟩
    rw [State.noteTakeover_frame]

/-! ## The journal that a restore reads -/

/-- A restore of `n` has read a sound entry (R322, R518). -/
def State.readOk (s : State) (t : Ter) (j : JRead) (n : Log) : State := (s.journalOk t j.err).badMarks n j.bad

section
variable (s : State) (t : Ter) (j : JRead) (n : Log)

theorem State.readOk_announces : Announces n (s.journalOk t j.err) (s.readOk t j n) := .badMarks n _ j.bad

theorem State.readOk_frame : s.readOk t j n = { s with
    lch := (s.readOk t j n).lch, ters := (s.journalOk t j.err).ters, nextId := (s.readOk t j n).nextId, ldg := (s.readOk t j n).ldg, linkOut := (s.readOk t j n).linkOut } := by
  have h := (s.readOk_announces t j n).atLog.state
  rw [State.journalOk_frame] at h
  exact h

theorem State.readOk_ters (x : Ter) : ∃ jecc, (s.readOk t j n).ters[x] = { s.ters[x] with jecc } := by
  rw [(s.readOk_announces t j n).atLog.ters]
  exact s.journalOk_ters t j.err x

theorem State.readOk_others : sameOthers n s (s.readOk t j n) := fun m hm => by
  rw [(s.readOk_announces t j n).atLog.others m hm, State.journalOk_frame]

theorem State.readOk_que (q : Qn) : sameButLink (s.que n q) ((s.readOk t j n).que n q) := by
  have h := (s.readOk_announces t j n).ques q
  rw [State.journalOk_frame] at h
  exact h

theorem State.badMarks_sameButQueues (bad : List Qn) : sameButQueues s.lch[n] (s.badMarks n bad).lch[n] := by
  unfold State.badMarks State.over
  induction bad generalizing s with
  | nil => rfl
  | cons q bad ih => exact (s.modQ_sameButQueues n q _).trans (ih _)

theorem State.readOk_drain : (s.readOk t j n).lch[n].drain = s.lch[n].drain := by
  unfold State.readOk
  rw [State.badMarks_sameButQueues, State.journalOk_frame]

end

theorem State.journalBad_false {s : State} {n : Log} {j : JRead} (hj : j.err ≠ .uncorrectable) (hb : s.jbad[n] = none) : s.journalBad n j = false := by
  unfold State.journalBad
  rw [hb, beq_eq_false_iff_ne.mpr hj]
  rfl

theorem State.journalBad_true {s : State} {n : Log} {j : JRead} (h : j.err = .uncorrectable ∨ s.jbad[n].isSome = true) : s.journalBad n j = true := by
  unfold State.journalBad
  rcases h with h | h
  · rw [h]; rfl
  · rw [h, Bool.or_true]

/-! ## TAKEOVER_COMMIT -/

section
variable {s : State} {t : Ter} {k : Tko} {j : JRead} (hk : s.ters[t].tko = some k) (hst : s.phys[k.new].st = .reserve)
include hk hst

theorem exec_takeoverCommit_ok (hj : j.err ≠ .uncorrectable) (hb : s.jbad[k.log] = none) :
    exec (.takeoverCommit t j) s = .next ((s.readOk t j k.log).commit t k) := by
  show execTakeoverCommit t j s = _
  unfold execTakeoverCommit
  rw [hk]
  dsimp only
  rw [if_neg (by rw [hst]; decide), State.journalBad_false hj hb, if_neg Bool.false_ne_true]
  rfl

theorem exec_takeoverCommit_bad (h : j.err = .uncorrectable ∨ s.jbad[k.log].isSome = true) (hs : k.swap = false) :
    exec (.takeoverCommit t j) s = .next (((s.journalLost k.log).modT t fun x => { x with tko := none, busy := false }).unserve k.log k.old) := by
  show execTakeoverCommit t j s = _
  unfold execTakeoverCommit
  rw [hk]
  dsimp only
  rw [if_neg (by rw [hst]; decide), State.journalBad_true h, if_pos rfl, hs]
  rfl

end

/-- A takeover whose journal is sound announces the queues (R77). -/
theorem commit_announces {s : State} {t : Ter} {k : Tko} {j : JRead} (hs : k.swap = false) (hr : s.returning k.log = false) (hon : s.on = true)
    (hd : s.tap.drives = false) (q : Qn) (hq : (s.que k.log q).st ≠ .disabled) (hring : (s.que k.log q).cfg.ring = false) :
    ∃ replay, (k.log, Pkt.resume q (s.que k.log q).lastAcc true replay (s.inc k.log) (s.que k.log q).lastRet (s.que k.log q).cfg.window
      (if (s.que k.log q).cfg.stream then 0 else (s.que k.log q).cfg.initWords)) ∈ ((s.readOk t j k.log).commit t k).linkOut := by
  obtain ⟨arg, harg⟩ := (s.readOk t j k.log).commit_takeover t k hs
  have hque : ∀ q, sameButLink (s.que k.log q) ((((s.readOk t j k.log).takeOver t k).noteTakeover t arg k.log).que k.log q) := fun q => by
    refine (s.readOk_que t j k.log q).trans ?_
    rw [← (s.readOk t j k.log).takeOver_que t k q, State.noteTakeover_frame]
    rfl
  have hret : (((s.readOk t j k.log).takeOver t k).noteTakeover t arg k.log).returning k.log = false := by
    obtain ⟨_, hjecc⟩ := s.readOk_ters t j k.log (terL k.log)
    unfold State.returning
    rw [State.noteTakeover_cmd, State.takeOver_cmd, hjecc]
    exact hr
  have hxs : (((s.readOk t j k.log).takeOver t k).noteTakeover t arg k.log).on = true ∧ (((s.readOk t j k.log).takeOver t k).noteTakeover t arg k.log).tap.drives = false
      ∧ (((s.readOk t j k.log).takeOver t k).noteTakeover t arg k.log).inc k.log = s.inc k.log := by
    rw [State.noteTakeover_frame, State.takeOver_frame, State.readOk_frame]
    exact ⟨hon, hd, rfl⟩
  rw [harg]
  generalize ((s.readOk t j k.log).takeOver t k).noteTakeover t arg k.log = x at hque hret hxs
  obtain ⟨hxon, hxd, hxi⟩ := hxs
  obtain ⟨hwst, hwcfg, hwacc, hwret⟩ := (hque q).parts
  obtain ⟨replay, hmem⟩ := x.announce_resumes k.log true hxon hxd q (by rw [hwst]; exact hq) (by rw [hwcfg]; exact hring)
  rw [hwacc, hwret, hwcfg, hxi] at hmem
  refine ⟨replay, ?_⟩
  unfold State.arrive
  rw [hret, if_neg Bool.false_ne_true]
  refine (Arrives.svcDone k.log _ 4).sent.subset ?_
  rw [State.serveStart_eq]
  exact hmem

/-! ## RESTORE_COMPLETE -/

theorem AtChan.endWake (n : Log) (p : Phys) (s : State) : AtChan n p s (s.endWake p) := by
  unfold State.endWake
  split
  · exact .refl n p s
  · exact .modP n p s _

theorem State.endWake_lch (s : State) (p : Phys) : (s.endWake p).lch = s.lch := by
  unfold State.endWake
  split <;> rfl

theorem State.endWake_toDrain (s : State) (p : Phys) : (s.endWake p).phys[p].toDrain = s.phys[p].toDrain := by
  unfold State.endWake
  split
  · rfl
  · rw [State.modP_phys, if_pos rfl]

theorem AtChan.goUp (n : Log) (p : Phys) (s : State) : AtChan n p s (s.goUp p n) := by
  unfold State.goUp
  dsimp only
  split
  · exact (AtChan.modP n p s _).trans ((AtLog.channelDrain n _).atChan p)
  · exact .modP n p s _

/-- A channel goes up to ACTIVE, or to DRAINING under a drain (R141). -/
theorem State.goUp_phys (s : State) (p : Phys) (n : Log) :
    (s.goUp p n).phys[p].st = (if s.lch[n].drain || s.phys[p].toDrain then .draining else .active) ∧ (s.goUp p n).phys[p].toDrain = false := by
  unfold State.goUp
  dsimp only
  generalize (s.phys[p].toDrain && !s.lch[n].drain) = b
  cases b with
  | false =>
    rw [if_neg Bool.false_ne_true, State.modP_phys, if_pos rfl]
    exact ⟨rfl, rfl⟩
  | true =>
    rw [if_pos rfl, (AtLog.channelDrain n _).phys, State.modP_phys, if_pos rfl]
    exact ⟨rfl, rfl⟩

section
variable {s : State} {p : Phys} {n : Log} {j : JRead} (hon : s.on = true) (hn : s.logOf p = some n) (hst : s.phys[p].st = .waking)
  (hw : s.phys[p].wakeFor ≠ .dormant) (hs : s.phys[p].scrub = false) (hk : s.phys[p].woken s.aclk = true)
include hon hn hst hw hs hk

omit hn in
theorem restore_waits_no_more : (decide (s.phys[p].st ≠ .waking) || s.phys[p].wakeFor == .dormant || s.phys[p].scrub || !s.phys[p].woken s.aclk || !s.hrstN || !s.vddCore) = false := by
  obtain ⟨hr, hv⟩ := Bool.and_eq_true_iff.mp hon
  rw [hst, beq_eq_false_iff_ne.mpr hw, hs, hk, hr, hv]
  rfl

theorem exec_restoreComplete_ok (hj : j.err ≠ .uncorrectable) (hb : s.jbad[n] = none) :
    exec (.restoreComplete p j) s = .next ((((s.readOk (terP p) j n).endWake p).goUp p n).arrive n p p (s.phys[p].wakeFor == .reset)) := by
  show execRestoreComplete p j s = _
  unfold execRestoreComplete
  dsimp only
  rw [hn]
  dsimp only
  rw [restore_waits_no_more hon hst hw hs hk, if_neg Bool.false_ne_true, State.journalBad_false hj hb, if_neg Bool.false_ne_true]
  rfl

theorem exec_restoreComplete_bad (h : j.err = .uncorrectable ∨ s.jbad[n].isSome = true) :
    exec (.restoreComplete p j) s = .next (((s.journalLost n).quarantine p).unserve n p) := by
  show execRestoreComplete p j s = _
  unfold execRestoreComplete
  dsimp only
  rw [hn]
  dsimp only
  rw [restore_waits_no_more hon hst hw hs hk, if_neg Bool.false_ne_true, State.journalBad_true h, if_pos rfl]

end

/-- What a commit leaves after a sound journal. -/
theorem State.readOk_commits (s : State) (t : Ter) (k : Tko) (j : JRead) :
    ((s.readOk t j k.log).commit t k).map = s.map.set k.log (some k.new) ∧ ((s.readOk t j k.log).commit t k).fence = s.fence
      ∧ ((s.readOk t j k.log).commit t k).phys[k.new] = s.phys[k.new].taking (s.readOk t j k.log).lch[k.log]
      ∧ ((s.readOk t j k.log).commit t k).ters[t].reserve = none ∧ ((s.readOk t j k.log).commit t k).ters[t].tko = none
      ∧ ((s.readOk t j k.log).commit t k).ters[t].busy = false ∧ samePhys k.new s ((s.readOk t j k.log).commit t k)
      ∧ sameOthers k.log s ((s.readOk t j k.log).commit t k)
      ∧ (k.swap = false → ((s.readOk t j k.log).commit t k).ters[t].takeovers = min 0xFFFFFFFF (s.ters[t].takeovers + 1))
      ∧ ∀ q : Qn, sameSeqs (s.que k.log q) (((s.readOk t j k.log).commit t k).que k.log q) := by
  obtain ⟨b, harr, hb, hres, htko, hbusy, hcount⟩ := (s.readOk t j k.log).commit_serves t k
  have hframe := s.readOk_frame t j k.log
  have hothers := s.readOk_others t j k.log
  obtain ⟨jecc, hters⟩ := s.readOk_ters t j k.log t
  have hque := s.readOk_que t j k.log
  generalize s.readOk t j k.log = w at *
  have hphys : ∀ r : Phys, (w.commit t k).phys[r] = (w.takeOver t k).phys[r] := fun r => by rw [harr.state, hb]
  have hsvc := harr.svc t
  unfold sameButSvc at hsvc
  refine ⟨?_, ?_, ?_, by rw [hsvc, hres], by rw [hsvc, htko], by rw [hsvc, hbusy], fun r hr => ?_, fun m hm => ?_, fun hs => ?_, fun q => ?_⟩
  · rw [harr.state, hb, State.takeOver_frame, hframe]
  · rw [harr.state, hb, State.takeOver_frame, hframe]
  · rw [hphys, State.takeOver_physAt, if_pos rfl, hframe]
  · rw [hphys, State.takeOver_physAt, if_neg (Ne.symm hr), hframe]
  · rw [harr.others m hm, hb]
    exact (w.takeOver_others t k m hm).trans (hothers m hm)
  · rw [hsvc, hcount hs, hters]
  · refine (hque q).seqs.trans ?_
    rw [← w.takeOver_que t k q]
    have hbq : b.que k.log q = (w.takeOver t k).que k.log q := by rw [hb]; rfl
    rw [← hbq]
    exact harr.ques q

/-- What a takeover leaves that gives its logical channel up (R34, R518). -/
theorem State.commit_unserves (s : State) (t : Ter) (n : Log) (p : Nat) (u : State)
    (hu : u = ((s.journalLost n).modT t fun x => { x with tko := none, busy := false }).unserve n p) :
    u.map = s.map.set n none ∧ u.ters[t].tko = none ∧ u.ters[t].busy = false ∧ u.ters[t].reserve = s.ters[t].reserve
      ∧ (s.jbad[n] = none → u.ters[terL n].jue = true) ∧ u.jbad[n] = none ∧ u.ters[terL n].noRes = true
      ∧ u.phys = s.phys ∧ u.fence = s.fence ∧ sameOthers n s u := by
  have hlost := s.journalLost_frame n
  have hters := s.journalLost_ters n
  have hjbad := s.journalLost_jbad n
  generalize s.journalLost n = w at *
  generalize hv : (w.modT t fun x => { x with tko := none, busy := false }) = v at hu
  have hvt : ∀ x : Ter, v.ters[x] = if t = x then { w.ters[t] with tko := none, busy := false } else w.ters[x] := fun x => by
    rw [← hv, State.modT_ters]
  have hvw : v = { w with ters := v.ters } := by rw [← hv]; rfl
  obtain ⟨jue, juec, ht, -⟩ := hters t
  obtain ⟨jue', juec', hl, hjue⟩ := hters (terL n)
  obtain ⟨hres, hbusy, htko, -, -⟩ := v.unserve_parts n p t
  obtain ⟨-, -, -, hj, hno⟩ := v.unserve_parts n p (terL n)
  have hvj : v.ters[terL n].jue = w.ters[terL n].jue := by
    rw [hvt]
    split
    next h => rw [h]
    · rfl
  subst hu
  refine ⟨?_, by rw [htko, hvt, if_pos rfl], by rw [hbusy, hvt, if_pos rfl], by rw [hres, hvt, if_pos rfl, ht], fun hb => ?_, ?_, hno rfl, ?_, ?_, fun m hm => ?_⟩
  · rw [v.unserve_frame n p, hvw, hlost]
  · rw [hj, hvj, hl]
    exact hjue hb rfl
  · rw [v.unserve_frame n p, hvw]
    exact hjbad
  · rw [v.unserve_frame n p, hvw, hlost]
  · rw [v.unserve_frame n p, hvw, hlost]
  · rw [v.unserve_others n p m hm, hvw, hlost]

/-- What a restore leaves after a sound journal. -/
theorem State.readOk_restores (s : State) (p : Phys) (n : Log) (j : JRead) (u : State)
    (hu : u = ((((s.readOk (terP p) j n).endWake p).goUp p n).arrive n p p (s.phys[p].wakeFor == .reset))) :
    u.phys[p].st = (if s.lch[n].drain || s.phys[p].toDrain then .draining else .active) ∧ u.phys[p].toDrain = false ∧ u.map = s.map ∧ u.fence = s.fence
      ∧ samePhys p s u ∧ sameOthers n s u := by
  have hdrain := s.readOk_drain (terP p) j n
  have hothers := s.readOk_others (terP p) j n
  have hframe := s.readOk_frame (terP p) j n
  generalize s.readOk (terP p) j n = w at *
  have hwp : w.phys = s.phys := by rw [hframe]
  have hat := (AtChan.endWake n p w).trans (.goUp n p _)
  obtain ⟨hst, htd⟩ := (w.endWake p).goUp_phys p n
  rw [State.endWake_lch, State.endWake_toDrain, hdrain, hwp] at hst
  have harr := Arrives.arrive n ((w.endWake p).goUp p n) p p (s.phys[p].wakeFor == .reset)
  rw [← hu] at harr
  generalize (w.endWake p).goUp p n = v at *
  have huv : u.phys = v.phys ∧ u.map = v.map ∧ u.fence = v.fence := by rw [harr.state]; exact ⟨rfl, rfl, rfl⟩
  obtain ⟨hup, hum, huf⟩ := huv
  refine ⟨by rw [hup, hst], by rw [hup, htd], ?_, ?_, fun r hr => ?_, fun m hm => ?_⟩
  · rw [hum, hat.map, hframe]
  · rw [huf, hat.fence, hframe]
  · rw [hup, hat.chans r hr, hwp]
  · rw [harr.others m hm, hat.others m hm, hothers m hm]

/-- What a restore leaves that gives its logical channel up (R34, R513, R518). -/
theorem State.restore_unserves (s : State) (p : Phys) (n : Log) (u : State) (hu : u = ((s.journalLost n).quarantine p).unserve n p) :
    u.phys[p].st = .quarantined ∧ u.phys[p].gate = false ∧ u.map = s.map.set n none ∧ (s.jbad[n] = none → u.ters[terL n].jue = true) ∧ u.jbad[n] = none
      ∧ u.ters[terL n].noRes = true ∧ u.fence = s.fence ∧ samePhys p s u ∧ sameOthers n s u := by
  have hlost := s.journalLost_frame n
  obtain ⟨jue, juec, hl, hjue⟩ := s.journalLost_ters n (terL n)
  have hjbad := s.journalLost_jbad n
  generalize s.journalLost n = w at *
  obtain ⟨hst, hgate, -, hchans⟩ := w.quarantine_phys p
  have hq := w.quarantine_frame p
  generalize w.quarantine p = v at *
  obtain ⟨-, -, -, hj, hno⟩ := v.unserve_parts n p (terL n)
  have hphys : (v.unserve n p).phys = v.phys := by rw [v.unserve_frame n p]
  subst hu
  refine ⟨by rw [hphys, hst], by rw [hphys, hgate], ?_, fun hb => ?_, ?_, hno rfl, ?_, fun r hr => ?_, fun m hm => ?_⟩
  · rw [v.unserve_frame n p, hq, hlost]
  · rw [hj, hq]
    exact (congrArg TerSt.jue hl).trans (hjue hb rfl)
  · rw [v.unserve_frame n p, hq]
    exact hjbad
  · rw [v.unserve_frame n p, hq, hlost]
  · rw [hphys, hchans r hr, hlost]
  · rw [v.unserve_others n p m hm, hq, hlost]

/-- Settles O57: a commit is `State.takeOver` and an arrival, a restore ends with `State.goUp` and an arrival; a bad journal is `State.journalLost` and `State.unserve`. -/
theorem restoresEndInService : Obligations.RestoresEndInService := by
  refine ⟨fun s t k j bad hk hst => ⟨fun hj hb => ?_, fun h hs => ?_⟩, fun s p n j bad hon hn hst hw hs hwoken => ⟨fun hj hb => ?_, fun h => ?_⟩⟩
  · have hann := fun hs hr hon hd q => commit_announces (s := s) (t := t) (k := k) (j := ⟨j, bad⟩) hs hr hon hd q
    have hdrain := s.readOk_drain t ⟨j, bad⟩ k.log
    obtain ⟨hmap, hfence, hnew, hres, htko, hbusy, hchans, hothers, hcount, hques⟩ := s.readOk_commits t k ⟨j, bad⟩
    refine ⟨_, exec_takeoverCommit_ok (j := ⟨j, bad⟩) hk hst hj hb, hmap, hfence, ?_, ?_, ?_, hres, htko, hbusy, hchans, hothers, hcount, hques, hann⟩
    · rw [hnew, ← hdrain]; rfl
    · rw [hnew]; rfl
    · rw [hnew]; rfl
  · exact ⟨_, exec_takeoverCommit_bad (j := ⟨j, bad⟩) hk hst h hs, s.commit_unserves t k.log k.old _ rfl⟩
  · exact ⟨_, exec_restoreComplete_ok (j := ⟨j, bad⟩) hon hn hst hw hs hwoken hj hb, s.readOk_restores p n ⟨j, bad⟩ _ rfl⟩
  · exact ⟨_, exec_restoreComplete_bad (j := ⟨j, bad⟩) hon hn hst hw hs hwoken h, s.restore_unserves p n _ rfl⟩

end Sys2Proof.Machine
end

section
/-! SUPPORT. The staging paths as they stand at the start of an hclk (R316, R371, R372): what has staged whole has left its entry and the host-out FIFO. -/

namespace Sys2Proof.Machine

variable {s t u : State}

/-- Only the host-out FIFO of a queue moves. -/
def sameButHout (u v : Que) : Prop := v = { u with hout := v.hout, houtR := v.houtR }

theorem sameButHout.refl (u : Que) : sameButHout u u := rfl

theorem sameButHout.trans {u v w : Que} (h : sameButHout u v) (k : sameButHout v w) : sameButHout u w := by
  unfold sameButHout at *
  rw [k, h]

/-- Channel state `d` has lost pending entries at most. -/
def losesPend (c d : PCh) : Prop := d = { c with pend := d.pend } ∧ d.pend.Sublist c.pend

theorem losesPend.refl (c : PCh) : losesPend c c := ⟨rfl, List.Sublist.refl _⟩

theorem losesPend.trans {c d e : PCh} (h : losesPend c d) (k : losesPend d e) : losesPend c e :=
  ⟨by rw [k.1, h.1], k.2.trans h.2⟩

/-- What the end of a staging may change: the slices, pending entries that leave, host-out FIFOs, and the count of the longest wait. -/
structure Settles (s t : State) : Prop where
  state : t = { s with slices := t.slices, phys := t.phys, lch := t.lch, arb := t.arb }
  chans : ∀ r : Phys, losesPend s.phys[r] t.phys[r]
  entries : ∀ m : Log, sameButQueues s.lch[m] t.lch[m]
  ques : ∀ (m : Log) (k : Qn), sameButHout (s.que m k) (t.que m k)

theorem Settles.refl (s : State) : Settles s s := ⟨rfl, fun _ => .refl _, fun _ => rfl, fun _ _ => rfl⟩

theorem Settles.trans (h : Settles s t) (k : Settles t u) : Settles s u :=
  ⟨by rw [k.state, h.state], fun r => (h.chans r).trans (k.chans r), fun m => (h.entries m).trans (k.entries m), fun m q => (h.ques m q).trans (k.ques m q)⟩

theorem Settles.modS (s : State) (sl : SliceN) (f : Slice → Slice) : Settles s (s.modS sl f) := ⟨rfl, fun _ => .refl _, fun _ => rfl, fun _ _ => rfl⟩

/-- An update of a queue, as every queue sees it. -/
theorem State.modQ_queAt (s : State) (n : Log) (q : Qn) (f : Que → Que) (m : Log) (k : Qn) :
    (s.modQ n q f).que m k = if n = m ∧ q = k then f (s.que n q) else s.que m k := by
  by_cases hm : n = m
  · subst hm
    by_cases hk : q = k
    · subst hk
      rw [State.modQ_que, if_pos ⟨rfl, rfl⟩]
    · rw [State.modQ_que_ne s n hk, if_neg fun e => hk e.2]
  · rw [if_neg fun e => hm e.1]
    unfold State.que State.modQ
    rw [State.modL_lch, if_neg hm]

theorem Settles.modQ (s : State) (n : Log) (q : Qn) {f : Que → Que} (hf : ∀ u, sameButHout u (f u)) : Settles s (s.modQ n q f) := by
  refine ⟨rfl, fun _ => .refl _, fun m => ?_, fun m k => ?_⟩
  · by_cases hm : n = m
    · subst hm; exact s.modQ_sameButQueues n q f
    · unfold State.modQ
      rw [State.modL_lch, if_neg hm]
      rfl
  · rw [State.modQ_queAt]
    split
    next e => obtain ⟨rfl, rfl⟩ := e; exact hf _
    · exact .refl _

theorem dropFirst_sublist {α : Type} (p : α → Bool) (l : List α) : (dropFirst p l).Sublist l := by
  induction l with
  | nil => exact List.Sublist.refl _
  | cons x l ih =>
    unfold dropFirst
    split
    · exact List.sublist_cons_self x l
    · exact ih.cons_cons x

theorem Settles.leaves (s : State) (t : Txn) : Settles s (s.leaves t) := by
  have h : ∀ r : Phys, losesPend s.phys[r] (s.modP t.phys fun c => { c with pend := dropFirst (fun e => e.isEntry t) c.pend }).phys[r] := fun r => by
    rw [State.modP_phys]
    split
    next e => subst e; exact ⟨rfl, dropFirst_sublist _ _⟩
    · exact .refl _
  unfold State.leaves
  dsimp only
  split
  · exact ⟨rfl, h, fun _ => rfl, fun _ _ => rfl⟩
  · exact ⟨rfl, h, fun _ => rfl, fun _ _ => rfl⟩

theorem Settles.houtEnd (s : State) (t : Txn) : Settles s (s.houtEnd t) := by
  unfold State.houtEnd
  split
  · split
    · exact .modQ s _ _ fun _ => rfl
    · exact .refl s
  · exact .refl s

theorem Settles.settle (s : State) (sl : SliceN) (h : Nat) : Settles s (s.settle sl h) := by
  unfold State.settle
  split
  next x _ =>
    dsimp only
    split
    · generalize hw : (s.modS sl fun y => _) = w
      have h0 : Settles s w := by rw [← hw]; exact .modS s sl _
      have h1 : Settles s (if s.fresh x.t = true then w.houtEnd x.t else w) := by
        split
        · exact h0.trans (.houtEnd w _)
        · exact h0
      split
      · exact h1.trans (.leaves _ _)
      · exact h1
    · exact .refl s
  · exact .refl s

theorem Settles.settled (s : State) (h : Nat) : Settles s (s.settled h) := by
  unfold State.settled
  exact List.foldlRecOn (fins 16) _ (.refl s) fun t ht sl _ => ht.trans (.settle t sl h)

theorem State.settled_settles {s z : State} {h : Nat} (hz : z = ({ s with hclk := h } : State).settled h) : Settles { s with hclk := h } z := by
  rw [hz]
  exact .settled _ h

/-- What the staging paths keep of a channel, by one equation. -/
theorem Settles.phys_kept {α : Type} (h : Settles s t) (f : PCh → α) (hf : ∀ (c : PCh) (pend : List Txn), f { c with pend } = f c) (r : Phys) :
    f t.phys[r] = f s.phys[r] := by
  rw [(h.chans r).1]
  exact hf _ _

/-- What the staging paths keep of a logical channel beside its queues, by one equation. -/
theorem Settles.lch_kept {α : Type} (h : Settles s t) (f : LCh → α) (hf : ∀ (l : LCh) (qs : Vector Que 4), f { l with qs } = f l) (m : Log) :
    f t.lch[m] = f s.lch[m] := by
  have e := h.entries m
  unfold sameButQueues at e
  rw [e]
  exact hf _ _

end Sys2Proof.Machine
end

section
/-! SUPPORT. What the post of a transaction changes (R368, R402, R418, R523): the pending entries of its channel, the balances of its queue, and the replay band of its slice. -/

namespace Sys2Proof.Machine

/-! ## What a post leaves alone -/

/-- Channel `p` has `e` as its newest pending entry; of the logical channels queue `q` of `n` alone may have changed. -/
structure Posted (p : Phys) (n : Log) (q : Qn) (e : Txn) (z v : State) : Prop where
  entry : postsOne p e z v
  hclk : v.hclk = z.hclk
  others : sameOthers n z v
  siblings : sameSiblings n q z v

section
variable {p : Phys} {n : Log} {q : Qn} {e : Txn} {z v : State}

theorem sameSiblings.modQ (h : sameSiblings n q z v) (f : Que → Que) : sameSiblings n q z (v.modQ n q f) := by
  obtain ⟨h1, h2, h3⟩ := h
  have hl : (v.modQ n q f).lch[n] = v.lch[n].modQ q f := by
    unfold State.modQ
    rw [State.modL_lch, if_pos rfl]
  exact ⟨fun r hr => (State.modQ_que_ne v n (Ne.symm hr) f).trans (h1 r hr), by rw [hl]; exact h2, by rw [hl]; exact h3⟩

theorem sameOthers.modQ (h : sameOthers n z v) (f : Que → Que) : sameOthers n z (v.modQ n q f) := fun m hm =>
  ((AtLog.modQ n q v f).others m hm).trans (h m hm)

theorem Posted.modQ (h : Posted p n q e z v) (f : Que → Que) : Posted p n q e z (v.modQ n q f) :=
  ⟨h.entry, h.hclk, h.others.modQ f, h.siblings.modQ f⟩

theorem Posted.modA (h : Posted p n q e z v) (id : Nat) (f : Acc → Acc) : Posted p n q e z (v.modA n q id f) := h.modQ _

/-- The lock sequence of the post begins. -/
theorem Posted.seqBegin (h : Posted p n q e z v) (id : Nat) : Posted p n q e z (v.seqBegin p q id) := by
  obtain ⟨h1, h2, h3, h4⟩ := h.entry
  have hp : ∀ r : Phys, (v.seqBegin p q id).phys[r] = if p = r then { v.phys[p] with locked := some (q, id) } else v.phys[r] := fun r => v.modP_phys p r _
  have hpp := hp p
  rw [if_pos rfl] at hpp
  refine ⟨⟨by rw [hpp]; exact h1, by rw [hpp]; exact h2, by rw [hpp]; exact h3, fun r hr => ?_⟩, h.hclk, h.others, h.siblings⟩
  rw [hp r, if_neg (Ne.symm hr)]
  exact h4 r hr

end

/-! ## The tokens of a post -/

/-- The queue of a post of request `r` in aclk `now`: its balance, its replay credit and what its descriptor has drawn (R402, R418). -/
def Que.charged (u : Que) (r : Req) (now : Nat) : Que :=
  let v := if r.exempt then u else u.draw r.rep now r.ix r.size
  match r.acc with
  | some id => if u.cfg.res = 0 || r.exempt then v else v.modA id fun a => { a with drawn := tally a.drawn r.ix (tokens r.size) }
  | none => v

theorem Que.draw_eq (u : Que) (rep : Bool) (now : Nat) (i : Fin 32) (k : Nat) : ∃ credit bal, u.draw rep now i k = { u with credit, bal } := by
  unfold Que.draw
  split
  · exact ⟨u.credit, u.bal, rfl⟩
  · exact ⟨_, _, rfl⟩

/-- A list of descriptors in which only what has been drawn differs. -/
def sameButDrawn (l k : List Acc) : Prop :=
  k.map Acc.id = l.map Acc.id ∧ ∀ id a, (l.find? fun a => a.id == id) = some a → ∃ drawn, (k.find? fun a => a.id == id) = some { a with drawn }

theorem sameButDrawn.refl (l : List Acc) : sameButDrawn l l := ⟨rfl, fun _ a h => ⟨a.drawn, h⟩⟩

theorem sameButDrawn.updFirst (id : Nat) (f : Acc → List Nat) (l : List Acc) :
    sameButDrawn l (updFirst (fun a => a.id == id) (fun a => { a with drawn := f a }) l) := by
  refine ⟨updFirst_ids _ (fun a => { a with drawn := f a }) (fun _ => rfl) l, fun k => ?_⟩
  induction l with
  | nil => exact fun a h => absurd h nofun
  | cons b l ih =>
    intro a h
    unfold Machine.updFirst
    rw [List.find?_cons] at h
    by_cases hb : (b.id == id) = true
    · rw [if_pos hb, List.find?_cons]
      dsimp only
      split at h
      next hk => cases h; exact ⟨_, rfl⟩
      next hk => exact ⟨a.drawn, h⟩
    · rw [if_neg hb, List.find?_cons]
      split at h
      next hk => cases h; exact ⟨_, rfl⟩
      next hk => exact ih a h

theorem Que.charged_eq (u : Que) (r : Req) (now : Nat) : ∃ credit bal acc, u.charged r now = { u with credit, bal, acc } ∧ sameButDrawn u.acc acc := by
  have hd : ∃ credit bal, (if r.exempt then u else u.draw r.rep now r.ix r.size) = { u with credit, bal } := by
    split
    · exact ⟨_, _, rfl⟩
    · exact u.draw_eq _ _ _ _
  obtain ⟨credit, bal, hd⟩ := hd
  unfold Que.charged
  dsimp only
  rw [hd]
  split
  next id _ =>
    split
    · exact ⟨credit, bal, u.acc, rfl, .refl _⟩
    · exact ⟨credit, bal, _, rfl, .updFirst id _ u.acc⟩
  · exact ⟨credit, bal, u.acc, rfl, .refl _⟩

/-- What a post of a request that no descriptor makes leaves of the order. -/
theorem Que.charged_acc (u : Que) (r : Req) (now : Nat) (h : r.acc = none) : (u.charged r now).acc = u.acc := by
  obtain ⟨credit, bal, hd⟩ := u.draw_eq r.rep now r.ix r.size
  unfold Que.charged
  dsimp only
  rw [h, hd]
  dsimp only
  split <;> rfl

theorem Que.charged_exempt (u : Que) (r : Req) (now : Nat) (h : r.exempt = true) : u.charged r now = u := by
  unfold Que.charged
  dsimp only
  rw [h, if_pos rfl, Bool.or_true]
  split
  · exact if_pos rfl
  · rfl

/-- Outside a replay a request draws its own tokens (R402). -/
theorem Que.charged_bal (u : Que) (r : Req) (now : Nat) (ha : r.acc = none) (he : r.exempt = false) (hr : r.rep = false) (hres : 0 < u.cfg.res) :
    (u.charged r now).bal[r.ix] = { v := u.bal[r.ix].val u.cfg.res now - tokens r.size, at_ := now } := by
  unfold Que.charged
  dsimp only
  rw [ha, he, if_neg Bool.false_ne_true]
  unfold Que.draw Que.fromCredit
  dsimp only
  rw [hr, if_neg Bool.false_ne_true, if_neg (Nat.pos_iff_ne_zero.mp hres), Nat.sub_zero]
  exact Vector.getElem_set_self ..

/-! ## The entry -/

/-- The channel of a post in aclk `now`. -/
def PCh.queues (c : PCh) (e : Txn) (now : Nat) : PCh := { c with pend := c.pend ++ [e], quiet := 0, stirA := some now }

theorem State.modQ_modQ (s : State) (n : Log) (q : Qn) (f g : Que → Que) : (s.modQ n q f).modQ n q g = s.modQ n q fun u => g (f u) := by
  unfold State.modQ
  rw [State.modL_modL]
  congr 1
  funext l
  simp [LCh.modQ]

/-- The request's transaction stands in the pending queue (R368). -/
def State.queued (s : State) (p : Phys) (n : Log) (r : Req) (tag : Nat) : State := s.modP p fun c => c.queues (newEntry s p n r tag) s.aclk

/-- The queue draws its tokens (R402). -/
def State.drawTokens (s : State) (n : Log) (r : Req) : State := if r.exempt then s else s.modQ n r.q fun u => u.draw r.rep s.aclk r.ix r.size

/-- The replay band of the slice gives `cr` tokens (R523). -/
def State.drawBand (s : State) (n : Log) (r : Req) (cr : Nat) : State :=
  if cr = 0 then s
  else if r.kind.isWrite then s.modS (sliceOf r.addr) fun x => { x with
    bandW := { v := s.band x.bandW - cr, at_ := s.aclk }, lastW := bandKey n r.q, asks := x.asks.filter fun y => !(y.key == bandKey n r.q && y.wr == r.kind.isWrite) }
  else s.modS (sliceOf r.addr) fun x => { x with
    bandR := { v := s.band x.bandR - cr, at_ := s.aclk }, lastR := bandKey n r.q, asks := x.asks.filter fun y => !(y.key == bandKey n r.q && y.wr == r.kind.isWrite) }

/-- The request's descriptor notes what it drew from a queue of reservation `res` (R418). -/
def State.noteDrawn (s : State) (n : Log) (r : Req) (res : Nat) : State :=
  match r.acc with
  | some id => if res = 0 || r.exempt then s else s.modA n r.q id fun a => { a with drawn := tally a.drawn r.ix (tokens r.size) }
  | none => s

theorem State.enter_steps (z : State) (p : Phys) (n : Log) (r : Req) (tag : Nat) :
    z.enter p n r tag = (((z.queued p n r tag).drawTokens n r).drawBand n r (z.bandDraw n r)).noteDrawn n r (z.que n r.q).cfg.res := rfl

theorem State.drawBand_eq (s : State) (n : Log) (r : Req) (cr : Nat) : ∃ slices, s.drawBand n r cr = { s with slices } := by
  unfold State.drawBand
  split
  · exact ⟨s.slices, rfl⟩
  · split <;> exact ⟨_, rfl⟩

theorem State.drawTokens_eq (s : State) (n : Log) (r : Req) :
    s.drawTokens n r = s.modQ n r.q fun u => if r.exempt then u else u.draw r.rep s.aclk r.ix r.size := by
  unfold State.drawTokens
  split
  · exact (State.modQ_id s n r.q rfl).symm
  · rfl

/-- The draw of a request in its descriptor's entry (R418). -/
def Que.noteDrawn (u : Que) (r : Req) (res : Nat) : Que :=
  match r.acc with
  | some id => if res = 0 || r.exempt then u else u.modA id fun a => { a with drawn := tally a.drawn r.ix (tokens r.size) }
  | none => u

theorem State.noteDrawn_eq (s : State) (n : Log) (r : Req) (res : Nat) : s.noteDrawn n r res = s.modQ n r.q fun u => u.noteDrawn r res := by
  unfold State.noteDrawn Que.noteDrawn
  cases r.acc with
  | none => exact (State.modQ_id s n r.q rfl).symm
  | some id =>
    dsimp only
    split
    · exact (State.modQ_id s n r.q rfl).symm
    · rfl

/-- A post changes its channel, its queue and the replay bands. -/
theorem State.enter_eq (z : State) (p : Phys) (n : Log) (r : Req) (tag : Nat) :
    ∃ slices, z.enter p n r tag = ({ (z.queued p n r tag) with slices } : State).modQ n r.q fun u => u.charged r z.aclk := by
  rw [State.enter_steps, State.drawTokens_eq, State.noteDrawn_eq]
  obtain ⟨slices, h⟩ := ((z.queued p n r tag).modQ n r.q fun u => if r.exempt then u else u.draw r.rep (z.queued p n r tag).aclk r.ix r.size).drawBand_eq n r (z.bandDraw n r)
  refine ⟨slices, ?_⟩
  rw [h]
  refine (State.modQ_modQ ({ (z.queued p n r tag) with slices } : State) n r.q _ _).trans ?_
  exact State.modQ_eq _ n r.q rfl

section
variable (z : State) (p : Phys) (n : Log) (r : Req) (tag : Nat)

theorem State.enter_que : (z.enter p n r tag).que n r.q = (z.que n r.q).charged r z.aclk := by
  obtain ⟨slices, h⟩ := z.enter_eq p n r tag
  rw [h, State.modQ_que]
  rfl

theorem Posted.enter : Posted p n r.q (newEntry z p n r tag) z (z.enter p n r tag) := by
  obtain ⟨slices, h⟩ := z.enter_eq p n r tag
  have hp : ∀ k : Phys, (z.queued p n r tag).phys[k] = if p = k then z.phys[p].queues (newEntry z p n r tag) z.aclk else z.phys[k] := fun k => z.modP_phys p k _
  have hpp := hp p
  rw [if_pos rfl] at hpp
  have hv : Posted p n r.q (newEntry z p n r tag) z { (z.queued p n r tag) with slices } := by
    refine ⟨⟨?_, ?_, ?_, fun k hk => ?_⟩, rfl, fun _ _ => rfl, fun _ _ => rfl, rfl, rfl⟩
    · dsimp only; rw [hpp]; rfl
    · dsimp only; rw [hpp]; rfl
    · dsimp only; rw [hpp]; rfl
    · dsimp only; rw [hp k, if_neg (Ne.symm hk)]
  rw [h]
  exact hv.modQ _

theorem State.enter_locked : (z.enter p n r tag).phys[p].locked = z.phys[p].locked := by
  obtain ⟨slices, h⟩ := z.enter_eq p n r tag
  have hp := z.modP_phys p p fun c => c.queues (newEntry z p n r tag) z.aclk
  rw [if_pos rfl] at hp
  rw [h]
  change (z.queued p n r tag).phys[p].locked = _
  unfold State.queued
  rw [hp]
  rfl

/-- The descriptors of the queue after a post, but for what they have drawn. -/
theorem State.enter_acc {q : Qn} {id : Nat} {a : Acc} (hq : r.q = q) (h : z.acc n q id = some a) : ∃ drawn, (z.enter p n r tag).acc n q id = some { a with drawn } := by
  subst hq
  obtain ⟨credit, bal, acc, hc, hd⟩ := (z.que n r.q).charged_eq r z.aclk
  unfold State.acc at h ⊢
  rw [State.enter_que, hc]
  exact hd.2 id a h

end

end Sys2Proof.Machine
end

section
/-! SUPPORT. What TRANSACTION_POST posts for a ring, a chain and the completion records (R114, R115, R119, R123, R368). -/

namespace Sys2Proof.Machine

/-! ## The instruction -/

/-- The channel that serves `n` posts from the staging paths as they stand at the start of the hclk. -/
theorem exec_transactionPost {s : State} {n : Log} {p : Phys} {h : Nat} {z : State} (hp : s.posts n p = true) (hh : s.hclk ≤ h)
    (hz : z = ({ s with hclk := h } : State).settled h) (rq : PostReq) (tag : Fin 256) : exec (.transactionPost p rq tag h) s = .next (z.postNext p n rq tag) := by
  obtain ⟨hl, hlog⟩ := (Bool.and_eq_true _ _).mp hp
  have hlog : s.logOf p = some n := by simpa using hlog
  obtain ⟨h1, h2, -, -⟩ := (s.live_iff n p).mp hl
  have hon : s.on = true := by unfold State.on; rw [h1, h2]; rfl
  change execTransactionPost p rq tag h s = _
  unfold execTransactionPost
  rw [hlog]
  dsimp only
  rw [State.withAwake_live s n p _ hl, State.atH_on s h _ hon hh, hz]

/-- The staging paths move nothing else. -/
theorem settledTo_settled {s : State} {h : Nat} {z : State} (hz : z = ({ s with hclk := h } : State).settled h) : settledTo s h z := by
  have hs := State.settled_settles hz
  exact ⟨hs.state, hs.chans, hs.ques, fun hf => by rw [hz]; exact State.settled_none _ h hf⟩

/-! ## A request of a queue that has taken a fetch -/

/-- The queue as the posting conditions see it. -/
def sameTokens (u v : Que) : Prop := v.cfg = u.cfg ∧ v.credit = u.credit ∧ v.bal = u.bal ∧ v.acc = u.acc

theorem entryRoom_congr {l k : LCh} (h : ∀ x : Qn, l.qs[x].cfg = k.qs[x].cfg) (pend : List Txn) (q : Qn) (i : Nat) : entryRoom l pend q i = entryRoom k pend q i := by
  have hp : ∀ x, l.promised x = k.promised x := fun x => by unfold LCh.promised; rw [h x]
  have hp' : l.promised = k.promised := funext hp
  unfold entryRoom
  rw [hp']

section
variable {s t : State} (h : t = { s with lch := t.lch, nextId := t.nextId }) (hq : ∀ (m : Log) (k : Qn), sameTokens (s.que m k) (t.que m k))
include h hq

theorem State.mayQueue_congr (p : Phys) (n : Log) (r : Req) (tag : Nat) : t.mayQueue p n r tag = s.mayQueue p n r tag := by
  obtain ⟨h1, h2, h3, -⟩ := hq n r.q
  have hc : (t.que n r.q).canDraw r.rep s.aclk r.ix r.size = (s.que n r.q).canDraw r.rep s.aclk r.ix r.size := by
    unfold Que.canDraw Que.fromCredit
    rw [h1, h2, h3]
  have hr : ∀ pend, entryRoom t.lch[n] pend r.q r.entries = entryRoom s.lch[n] pend r.q r.entries := fun pend => entryRoom_congr (fun x => (hq n x).1) pend _ _
  have hi : t.inc n = s.inc n := by unfold State.inc; rw [h]
  have hf : ∀ i w g, t.tagFree p i w g = s.tagFree p i w g := fun i w g => by unfold State.tagFree; rw [h]
  have hp : t.phys = s.phys := by rw [h]
  have ha : t.aclk = s.aclk := by rw [h]
  unfold State.mayQueue
  dsimp only
  rw [hi, hf, hp, ha, hr, hc]

theorem State.bandOk_congr (n : Log) (r : Req) : t.bandOk n r = s.bandOk n r := by
  have hd : t.bandDraw n r = s.bandDraw n r := by
    obtain ⟨h1, h2, -, -⟩ := hq n r.q
    unfold State.bandDraw Que.fromCredit
    dsimp only
    rw [h1, h2]
  have hb : ∀ b, t.band b = s.band b := fun b => by unfold State.band; rw [h]
  have hs : t.slices = s.slices := by rw [h]
  have ha : ∀ i y, t.asking i y = s.asking i y := fun i y => by
    unfold State.asking State.acc
    dsimp only
    obtain ⟨-, h2, -, h4⟩ := hq (Fin.ofNat 128 (y.key / 4)) (Fin.ofNat 4 y.key)
    rw [h2, h4]
  have ht : t.bandTurn n r = s.bandTurn n r := by
    unfold State.bandTurn
    dsimp only
    rw [hs]
    simp only [ha]
  unfold State.bandOk
  dsimp only
  rw [hd, hs, ht]
  simp only [hb]

theorem State.mayPost_congr (p : Phys) (n : Log) (r : Req) (tag : Nat) : t.mayPost p n r tag = s.mayPost p n r tag := by
  unfold State.mayPost
  rw [State.mayQueue_congr h hq, State.bandOk_congr h hq]

end

theorem newEntry_congr {s t : State} (h : t = { s with lch := t.lch, nextId := t.nextId }) (p : Phys) (n : Log) (r : Req) (tag : Nat)
    (hq : (t.que n r.q).cfg = (s.que n r.q).cfg) : newEntry t p n r tag = newEntry s p n r tag := by
  have hi : t.inc n = s.inc n := by unfold State.inc; rw [h]
  have hh : t.hclk = s.hclk := by rw [h]
  have ha : t.aclk = s.aclk := by rw [h]
  unfold newEntry
  rw [hi, hh, ha, hq]

theorem sameSiblings.trans {n : Log} {q : Qn} {s t u : State} (h : sameSiblings n q s t) (k : sameSiblings n q t u) : sameSiblings n q s u :=
  ⟨fun r hr => (k.1 r hr).trans (h.1 r hr), k.2.1.trans h.2.1, k.2.2.trans h.2.2⟩

/-- A post from a state that differs in the queue alone. -/
theorem Posted.of_queue {p : Phys} {n : Log} {q : Qn} {e : Txn} {z w v : State} (h : Posted p n q e w v) (hw : w = { z with lch := w.lch, nextId := w.nextId })
    (ho : sameOthers n z w) (hs : sameSiblings n q z w) : Posted p n q e z v := by
  have hp : w.phys = z.phys := by rw [hw]
  have hh : w.hclk = z.hclk := by rw [hw]
  obtain ⟨⟨h1, h2, h3, h4⟩, h5, h6, h7⟩ := h
  rw [hp] at h1 h3
  exact ⟨⟨h1, h2, h3, fun r hr => by rw [h4 r hr, hp]⟩, h5.trans hh, fun m hm => (h6 m hm).trans (ho m hm), hs.trans h7⟩

/-! ## Fetches -/

/-- A fetch that the region check and the posting conditions let pass (R119). -/
theorem State.postFetch_posts {z : State} {p : Phys} {n : Log} {q : Qn} {f : Fetch} {own : Own} {acc : Option Nat} {tag : Nat} {r : Req}
    (hr : r = { q, kind := .read, addr := f.addr, own, exempt := f.exempt, acc, rep := acc.any fun id => (z.acc n q id).any Acc.replayed })
    (hok : z.regionOk (z.que n q).cfg.dom .read f.addr = true) (hm : z.mayPost p n r tag = true) :
    z.postFetch p n q f own acc tag = some ((z.enter p n r tag).modQ n q fun u => u.modF f.id fun f => { f with posted := true }) := by
  unfold State.postFetch
  dsimp only
  rw [hok, ← hr, hm]
  rfl

theorem State.postRefill_none {z : State} {n : Log} {q : Qn} {ok : Origin → Bool} (h : (z.que n q).lacks ok = none) (p : Phys) (own : Nat → Own) (tag : Nat) :
    z.postRefill p n q ok own tag = none := by
  unfold State.postRefill
  rw [h]
  rfl

/-! ## The PIDX read -/

section
variable {z : State} {p : Phys} {n : Log} {q : Qn} {tag : Nat}

theorem postPidx_posts {r : Req} (hr : r = { q, kind := .read, addr := (z.que n q).cfg.pidxAddr / 64 * 64, own := .pidx }) (ho : (z.que n q).prd.out = true)
    (hp : (z.que n q).prd.posted = false) (hok : z.regionOk (z.que n q).cfg.dom .read (z.que n q).cfg.pidxAddr = true) (hm : z.mayPost p n r tag = true) :
    ∃ t, z.postPidx p n q tag = t ∧ Posted p n q (newEntry z p n r tag) z t ∧ (t.que n q).prd = { (z.que n q).prd with posted := true }
      ∧ (0 < (z.que n q).cfg.res → (t.que n q).bal[r.ix] = { v := (z.que n q).bal[r.ix].val (z.que n q).cfg.res z.aclk - 100, at_ := z.aclk })
      ∧ (t.que n q).acc = (z.que n q).acc := by
  have hq : r.q = q := by rw [hr]
  have hacc : r.acc = none := by rw [hr]
  have hc := z.enter_que p n r tag
  obtain ⟨credit, bal, acc, he, -⟩ := (z.que n r.q).charged_eq r z.aclk
  refine ⟨(z.enter p n r tag).modQ n q fun u => { u with prd := { u.prd with posted := true } }, ?_, ?_, ?_, fun hres => ?_, ?_⟩
  · unfold State.postPidx
    dsimp only
    rw [ho, hp, hok, ← hr, hm]
    rfl
  · have h := Posted.enter z p n r tag
    rw [hq] at h
    exact h.modQ _
  · rw [hq] at hc he
    rw [State.modQ_que, hc, he]
  · have hb := (z.que n r.q).charged_bal r z.aclk hacc (by rw [hr]) (by rw [hr]) (by rw [hq]; exact hres)
    have ht : tokens r.size = 100 := by
      have h64 : r.size = 64 := by rw [hr]
      rw [h64]
      decide
    rw [ht] at hb
    rw [hq] at hc hb
    rw [State.modQ_que]
    dsimp only
    rw [hc, hb]
  · have hb := (z.que n r.q).charged_acc r z.aclk hacc
    rw [hq] at hc hb
    rw [State.modQ_que]
    dsimp only
    rw [hc, hb]

end

/-! ## Ring entries, chain members and records -/

section
variable {z : State} {p : Phys} {n : Log} {q : Qn} {tag : Nat}

theorem updFirst_append_of_none {α : Type} (p : α → Bool) (f : α → α) {l : List α} (h : ∀ x ∈ l, p x = false) (y : α) (hy : p y = true) :
    updFirst p f (l ++ [y]) = l ++ [f y] := by
  induction l with
  | nil => simp only [List.nil_append, updFirst, hy, if_true]
  | cons x l ih =>
    have hx := h x List.mem_cons_self
    rw [List.cons_append, updFirst, hx, if_neg Bool.false_ne_true, ih fun y hy => h y (List.mem_cons_of_mem x hy)]
    rfl

/-- The next ring entry's fetch stands in the queue, not yet posted. -/
def State.withFetch (s : State) (n : Log) (q : Qn) (f : Fetch) : State :=
  { (s.modQ n q fun u => { u with fetches := u.fetches ++ [f] }) with nextId := s.nextId + 1 }

theorem State.withFetch_que (s : State) (n : Log) (q : Qn) (f : Fetch) : (s.withFetch n q f).que n q = { s.que n q with fetches := (s.que n q).fetches ++ [f] } := s.modQ_que n q _

theorem State.withFetch_tokens (s : State) (n : Log) (q : Qn) (f : Fetch) (m : Log) (k : Qn) : sameTokens (s.que m k) ((s.withFetch n q f).que m k) := by
  have h : (s.withFetch n q f).que m k = _ := s.modQ_queAt n q (fun u => { u with fetches := u.fetches ++ [f] }) m k
  rw [h]
  split
  next e => obtain ⟨rfl, rfl⟩ := e; exact ⟨rfl, rfl, rfl, rfl⟩
  · exact ⟨rfl, rfl, rfl, rfl⟩

theorem postRing_posts {f : Fetch} {r : Req}
    (hf : f = { id := z.nextId, idx := ((z.que n q).fidx + (z.que n q).fetches.length) % 2 ^ 32,
                addr := (z.que n q).cfg.ringAt (((z.que n q).fidx + (z.que n q).fetches.length) % 2 ^ 32),
                dg := (z.que n q).foundDg (((z.que n q).fidx + (z.que n q).fetches.length) % 2 ^ 32) })
    (hr : r = { q, kind := .read, addr := f.addr, own := .ring f.id }) (hl : (z.que n q).lacks Origin.isRing = none) (hst : (z.que n q).st = .active)
    (hre : (z.que n q).refetch = none) (hnp : (z.que n q).fetches.find? (fun f => !f.posted) = none)
    (hid : ∀ g ∈ (z.que n q).refills ++ (z.que n q).fetches, g.id ≠ z.nextId) (h1 : (z.que n q).fetches.length < (z.que n q).shown)
    (h2 : (z.que n q).fetches.length + (z.que n q).waiting < (z.que n q).cfg.fetchAhead) (h3 : (z.que n q).subs + (z.que n q).fetches.length < 16)
    (hok : z.regionOk (z.que n q).cfg.dom .read f.addr = true) (hm : z.mayPost p n r tag = true) :
    ∃ t, z.postRing p n q tag = t ∧ Posted p n q (newEntry z p n r tag) z t ∧ (t.que n q).fetches = (z.que n q).fetches ++ [{ f with posted := true }]
      ∧ (t.que n q).fidx = (z.que n q).fidx ∧ (t.que n q).acc = (z.que n q).acc := by
  have hq : r.q = q := by rw [hr]
  have hacc : r.acc = none := by rw [hr]
  have hfid : f.id = z.nextId := by rw [hf]
  have hw : z.withFetch n q f = { z with lch := (z.withFetch n q f).lch, nextId := (z.withFetch n q f).nextId } := rfl
  have hwt := z.withFetch_tokens n q f
  have hwq := z.withFetch_que n q f
  have hwf : (z.withFetch n q f).postFetch p n q f (.ring z.nextId) none tag
      = some (((z.withFetch n q f).enter p n r tag).modQ n q fun u => u.modF f.id fun f => { f with posted := true }) := by
    refine State.postFetch_posts ?_ ?_ ((State.mayPost_congr hw hwt p n r tag).trans hm)
    · have hx : f.exempt = false := by rw [hf]
      rw [hr, hx, hfid]
      rfl
    · rw [hwq]
      exact hok
  have hP := Posted.enter (z.withFetch n q f) p n r tag
  have hc := (z.withFetch n q f).enter_que p n r tag
  have hca := ((z.withFetch n q f).que n r.q).charged_acc r z.aclk hacc
  obtain ⟨credit, bal, acc, he, -⟩ := ((z.withFetch n q f).que n r.q).charged_eq r z.aclk
  rw [newEntry_congr hw _ _ _ _ (hwt n r.q).1, hq] at hP
  rw [hq] at hc hca he
  refine ⟨_, ?_, (hP.modQ fun u => u.modF f.id fun f => { f with posted := true }).of_queue hw ((AtLog.modQ n q z _).others)
    (sameSiblings.modQ ⟨fun _ _ => rfl, rfl, rfl⟩ _), ?_, ?_, ?_⟩
  · unfold State.postRing
    rw [State.postRefill_none hl]
    dsimp only
    rw [hst, hre, hnp, if_neg (by decide)]
    dsimp only
    rw [if_pos (by simp [h1, h2, h3]), ← hf]
    exact congrArg (fun o => Option.getD o z) hwf
  · rw [State.modQ_que]
    unfold Que.modF
    dsimp only
    have hfe : (((z.withFetch n q f).enter p n r tag).que n q).fetches = (z.que n q).fetches ++ [f] := by
      refine (congrArg Que.fetches hc).trans ((congrArg Que.fetches he).trans ?_)
      rw [hwq]
    rw [hfe]
    refine updFirst_append_of_none _ _ (fun g hg => ?_) f (beq_self_eq_true _)
    rw [hfid]
    exact beq_eq_false_iff_ne.mpr (hid g (List.mem_append_right _ hg))
  · rw [State.modQ_que]
    refine (congrArg Que.fidx hc).trans ((congrArg Que.fidx he).trans ?_)
    rw [hwq]
  · rw [State.modQ_que]
    refine (congrArg Que.acc hc).trans (hca.trans ?_)
    rw [hwq]

theorem postChain_posts {f : Fetch} {r : Req}
    (hr : r = { q, kind := .read, addr := f.addr, own := .chain, exempt := f.exempt, acc := some f.after, rep := (z.acc n q f.after).any Acc.replayed })
    (hl : (z.que n q).lacks Origin.isChain = none) (hf : (z.que n q).chain = some f) (hp : f.posted = false) (hre : (z.que n q).rechain = none)
    (hok : z.regionOk (z.que n q).cfg.dom .read f.addr = true) (hm : z.mayPost p n r tag = true) :
    ∃ t, z.postChain p n q tag = t ∧ Posted p n q (newEntry z p n r tag) z t ∧ (t.que n q).chain = some { f with posted := true }
      ∧ (t.que n q).acc.map Acc.id = (z.que n q).acc.map Acc.id := by
  have hq : r.q = q := by rw [hr]
  have hP := Posted.enter z p n r tag
  have hc := z.enter_que p n r tag
  obtain ⟨credit, bal, acc, he, hd⟩ := (z.que n r.q).charged_eq r z.aclk
  rw [hq] at hP hc he hd
  refine ⟨_, ?_, hP.modQ fun u => u.modF f.id fun f => { f with posted := true }, ?_, ?_⟩
  · unfold State.postChain
    rw [State.postRefill_none hl]
    dsimp only
    rw [hf]
    dsimp only
    rw [hp, hre, if_neg (by decide), State.postFetch_posts (by rw [hr]; rfl) hok hm]
    rfl
  · rw [State.modQ_que, hc, he]
    unfold Que.modF
    dsimp only
    rw [hf, Option.map_some, if_pos rfl]
  · rw [State.modQ_que, hc, he]
    exact hd.1

theorem updFirst_ns (k : Nat) (l : List Rec) : (updFirst (fun x => x.n == k) (fun x => { x with posted := true }) l).map Rec.n = l.map Rec.n := by
  induction l with
  | nil => rfl
  | cons a l ih =>
    unfold updFirst
    split
    · rfl
    · rw [List.map_cons, List.map_cons, ih]

theorem updFirst_posted {k : Nat} {l : List Rec} (h : ∃ y ∈ l, y.n = k) : ∃ y ∈ updFirst (fun x => x.n == k) (fun x => { x with posted := true }) l, y.n = k ∧ y.posted = true := by
  induction l with
  | nil => obtain ⟨y, hy, -⟩ := h; exact absurd hy List.not_mem_nil
  | cons a l ih =>
    unfold updFirst
    by_cases ha : a.n = k
    · rw [if_pos (beq_iff_eq.mpr ha)]
      exact ⟨_, List.mem_cons_self, ha, rfl⟩
    · obtain ⟨y, hy, hk⟩ := h
      obtain ⟨x, hx, h1, h2⟩ := ih ⟨y, (List.mem_cons.mp hy).resolve_left (fun e => ha (e ▸ hk)), hk⟩
      rw [if_neg (fun e => ha (beq_iff_eq.mp e))]
      exact ⟨x, List.mem_cons_of_mem _ hx, h1, h2⟩

theorem postRecord_posts {k : Rec} {r : Req}
    (hr : r = { q, kind := .write, addr := (z.que n q).cfg.recAt k.n / 64 * 64, own := .rcd k.n, exempt := true,
                cells := k.bytes.zipIdx.map fun (b, i) => (⟨(z.que n q).cfg.recAt k.n + i, b, false, 0, true⟩ : Cell) })
    (hk : (z.que n q).recs.find? (fun k => !k.posted) = some k) (hok : z.regionOk (z.que n q).cfg.dom .write ((z.que n q).cfg.recAt k.n) = true)
    (hm : z.mayPost p n r tag = true) :
    ∃ t, z.postRecord p n q tag = t ∧ Posted p n q (newEntry z p n r tag) z t ∧ (t.que n q).recs.map Rec.n = (z.que n q).recs.map Rec.n
      ∧ (∃ y ∈ (t.que n q).recs, y.n = k.n ∧ y.posted = true) ∧ (t.que n q).acc = (z.que n q).acc ∧ (t.que n q).bal = (z.que n q).bal := by
  have hq : r.q = q := by rw [hr]
  have hP := Posted.enter z p n r tag
  have hc := z.enter_que p n r tag
  rw [(z.que n r.q).charged_exempt r z.aclk (by rw [hr])] at hc
  rw [hq] at hP hc
  refine ⟨_, ?_, hP.modQ fun u => { u with recs := updFirst (fun x => x.n == k.n) (fun x => { x with posted := true }) u.recs }, ?_, ?_, ?_, ?_⟩
  · unfold State.postRecord
    dsimp only
    rw [hk]
    dsimp only
    rw [hok, ← hr, hm]
    rfl
  · rw [State.modQ_que, hc]
    exact updFirst_ns k.n _
  · rw [State.modQ_que, hc]
    exact updFirst_posted ⟨k, List.mem_of_find?_eq_some hk, rfl⟩
  · rw [State.modQ_que, hc]
  · rw [State.modQ_que, hc]

end

end Sys2Proof.Machine
end

section
/-! SUPPORT. What TRANSACTION_POST posts for the reads of a started descriptor (R174, R226, R269, R462, R538). -/

namespace Sys2Proof.Machine

/-! ## A read and its place in the list -/

section
variable {z : State} {p : Phys} {n : Log} {q : Qn} {tag : Nat} {a : Acc}

/-- The request of read `x` of descriptor `a`. -/
def readReq (q : Qn) (a : Acc) (x : RPlan) (kind : Kind) (entries : Nat) : Req :=
  { q, kind, addr := x.addr, size := x.size, own := .rd a.id a.x.reads.length, vec := a.d.isVec, rep := a.replayed, acc := some a.id, entries }

/-- Read `x` as its descriptor's list holds it. -/
def readTx (x : RPlan) (kind : Kind) : RTx := { stream := x.stream, addr := x.addr, size := x.size, lo := x.lo, kind, st := .posted, data := [] }

/-- Descriptor `a` with one more read. -/
def Acc.withRead (a : Acc) (y : RTx) : Acc := { a with x := { a.x with reads := a.x.reads ++ [y] } }

theorem State.postRead_posts {x : RPlan} {kind : Kind} {entries : Nat} (hok : z.regionOk (z.que n q).cfg.dom kind x.addr = true)
    (hm : z.mayPost p n (readReq q a x kind entries) tag = true) (after : State → State) :
    z.postRead p n q a x kind entries tag after = after ((z.enter p n (readReq q a x kind entries) tag).addRead n q a.id (readTx x kind)) := by
  unfold readReq at hm ⊢
  unfold State.postRead
  dsimp only
  rw [hok, hm]
  rfl

theorem State.postRead_fails {x : RPlan} {kind : Kind} {entries : Nat} (hok : z.regionOk (z.que n q).cfg.dom kind x.addr = false) (after : State → State) :
    z.postRead p n q a x kind entries tag after
      = after (((z.regionFail n q kind x.addr).addRead n q a.id { readTx x kind with st := .region }).modA n q a.id fun a => a.readFault 1 x.lo x.addr x.stream) := by
  unfold State.postRead
  dsimp only
  rw [hok]
  rfl

/-- A descriptor's update leaves the host FIFOs of its queue alone. -/
theorem State.modA_hin (s : State) (id : Nat) (f : Acc → Acc) : ((s.modA n q id f).que n q).hin = (s.que n q).hin ∧ ((s.modA n q id f).que n q).hout = (s.que n q).hout := by
  rw [State.modA_que]
  exact ⟨rfl, rfl⟩

theorem State.modQ_acc (s : State) (f : Que → Que) (hf : (f (s.que n q)).acc = (s.que n q).acc) (id : Nat) : (s.modQ n q f).acc n q id = s.acc n q id := by
  unfold State.acc
  rw [State.modQ_que, hf]

/-- A descriptor is found under its own identity. -/
theorem State.acc_id {s : State} {id : Nat} {b : Acc} (h : s.acc n q id = some b) : b.id = id := by
  unfold State.acc at h
  exact beq_iff_eq.mp (List.find?_some (p := fun a : Acc => a.id == id) h)

theorem State.enter_hout (r : Req) (hr : r.q = q) : ((z.enter p n r tag).que n q).hin = (z.que n q).hin ∧ ((z.enter p n r tag).que n q).hout = (z.que n q).hout := by
  obtain ⟨credit, bal, acc, he, -⟩ := (z.que n r.q).charged_eq r z.aclk
  have hc := z.enter_que p n r tag
  rw [hr] at hc he
  rw [hc, he]
  exact ⟨rfl, rfl⟩

/-- A read that is posted stands in its descriptor's list. -/
theorem State.enter_addRead {x : RPlan} {kind : Kind} {entries : Nat} (ha : z.acc n q a.id = some a) {w : State}
    (hw : w = (z.enter p n (readReq q a x kind entries) tag).addRead n q a.id (readTx x kind)) :
    Posted p n q (newEntry z p n (readReq q a x kind entries) tag) z w ∧ (∃ drawn, w.acc n q a.id = some { a.withRead (readTx x kind) with drawn })
      ∧ (w.que n q).hin = (z.que n q).hin ∧ w.phys = (z.enter p n (readReq q a x kind entries) tag).phys := by
  obtain ⟨drawn, hd⟩ := z.enter_acc p n (readReq q a x kind entries) tag (q := q) rfl ha
  have hacc := State.modA_acc (z.enter p n (readReq q a x kind entries) tag) n q a.id (fun b => b.withRead (readTx x kind)) fun _ h => h
  rw [hd] at hacc
  have hP : Posted p n q (newEntry z p n (readReq q a x kind entries) tag) z (z.enter p n (readReq q a x kind entries) tag) :=
    Posted.enter z p n (readReq q a x kind entries) tag
  subst hw
  refine ⟨hP.modA a.id _, ⟨drawn, hacc⟩, ?_, rfl⟩
  exact (State.modA_hin _ a.id _).1.trans (State.enter_hout _ rfl).1

/-! ## Data reads -/

/-- The plan of descriptor `id` stands behind place `i`, and the host-in FIFO waits for a read `k` that was posted (R226). -/
def State.noteRead (t : State) (n : Log) (q : Qn) (a : Acc) (k i stream : Nat) : State :=
  let posted := (t.acc n q a.id).any fun b => (b.x.reads[k]?).any fun y => y.st == .posted
  let t := t.modA n q a.id fun a => { a with x := { a.x with ri := i + 1 } }
  if posted && hostIn a.d stream then t.modQ n q fun u => { u with hin := u.hin ++ [(a.id, k)] } else t

theorem State.postData_eq {i : Nat} {x : RPlan} (hx : nextRead a = some (i, x)) (ht : (z.que n q).readTurn a z.lch[n].bed = true) :
    z.postData p n q a tag = (z.postRead p n q a x .read 1 tag fun t => t.noteRead n q a a.x.reads.length i x.stream).flow n q := by
  unfold State.postData
  rw [hx, ht]
  rfl

theorem Posted.noteRead {e : Txn} {t : State} (h : Posted p n q e z t) (k i stream : Nat) : Posted p n q e z (t.noteRead n q a k i stream) := by
  unfold State.noteRead
  dsimp only
  split
  · exact (h.modA _ _).modQ _
  · exact h.modA _ _

theorem sameOthers.noteRead {t : State} (h : sameOthers n z t) (k i stream : Nat) : sameOthers n z (t.noteRead n q a k i stream) := by
  unfold State.noteRead
  dsimp only
  split
  · exact (h.modQ _).modQ _
  · exact h.modQ _

theorem sameSiblings.noteRead {t : State} (h : sameSiblings n q z t) (k i stream : Nat) : sameSiblings n q z (t.noteRead n q a k i stream) := by
  unfold State.noteRead
  dsimp only
  split
  · exact (h.modQ _).modQ _
  · exact h.modQ _

theorem getElem?_withRead (l : List RTx) (y : RTx) : (l ++ [y])[l.length]? = some y := by simp

/-- What the note of a read leaves: `b` is the descriptor with its read. -/
theorem State.noteRead_notes {t : State} {b : Acc} {y : RTx} {l : List RTx} (hb : t.acc n q a.id = some b) (hl : b.x.reads = l ++ [y]) (i stream : Nat) :
    (t.noteRead n q a l.length i stream).acc n q a.id = some { b with x := { b.x with ri := i + 1 } }
    ∧ ((t.noteRead n q a l.length i stream).que n q).hin
      = (if (y.st == .posted && hostIn a.d stream) = true then (t.que n q).hin ++ [(a.id, l.length)] else (t.que n q).hin) := by
  have hp : ((t.acc n q a.id).any fun b => (b.x.reads[l.length]?).any fun y => y.st == .posted) = (y.st == .posted) := by
    rw [hb, Option.any_some, hl, getElem?_withRead, Option.any_some]
  have hacc := State.modA_acc t n q a.id (fun b => { b with x := { b.x with ri := i + 1 } }) fun _ h => h
  rw [hb] at hacc
  have hh := (t.modA_hin (n := n) (q := q) a.id fun b => { b with x := { b.x with ri := i + 1 } }).1
  unfold State.noteRead
  dsimp only
  rw [hp]
  split
  · refine ⟨(State.modQ_acc _ _ rfl _).trans hacc, ?_⟩
    rw [State.modQ_que]
    dsimp only
    rw [hh]
  · exact ⟨hacc, hh⟩

theorem readFault_reads (a : Acc) (cause lo addr stream : Nat) : (a.readFault cause lo addr stream).x.reads = a.x.reads ∧ (a.readFault cause lo addr stream).id = a.id := by
  unfold Acc.readFault Exec.inFault
  split
  · split <;> exact ⟨rfl, rfl⟩
  · split <;> exact ⟨rfl, rfl⟩

theorem State.noteRead_frame (t : State) (k i stream : Nat) : t.noteRead n q a k i stream = { t with lch := (t.noteRead n q a k i stream).lch } := by
  unfold State.noteRead
  dsimp only
  split <;> rfl

/-- A region check that fails counts in its domain (R538). -/
theorem State.regionFail_count (s : State) (n : Log) (q : Qn) (kind : Kind) (ad : Nat) :
    (s.regionFail n q kind ad).doms[(s.que n q).cfg.dom].rfault = satAdd 0xFFFFFFFF s.doms[(s.que n q).cfg.dom].rfault 1 := by
  unfold State.regionFail State.regionFault
  dsimp only
  rw [State.modD_doms, if_pos rfl]

theorem postData_posts {i : Nat} {x : RPlan} {r : Req} (hr : r = readReq q a x .read 1) (ha : z.acc n q a.id = some a) (hx : nextRead a = some (i, x))
    (ht : (z.que n q).readTurn a z.lch[n].bed = true) (hok : z.regionOk (z.que n q).cfg.dom .read x.addr = true) (hm : z.mayPost p n r tag = true) :
    ∃ v, z.postData p n q a tag = v.flow n q ∧ Posted p n q (newEntry z p n r tag) z v
      ∧ (∃ b, v.acc n q a.id = some b ∧ b.x.ri = i + 1 ∧ b.x.reads = a.x.reads ++ [readTx x .read])
      ∧ (v.que n q).hin = (if hostIn a.d x.stream then (z.que n q).hin ++ [(a.id, a.x.reads.length)] else (z.que n q).hin) := by
  subst hr
  obtain ⟨hP, ⟨drawn, hd⟩, hh, -⟩ := State.enter_addRead (p := p) (tag := tag) (x := x) (kind := .read) (entries := 1) ha rfl
  obtain ⟨k1, k2⟩ := State.noteRead_notes hd rfl i x.stream
  refine ⟨_, (State.postData_eq hx ht).trans (congrArg (fun t => t.flow n q) (State.postRead_posts hok hm _)), hP.noteRead _ i x.stream, ⟨_, k1, rfl, rfl⟩, ?_⟩
  rw [k2, hh]
  rfl

theorem postData_fails {i : Nat} {x : RPlan} (ha : z.acc n q a.id = some a) (hx : nextRead a = some (i, x))
    (ht : (z.que n q).readTurn a z.lch[n].bed = true) (hok : z.regionOk (z.que n q).cfg.dom .read x.addr = false) :
    ∃ v, z.postData p n q a tag = v.flow n q ∧ v.phys = z.phys ∧ v.doms[(z.que n q).cfg.dom].rfault = satAdd 0xFFFFFFFF z.doms[(z.que n q).cfg.dom].rfault 1
      ∧ (v.que n q).hin = (z.que n q).hin ∧ sameOthers n z v ∧ sameSiblings n q z v := by
  generalize hf : z.regionFail n q .read x.addr = f
  have hff : f = { z with doms := f.doms, rf := f.rf } := by rw [← hf]; rfl
  have hl : f.lch = z.lch := by rw [hff]
  have hfa : f.acc n q a.id = some a := by
    unfold State.acc
    rw [State.que_congr hl]
    exact ha
  have h1 := State.modA_acc f n q a.id (fun b => b.withRead { readTx x .read with st := .region }) fun _ h => h
  rw [hfa] at h1
  generalize hg : f.modA n q a.id (fun b => b.withRead { readTx x .read with st := .region }) = g at h1
  have h2 := State.modA_acc g n q a.id (fun b => b.readFault 1 x.lo x.addr x.stream) fun b h => (readFault_reads b _ _ _ _).2.trans h
  rw [h1] at h2
  obtain ⟨-, k2⟩ := State.noteRead_notes (i := i) (stream := x.stream) h2 (readFault_reads _ _ _ _ _).1
  have hgf : g = { f with lch := g.lch } := by rw [← hg]; rfl
  have ho : sameOthers n z f ∧ sameSiblings n q z f := ⟨fun m _ => by rw [hl], fun r _ => State.que_congr hl n r, by rw [hl], by rw [hl]⟩
  have hg2 : sameOthers n z g ∧ sameSiblings n q z g := by rw [← hg]; exact ⟨ho.1.modQ _, ho.2.modQ _⟩
  have hpr : (z.postRead p n q a x .read 1 tag fun t => t.noteRead n q a a.x.reads.length i x.stream)
      = (g.modA n q a.id fun b => b.readFault 1 x.lo x.addr x.stream).noteRead n q a a.x.reads.length i x.stream := by
    rw [State.postRead_fails hok, hf, ← hg]
    rfl
  refine ⟨(g.modA n q a.id fun b => b.readFault 1 x.lo x.addr x.stream).noteRead n q a a.x.reads.length i x.stream,
    (State.postData_eq hx ht).trans (congrArg (fun t => t.flow n q) hpr), ?_, ?_, ?_,
    (hg2.1.modQ _).noteRead _ i x.stream, (hg2.2.modQ _).noteRead _ i x.stream⟩
  · rw [State.noteRead_frame]
    change g.phys = z.phys
    rw [hgf, hff]
  · have hc := z.regionFail_count n q .read x.addr
    rw [hf] at hc
    rw [State.noteRead_frame]
    change g.doms[(z.que n q).cfg.dom].rfault = _
    rw [hgf]
    exact hc
  · refine k2.trans ((if_neg ?_).trans ?_)
    · exact fun h => Bool.false_ne_true h
    · rw [(State.modA_hin g a.id _).1, ← hg, (State.modA_hin f a.id _).1, State.que_congr hl]

/-! ## Lock reads and chunk takes -/

theorem State.seqBegin_locked (s : State) (p : Phys) (q : Qn) (id : Nat) : (s.seqBegin p q id).phys[p].locked = some (q, id) := by
  unfold State.seqBegin
  rw [State.modP_phys, if_pos rfl]

theorem postLockRead_posts {r : Req} (hr : r = readReq q a ⟨6, a.d.dst / 64 * 64, 64, 0⟩ .lockRead 2) (ha : z.acc n q a.id = some a) (hl : a.lk = .none)
    (hok : z.regionOk (z.que n q).cfg.dom .lockRead (a.d.dst / 64 * 64) = true) (hm : z.mayPost p n r tag = true) :
    ∃ t, z.postLockRead p n q a tag = t ∧ Posted p n q (newEntry z p n r tag) z t ∧ t.phys[p].locked = some (q, a.id)
      ∧ ∃ b, t.acc n q a.id = some b ∧ b.lk = .intent := by
  subst hr
  obtain ⟨hP, ⟨drawn, hd⟩, -, -⟩ := State.enter_addRead (p := p) (tag := tag) (x := ⟨6, a.d.dst / 64 * 64, 64, 0⟩) (kind := .lockRead) (entries := 2) ha rfl
  refine ⟨_, ?_, (hP.seqBegin a.id).modA a.id fun a => { a with lk := .intent }, State.seqBegin_locked _ p q a.id, ?_⟩
  · unfold State.postLockRead
    rw [if_neg (by rw [hl]; exact fun h => h rfl)]
    exact State.postRead_posts hok hm _
  · have hacc := State.modA_acc (State.seqBegin (State.addRead (z.enter p n (readReq q a ⟨6, a.d.dst / 64 * 64, 64, 0⟩ .lockRead 2) tag) n q a.id (readTx ⟨6, a.d.dst / 64 * 64, 64, 0⟩ .lockRead)) p q a.id)
      n q a.id (fun a => { a with lk := .intent }) fun _ h => h
    exact ⟨_, hacc.trans (congrArg (Option.map _) hd), rfl⟩

/-- The read that begins a chunk take: its header, or its LOCK_READ (R269). -/
def chunkRead (z : State) (n : Log) (lock : Bool) : RPlan := ⟨if lock then 6 else 4, (z.bedOf n).dst, 64, 0⟩

theorem find?_withRead {l : List RTx} {k : Nat} {y : RTx} (hl : (l.any fun y => y.stream == k) = false) (hy : y.stream = k) :
    ((l ++ [y]).find? fun y => y.stream == k) = some y := by
  have h : (l.find? fun y => y.stream == k) = none := by
    rw [List.find?_eq_none]
    intro x hx e
    rw [List.any_eq_false] at hl
    exact hl x hx e
  rw [List.find?_append, h, Option.none_or, List.find?_singleton, if_pos (beq_iff_eq.mpr hy)]

/-- A chunk take after its LOCK_READ: the lock sequence begins, or the take fails (R269). -/
def State.takeLocked (t : State) (p : Phys) (n : Log) (q : Qn) (id : Nat) : State :=
  match (t.acc n q id).bind fun a => a.x.reads.find? fun r => r.stream == 6 with
  | some r => if r.st == .region then (t.modBed n fun b => b.lastTake .notTaken).takeFail n q id 1 4 else t.seqBegin p q id
  | none => t

/-- A chunk take after its header read (R269, R273). -/
def State.takeHeader (t : State) (n : Log) (q : Qn) (id : Nat) : State :=
  match (t.acc n q id).bind fun a => (a.x.reads.find? fun r => r.stream == 4).map fun r => (a, r) with
  | some (a, r) => if r.st == .region then t.headerDone n q a r else t
  | none => t

theorem State.postTake_lock (hpool : a.x.pool = 3) (hn : (a.x.reads.any fun y => y.stream == 6) = false) :
    z.postTake p n q a tag = some (z.postRead p n q a (chunkRead z n true) .lockRead 2 tag fun t => t.takeLocked p n q a.id) := by
  unfold State.postTake
  dsimp only
  rw [hpool]
  refine (if_neg ?_).trans rfl
  rw [hn]
  exact Bool.false_ne_true

theorem State.postTake_header (hpool : a.x.pool = 1) (hn : (a.x.reads.any fun y => y.stream == 4) = false) :
    z.postTake p n q a tag = some (z.postRead p n q a (chunkRead z n false) .read 1 tag fun t => t.takeHeader n q a.id) := by
  unfold State.postTake
  dsimp only
  rw [hpool]
  refine (if_neg ?_).trans rfl
  rw [hn]
  exact Bool.false_ne_true

theorem postTake_locks {r : Req} (hr : r = readReq q a (chunkRead z n true) .lockRead 2) (ha : z.acc n q a.id = some a) (hpool : a.x.pool = 3)
    (hn : (a.x.reads.any fun y => y.stream == 6) = false) (hok : z.regionOk (z.que n q).cfg.dom .lockRead (z.bedOf n).dst = true) (hm : z.mayPost p n r tag = true) :
    ∃ v, z.postTake p n q a tag = some v ∧ Posted p n q (newEntry z p n r tag) z v ∧ v.phys[p].locked = some (q, a.id)
      ∧ ∃ b, v.acc n q a.id = some b ∧ b.x.pool = a.x.pool ∧ b.x.reads = a.x.reads ++ [readTx (chunkRead z n true) .lockRead] := by
  subst hr
  obtain ⟨hP, ⟨drawn, hd⟩, -, -⟩ := State.enter_addRead (p := p) (tag := tag) (x := chunkRead z n true) (kind := .lockRead) (entries := 2) ha rfl
  have hpr := State.postRead_posts hok hm fun t => t.takeLocked p n q a.id
  generalize (z.enter p n (readReq q a (chunkRead z n true) .lockRead 2) tag).addRead n q a.id (readTx (chunkRead z n true) .lockRead) = w at hP hd hpr
  have hf : ((w.acc n q a.id).bind fun a => a.x.reads.find? fun r => r.stream == 6) = some (readTx (chunkRead z n true) .lockRead) := by
    rw [hd]
    exact find?_withRead hn rfl
  have ht : w.takeLocked p n q a.id = w.seqBegin p q a.id := by
    unfold State.takeLocked
    rw [hf]
    rfl
  exact ⟨w.seqBegin p q a.id, (State.postTake_lock hpool hn).trans (congrArg some (hpr.trans ht)), hP.seqBegin a.id, State.seqBegin_locked w p q a.id, _, hd, rfl, rfl⟩

theorem postTake_heads {r : Req} (hr : r = readReq q a (chunkRead z n false) .read 1) (ha : z.acc n q a.id = some a) (hpool : a.x.pool = 1)
    (hn : (a.x.reads.any fun y => y.stream == 4) = false) (hok : z.regionOk (z.que n q).cfg.dom .read (z.bedOf n).dst = true) (hm : z.mayPost p n r tag = true) :
    ∃ v, z.postTake p n q a tag = some v ∧ Posted p n q (newEntry z p n r tag) z v ∧ v.phys[p].locked = z.phys[p].locked
      ∧ ∃ b, v.acc n q a.id = some b ∧ b.x.pool = a.x.pool ∧ b.x.reads = a.x.reads ++ [readTx (chunkRead z n false) .read] := by
  subst hr
  obtain ⟨hP, ⟨drawn, hd⟩, -, hph⟩ := State.enter_addRead (p := p) (tag := tag) (x := chunkRead z n false) (kind := .read) (entries := 1) ha rfl
  have hpr := State.postRead_posts hok hm fun t => t.takeHeader n q a.id
  have hlk : (z.enter p n (readReq q a (chunkRead z n false) .read 1) tag).phys[p].locked = z.phys[p].locked := z.enter_locked p n _ tag
  generalize (z.enter p n (readReq q a (chunkRead z n false) .read 1) tag).addRead n q a.id (readTx (chunkRead z n false) .read) = w at hP hd hpr hph
  have hf : ((w.acc n q a.id).bind fun a => (a.x.reads.find? fun r => r.stream == 4).map fun r => (a, r))
      = some ({ a.withRead (readTx (chunkRead z n false) .read) with drawn }, readTx (chunkRead z n false) .read) := by
    rw [hd, Option.bind_some]
    exact congrArg (Option.map _) (find?_withRead hn rfl)
  have ht : w.takeHeader n q a.id = w := by
    unfold State.takeHeader
    rw [hf]
    rfl
  exact ⟨w, (State.postTake_header hpool hn).trans (congrArg some (hpr.trans ht)), hP, by rw [hph, hlk], _, hd, rfl, rfl⟩

end

end Sys2Proof.Machine
end

section
/-! SUPPORT. What TRANSACTION_POST posts for the writes of a started descriptor (R101, R174, R316, R462, R538). -/

namespace Sys2Proof.Machine

section
variable {z : State} {p : Phys} {n : Log} {q : Qn} {tag : Nat} {a : Acc}

/-! ## A request that is served first -/

theorem sameSiblings.modL_reqs (s : State) (n : Log) (q : Qn) (f : LCh → List Nat) : sameSiblings n q s (s.modL n fun l => { l with reqs := f l }) := by
  have h : (s.modL n fun l => { l with reqs := f l }).lch[n] = { s.lch[n] with reqs := f s.lch[n] } := by rw [State.modL_lch, if_pos rfl]
  exact ⟨fun r _ => State.modL_que_kept s n (fun l => { l with reqs := f l }) (fun _ => rfl) n r, by rw [h], by rw [h]⟩

/-- A request served is noted with its descriptor (R101). -/
theorem State.serveReq_eq (z : State) (n : Log) (q : Qn) (a : Acc) : z.serveReq n q a = z
    ∨ ∃ (f : LCh → List Nat) (g : Acc → Exec), z.serveReq n q a = (z.modL n fun l => { l with reqs := f l }).modA n q a.id fun a => { a with x := g a } := by
  unfold State.serveReq
  dsimp only
  split
  · split
    · exact .inr ⟨_, _, rfl⟩
    · exact .inl rfl
  · exact .inl rfl

/-- What serving a request leaves alone. -/
theorem State.serveReq_at (z : State) (n : Log) (q : Qn) (a : Acc) : z.serveReq n q a = { z with lch := (z.serveReq n q a).lch, nextId := (z.serveReq n q a).nextId }
    ∧ sameOthers n z (z.serveReq n q a) ∧ sameSiblings n q z (z.serveReq n q a) ∧ ∃ acc, (z.serveReq n q a).que n q = { z.que n q with acc } := by
  rcases z.serveReq_eq n q a with h | ⟨f, g, h⟩
  · rw [h]
    exact ⟨rfl, fun _ _ => rfl, ⟨fun _ _ => rfl, rfl, rfl⟩, _, rfl⟩
  · have hl := (AtLog.modL n z fun l => { l with reqs := f l }).others
    have hs := sameSiblings.modL_reqs z n q f
    have hq := State.modL_que_kept z n (fun l => { l with reqs := f l }) (fun _ => rfl) n q
    have hm := (z.modL n fun l => { l with reqs := f l }).modA_que n q a.id fun a => { a with x := g a }
    rw [hq] at hm
    rw [h]
    exact ⟨rfl, hl.modQ _, hs.modQ _, _, hm⟩

/-! ## Writes -/

/-- The request of write `x` of descriptor `b`. -/
def writeReq (q : Qn) (b : Acc) (x : WPlan) : Req :=
  { q, kind := .write, addr := x.addr, size := x.size, own := .wr b.id b.x.writes.length, cells := x.cells, vec := b.d.isVec, rep := b.replayed, acc := some b.id }

/-- Write `x` as its descriptor's list holds it, with the lowest element index in it (R179). -/
def writeTx (b : Acc) (x : WPlan) : WTx :=
  let j := (lowest (x.cells.map Cell.idx)).getD 0
  { addr := x.addr, size := x.size, lo := if b.d.op = 0x13 then scatterLo b.d b.x x.addr j else j, cells := x.cells, st := .posted }

/-- A write joins its descriptor's list, and the plan stands behind place `i`. -/
def State.addWrite (s : State) (n : Log) (q : Qn) (id i : Nat) (x : WTx) : State :=
  s.modA n q id fun a => { a with x := { a.x with writes := a.x.writes ++ [x], wi := i + 1 } }

/-- The words of a write stay in the host-out FIFO until its beats are accepted (R316). -/
def State.holdHout (s : State) (n : Log) (q : Qn) (d : Desc) (id k words : Nat) : State :=
  if d.viaHout then s.modQ n q fun u => { u with hout := u.hout ++ [⟨id, k, words, false⟩] } else s

theorem State.postWr_eq {y : State} (hy : y = z.serveReq n q a) {b : Acc} {i : Nat} {x : WPlan} (ha : z.acc n q a.id = some a) (hst : a.stage = .started)
    (hr : a.runs = true) (hlp : a.x.lockPost = false) (hb : y.acc n q a.id = some b) (hx : nextWrite b y.lch[n].bed = some (i, x))
    (ho : b.writeOpen y.lch[n].bed x = true) (hh : b.d.viaHout = true → (y.que n q).houtHeld + x.size / 64 ≤ 32)
    (hok : y.regionOk (y.que n q).cfg.dom .write x.addr = true) (hm : y.mayPost p n (writeReq q b x) tag = true) :
    z.postWr p n q a.id tag
      = (((y.enter p n (writeReq q b x) tag).addWrite n q a.id i (writeTx b x)).holdHout n q b.d a.id b.x.writes.length (x.size / 64)).flow n q := by
  have hfull : (b.d.viaHout && decide ((y.que n q).houtHeld + x.size / 64 > 32)) = false := by
    cases hv : b.d.viaHout with
    | false => rfl
    | true => exact decide_eq_false (Nat.not_lt.mpr (hh hv))
  unfold State.postWr
  rw [ha]
  dsimp only
  rw [hst, hr, if_neg (by decide), hlp, if_neg Bool.false_ne_true, ← hy, hb, Option.getD_some, hx]
  dsimp only
  unfold writeReq at hm ⊢
  rw [ho, hfull, if_neg (by decide), hok, if_neg (by decide), hm, if_pos rfl]
  unfold State.holdHout State.addWrite writeTx
  rfl

theorem postWr_posts {y : State} (hy : y = z.serveReq n q a) {b : Acc} {i : Nat} {x : WPlan} {r : Req} (hreq : r = writeReq q b x) (ha : z.acc n q a.id = some a)
    (hst : a.stage = .started) (hr : a.runs = true) (hlp : a.x.lockPost = false) (hb : y.acc n q a.id = some b) (hx : nextWrite b y.lch[n].bed = some (i, x))
    (ho : b.writeOpen y.lch[n].bed x = true) (hh : b.d.viaHout = true → (y.que n q).houtHeld + x.size / 64 ≤ 32)
    (hok : z.regionOk (z.que n q).cfg.dom .write x.addr = true) (hm : y.mayPost p n r tag = true) :
    ∃ v, z.postWr p n q a.id tag = v.flow n q ∧ Posted p n q (newEntry z p n r tag) z v
      ∧ (∃ c, v.acc n q a.id = some c ∧ c.x.wi = i + 1 ∧ c.x.writes.length = b.x.writes.length + 1)
      ∧ (v.que n q).hout = (if b.d.viaHout then (z.que n q).hout ++ [⟨b.id, b.x.writes.length, x.size / 64, false⟩] else (z.que n q).hout) := by
  subst hreq
  obtain ⟨hyf, hyo, hys, acc, hyq⟩ := z.serveReq_at n q a
  rw [← hy] at hyf hyo hys hyq
  have hcfg : (y.que n q).cfg = (z.que n q).cfg := by rw [hyq]
  have hok' : y.regionOk (y.que n q).cfg.dom .write x.addr = true := by
    have hd : y.doms = z.doms := by rw [hyf]
    unfold State.regionOk at hok ⊢
    rw [hcfg, hd]
    exact hok
  have hP : Posted p n q (newEntry y p n (writeReq q b x) tag) y (y.enter p n (writeReq q b x) tag) := Posted.enter y p n (writeReq q b x) tag
  rw [newEntry_congr hyf p n (writeReq q b x) tag hcfg] at hP
  obtain ⟨drawn, hd⟩ := y.enter_acc p n (writeReq q b x) tag (q := q) rfl hb
  have hho := (State.enter_hout (z := y) (p := p) (n := n) (tag := tag) (writeReq q b x) (q := q) rfl).2
  have heq := State.postWr_eq hy ha hst hr hlp hb hx ho hh hok' hm
  generalize y.enter p n (writeReq q b x) tag = t at hP hd hho heq
  have hacc := State.modA_acc t n q a.id (fun a => { a with x := { a.x with writes := a.x.writes ++ [writeTx b x], wi := i + 1 } }) fun _ h => h
  rw [hd] at hacc
  have hw := (State.modA_hin (n := n) (q := q) t a.id fun a => { a with x := { a.x with writes := a.x.writes ++ [writeTx b x], wi := i + 1 } }).2
  have hP' := hP.modA a.id fun a => { a with x := { a.x with writes := a.x.writes ++ [writeTx b x], wi := i + 1 } }
  refine ⟨_, heq, ?_, ?_, ?_⟩
  · refine Posted.of_queue (w := y) ?_ hyf hyo hys
    unfold State.holdHout State.addWrite
    split
    · exact hP'.modQ _
    · exact hP'
  · refine ⟨{ b with drawn, x := { b.x with writes := b.x.writes ++ [writeTx b x], wi := i + 1 } }, ?_, rfl, List.length_append⟩
    unfold State.holdHout State.addWrite
    split
    · exact (State.modQ_acc _ _ rfl _).trans hacc
    · exact hacc
  · have hz : (y.que n q).hout = (z.que n q).hout := by rw [hyq]
    rw [State.acc_id hb]
    unfold State.holdHout State.addWrite
    split
    · rw [State.modQ_que]
      dsimp only
      rw [hw, hho, hz]
    · rw [hw, hho, hz]

/-! ## The LOCK_WRITE -/

theorem postLockWrite_posts {r : Req}
    (hreq : r = { q, kind := .lockWrite, addr := a.d.dst / 64 * 64, own := .wr a.id 0, rep := a.replayed, acc := some a.id,
                  cells := ((a.x.lockWord.bind (lockedNew a)).map (lockedCells a)).getD [] })
    (ha : z.acc n q a.id = some a) (hst : a.stage = .started) (hr : a.runs = true) (hlp : a.x.lockPost = true) (hop : a.d.op = 0x31)
    (hm : z.mayPost p n r tag = true) :
    ∃ t, z.postWr p n q a.id tag = t ∧ Posted p n q (newEntry z p n r tag) z t ∧ ∃ b, t.acc n q a.id = some b ∧ b.x.lockPost = false ∧ b.lk = a.lk := by
  have hq : r.q = q := by rw [hreq]
  have hP := Posted.enter z p n r tag
  rw [hq] at hP
  obtain ⟨drawn, hd⟩ := z.enter_acc p n r tag hq ha
  have hacc := State.modA_acc (z.enter p n r tag) n q a.id (fun a => { a with x := { a.x with lockPost := false } }) fun _ h => h
  rw [hd] at hacc
  have h28 : ¬a.d.op = 0x28 := by rw [hop]; decide
  refine ⟨_, ?_, hP.modA a.id fun a => { a with x := { a.x with lockPost := false } }, _, hacc, rfl, rfl⟩
  unfold State.postWr
  rw [ha]
  dsimp only
  rw [hst, hr, if_neg (by decide), hlp, if_pos rfl]
  unfold State.postLockWrite
  dsimp only
  rw [if_neg h28, if_neg h28]
  generalize a.x.lockWord.bind (lockedNew a) = o at hreq ⊢
  cases o with
  | none =>
    dsimp only [Option.map_none, Option.getD_none] at hreq ⊢
    rw [← hreq, hm, if_pos rfl]
  | some v =>
    dsimp only [Option.map_some, Option.getD_some] at hreq ⊢
    rw [← hreq, hm, if_pos rfl]

end

end Sys2Proof.Machine
end

section
/-! SUPPORT. TRANSACTION_POST puts each request's transaction in the pending queue (R368). -/

namespace Sys2Proof.Machine

section
variable {z : State} {p : Phys} {n : Log} {q : Qn} {tag : Nat} {a : Acc} (ha : z.acc n q a.id = some a) (hst : a.stage = .started) (hr : a.runs = true)
include ha hst hr

theorem State.postRd_lock (hop : a.d.op = 0x31) : z.postRd p n q a.id tag = z.postLockRead p n q a tag := by
  unfold State.postRd
  rw [ha]
  dsimp only
  rw [hst, hr, if_neg (by decide), if_pos hop]

theorem State.postRd_take (hop : a.d.op = 0x28) {v : State} (hv : z.postTake p n q a tag = some v) : z.postRd p n q a.id tag = v.flow n q := by
  unfold State.postRd
  rw [ha]
  dsimp only
  rw [hst, hr, if_neg (by decide), if_neg (by rw [hop]; decide), if_pos hop, hv]

theorem State.postRd_data (h31 : a.d.op ≠ 0x31) (h28 : a.d.op = 0x28 → z.postTake p n q a tag = none) : z.postRd p n q a.id tag = z.postData p n q a tag := by
  unfold State.postRd
  rw [ha]
  dsimp only
  rw [hst, hr, if_neg (by decide), if_neg h31]
  split
  next h => rw [h28 h]
  · rfl

end

/-- What the settled state keeps of the state before it. -/
theorem Settles.fields {s z : State} {h : Nat} (hs : Settles { s with hclk := h } z) : z.aclk = s.aclk ∧ z.hclk = h ∧ z.nextId = s.nextId ∧ z.doms = s.doms := by
  rw [hs.state]
  exact ⟨rfl, rfl, rfl, rfl⟩

/-- Settles O50: each request's transaction stands last in the pending queue of its channel, and its request is marked posted. -/
theorem postsEnterThePendingQueue : Obligations.PostsEnterThePendingQueue := by
  unfold Obligations.PostsEnterThePendingQueue
  intro s n p q tag h z hp hh hz u
  obtain ⟨haclk, hhclk, hid, hdoms⟩ := (State.settled_settles hz).fields
  have hexec := fun rq => exec_transactionPost hp hh hz rq tag
  refine ⟨settledTo_settled hz, ?_, ?_, fun f => ?_, fun k => ?_, fun a i x ha hst hr h31 h28 hx ht => ⟨?_, ?_⟩, fun a ha hst hr hop hl => ?_,
    fun a lock ha hst hr hop hpool hn => ?_, fun a b i x ha hst hr hlp => ?_, fun a ha hst hr hlp hop => ?_⟩
  · intro r ho hnp hok hm
    obtain ⟨t, he, hP, h1, h2, h3⟩ := postPidx_posts rfl ho hnp hok hm
    rw [haclk] at h2
    exact ⟨t, (hexec _).trans (congrArg _ he), hP.entry, h1, h2, h3, hP.hclk.trans hhclk, hP.others, hP.siblings⟩
  · intro f r hl hst hre hnp hfr h1 h2 h3 hok hm
    obtain ⟨t, he, hP, k1, k2, k3⟩ := postRing_posts (f := f) (by rw [hid]) rfl hl hst hre hnp (by rw [hid]; exact hfr) h1 h2 h3 hok hm
    exact ⟨t, (hexec _).trans (congrArg _ he), hP.entry, k1, k2, k3, hP.hclk.trans hhclk, hP.others, hP.siblings⟩
  · intro r hl hf hnp hre hok hm
    obtain ⟨t, he, hP, k1, k2⟩ := postChain_posts rfl hl hf hnp hre hok hm
    exact ⟨t, (hexec _).trans (congrArg _ he), hP.entry, k1, k2, hP.hclk.trans hhclk, hP.others, hP.siblings⟩
  · intro ad r hk hok hm
    obtain ⟨t, he, hP, k1, k2, k3, k4⟩ := postRecord_posts rfl hk hok hm
    exact ⟨t, (hexec _).trans (congrArg _ he), hP.entry, k1, k2, k3, k4, hP.hclk.trans hhclk, hP.others, hP.siblings⟩
  · intro hok hm
    obtain ⟨v, he, hP, ⟨b, hb, hri, hrd⟩, hh⟩ := postData_posts rfl ha hx ht hok hm
    exact ⟨v, (hexec _).trans (congrArg _ ((State.postRd_data ha hst hr h31 h28).trans he)), hP.entry, hP.hclk.trans hhclk, hP.others, hP.siblings, ⟨b, hb, hri, hrd⟩, hh⟩
  · intro hok
    obtain ⟨v, he, h1, h2, h3, h4, h5⟩ := postData_fails (p := p) (tag := tag) ha hx ht hok
    rw [hdoms] at h2
    exact ⟨v, (hexec _).trans (congrArg _ ((State.postRd_data ha hst hr h31 h28).trans he)), h1, h2, h3, h4, h5⟩
  · intro r hok hm
    obtain ⟨t, he, hP, h1, h2⟩ := postLockRead_posts rfl ha hl hok hm
    exact ⟨t, (hexec _).trans (congrArg _ ((State.postRd_lock ha hst hr hop).trans he)), hP.entry, h1, h2, hP.hclk.trans hhclk, hP.others, hP.siblings⟩
  · intro r hok hm
    cases lock with
    | true =>
      obtain ⟨v, he, hP, h1, h2⟩ := postTake_locks rfl ha hpool hn hok hm
      exact ⟨v, (hexec _).trans (congrArg _ (State.postRd_take ha hst hr hop he)), hP.entry, h1, h2, hP.hclk.trans hhclk, hP.others, hP.siblings⟩
    | false =>
      obtain ⟨v, he, hP, h1, h2⟩ := postTake_heads rfl ha hpool hn hok hm
      exact ⟨v, (hexec _).trans (congrArg _ (State.postRd_take ha hst hr hop he)), hP.entry, h1, h2, hP.hclk.trans hhclk, hP.others, hP.siblings⟩
  · intro y hb hx ho hh r hok hm
    obtain ⟨v, he, hP, h1, h2⟩ := postWr_posts rfl rfl ha hst hr hlp hb hx ho hh hok hm
    exact ⟨v, (hexec _).trans (congrArg _ he), hP.entry, hP.hclk.trans hhclk, hP.others, hP.siblings, h1, h2⟩
  · intro r hm
    obtain ⟨t, he, hP, h1⟩ := postLockWrite_posts rfl ha hst hr hlp hop hm
    exact ⟨t, (hexec _).trans (congrArg _ he), hP.entry, h1, hP.hclk.trans hhclk, hP.others, hP.siblings⟩

end Sys2Proof.Machine
end

section
/-! SUPPORT. The liveness period and the declaration of death of a serving channel (R34, R49, R509 to R515, R527), and PARITY_REPORT (R326, R331, R512, R518). -/

namespace Sys2Proof.Machine

/-! ## What is undone first -/

/-- A dead channel's logical channel `n` before the declaration: a command or register write of the aclk is undone, and entries that have changed are rewritten (R49, R518, R684). -/
def State.undone (s : State) (p : Phys) (n : Log) : State := ((s.svcTaken p n).unQctl n).rewriteJ

theorem AtLog.undoQs (n : Log) (s : State) (o : PreOut) : AtLog n s (s.undoQs n o) :=
  .foldl _ (fun _ _ => .modQ n _ _ _) _ s

theorem AtLog.unQctl (n : Log) (s : State) : AtLog n s (s.unQctl n) := by
  unfold State.unQctl
  split
  · exact .refl n s
  · exact (AtLog.undoQs n s _).trans (.modL n _ _)

theorem State.rewriteJ_eq (s : State) : ∃ jbad, s.rewriteJ = { s with jbad } := ⟨_, rfl⟩

/-- A declaration meets no command and no RETURN of its aclk at `n`. -/
theorem State.svcTaken_none {s : State} {p : Phys} {n : Log} (hc : (s.ters[terL n].cmd.any fun c => c.at_ == s.aclk) = false)
    (hr : (s.lch[n].retReq.any fun r => r.at_ == s.aclk) = false) : s.svcTaken p n = s := by
  have h1 : (s.lch[n].retReq.filter fun r => decide (r.at_ = s.aclk)) = none := by
    rw [Option.filter_eq_none_iff]
    intro r e
    rw [e] at hr
    simpa using hr
  have h2 : (s.ters[terL n].cmd.filter fun c => decide (c.at_ = s.aclk)) = none := by
    rw [Option.filter_eq_none_iff]
    intro c e
    rw [e] at hc
    simpa using hc
  unfold State.svcTaken
  extract_lets t x fail run
  have hrun : run = none := h2
  rw [h1, hrun]
  rfl

/-- Nothing of the aclk named `n`: only its entry changes, and the journal's errors. -/
theorem State.undone_frame {s : State} {p : Phys} {n : Log} (hc : (s.ters[terL n].cmd.any fun c => c.at_ == s.aclk) = false)
    (hr : (s.lch[n].retReq.any fun r => r.at_ == s.aclk) = false) : ∃ w : State, AtLog n s w ∧ ∃ jbad, s.undone p n = { w with jbad } := by
  refine ⟨s.unQctl n, .unQctl n s, ?_⟩
  unfold State.undone
  rw [State.svcTaken_none hc hr]
  exact State.rewriteJ_eq _

/-! ## The steps of a declaration -/

/-- A channel is declared dead as the server of `n`: its terrace and the block note it (R513, R531). -/
def State.deathNoted (s : State) (p : Phys) (n : Log) (cause : Nat) : State :=
  ((s.quarantine p).noteDeath p n (s.inc n) ((s.inc n + 1) % 16) cause false).post 0x10 0 n
    (leBytes 1 p ++ leBytes 1 (s.inc n) ++ leBytes 1 ((s.inc n + 1) % 16) ++ leBytes 1 cause)

/-- The drain that the dead channel had still to begin (R141). -/
def State.drainDue (s : State) (p : Phys) (n : Log) (t : State) : State := if s.phys[p].toDrain && !s.lch[n].drain then t.channelDrain n else t

/-- The journal entry of `n` is what is left of its channel (R516, R520). -/
def State.leftInJournal (s : State) (p : Phys) (n : Log) (t : State) : State :=
  ((t.modP p fun c => { c with kept := some (n, t.lch[n]) }).restoreL n).modL n fun l => { l with chEnp := s.phys[p].chEnp }

/-- Everything of the declaration but the takeover and the new incarnation. -/
def State.declaredDead (s : State) (p : Phys) (n : Log) (cause : Nat) : State := s.leftInJournal p n (s.drainDue p n (s.deathNoted p n cause))

/-- The reserve of the dead channel's terrace is aimed at `n` in aclk `now` (R515). -/
def State.aim (s : State) (p : Phys) (n : Log) (now : Nat) (r : Phys) : State :=
  s.modT (terP p) fun x => { x with busy := true, tko := some { log := n, new := r, old := p, at_ := now, swap := false, oos := false } }

/-- The reserve is aimed at `n` where it is free, or aimed in this aclk at a higher logical channel (R515). -/
def State.handOver (s : State) (p : Phys) (n : Log) (now : Nat) : State :=
  match s.ters[terP p].reserve, s.ters[terP p].busy, s.ters[terP p].tko.filter fun k => !k.swap && k.at_ = now && n < k.log with
  | some r, false, _ => s.aim p n now r
  | some r, true, some k => (s.aim p n now r).unserve k.log k.old
  | _, _, _ => s.unserve n p

theorem State.declareServing_eq (s : State) (p : Phys) (n : Log) (cause : Nat) :
    s.declareServing p n cause = (((s.undone p n).declaredDead p n cause).handOver p n (s.undone p n).aclk).fenceEdge n p := rfl

/-! ## The dead channel -/

/-- The latest death of a terrace (R531, R652). -/
def TerSt.notes (x : TerSt) (p : Phys) (n old new cause : Nat) (res : Bool) : TerSt :=
  { x with lastPhys := p, lastLog := n, lastRes := res, lastOld := old, lastNew := new, lastCause := cause, stest := x.stest &&& ~~~(1#17 <<< (p.val % 17)) }

theorem State.noteDeath_frame (s : State) (p : Phys) (n old new cause : Nat) (res : Bool) :
    s.noteDeath p n old new cause res = { s with ters := (s.noteDeath p n old new cause res).ters, gate := (s.noteDeath p n old new cause res).gate } := rfl

theorem State.noteDeath_ters (s : State) (p : Phys) (n old new cause : Nat) (res : Bool) (x : Ter) :
    (s.noteDeath p n old new cause res).ters[x] = if terP p = x then s.ters[terP p].notes p n old new cause res else s.ters[x] := by
  unfold State.noteDeath
  dsimp only
  exact State.modT_ters s (terP p) x fun x => x.notes p n old new cause res

theorem State.noteDeath_dead (s : State) (p : Phys) (n old new cause : Nat) (res : Bool) :
    (s.noteDeath p n old new cause res).gate.dead.getLsbD (terP p).val = true := by
  have h : (s.gate.dead ||| (1#8 <<< (terP p).val)).getLsbD (terP p).val = true := by
    have := (terP p).isLt
    simp [this]
  unfold State.noteDeath
  exact h

section
variable (s : State) (p : Phys) (n : Log) (cause : Nat)

theorem State.deathNoted_frame : s.deathNoted p n cause = { s with
    phys := (s.quarantine p).phys, slices := (s.deathNoted p n cause).slices, ters := (s.deathNoted p n cause).ters, gate := (s.deathNoted p n cause).gate, ldg := (s.deathNoted p n cause).ldg } := by
  unfold State.deathNoted
  rw [State.post_frame, State.noteDeath_frame, State.quarantine_frame]

theorem State.deathNoted_ters (x : Ter) :
    (s.deathNoted p n cause).ters[x] = if terP p = x then s.ters[terP p].notes p n (s.inc n) ((s.inc n + 1) % 16) cause false else s.ters[x] := by
  have h := (s.quarantine p).noteDeath_ters p n (s.inc n) ((s.inc n + 1) % 16) cause false x
  unfold State.deathNoted
  rw [State.post_frame]
  refine h.trans ?_
  rw [State.quarantine_frame]

theorem State.deathNoted_dead : (s.deathNoted p n cause).gate.dead.getLsbD (terP p).val = true := by
  unfold State.deathNoted
  rw [State.post_frame]
  exact State.noteDeath_dead ..

theorem AtLog.drainDue (t : State) : AtLog n t (s.drainDue p n t) := by
  unfold State.drainDue
  split
  · exact .channelDrain n t
  · exact .refl n t

/-- Beside the page that it keeps of the dead channel, a declaration stays at `n`. -/
theorem State.declaredDead_eq : ∃ w v : State, AtLog n (s.deathNoted p n cause) w ∧ AtLog n (w.modP p fun c => { c with kept := some (n, w.lch[n]) }) v ∧ s.declaredDead p n cause = v := by
  refine ⟨s.drainDue p n (s.deathNoted p n cause), s.declaredDead p n cause, .drainDue s p n _, ?_, rfl⟩
  unfold State.declaredDead State.leftInJournal
  exact (AtLog.restoreL n _).trans (.modL n _ _)

theorem State.declaredDead_frame : s.declaredDead p n cause = { s with
    phys := (s.declaredDead p n cause).phys, slices := (s.declaredDead p n cause).slices, ters := (s.deathNoted p n cause).ters, gate := (s.deathNoted p n cause).gate
    lch := (s.declaredDead p n cause).lch, nextId := (s.declaredDead p n cause).nextId, ldg := (s.declaredDead p n cause).ldg, linkOut := (s.declaredDead p n cause).linkOut } := by
  obtain ⟨w, v, hw, hv, h⟩ := s.declaredDead_eq p n cause
  rw [h, hv.state, State.modP, hw.state, State.deathNoted_frame]

theorem State.declaredDead_others : sameOthers n s (s.declaredDead p n cause) := by
  obtain ⟨w, v, hw, hv, h⟩ := s.declaredDead_eq p n cause
  intro m hm
  rw [h, hv.others m hm, State.modP_lch, hw.others m hm, State.deathNoted_frame]

/-- The dead channel is behind its closed gate, with nothing pending (R513, R514). -/
theorem State.declaredDead_phys : (s.declaredDead p n cause).phys[p].st = .quarantined ∧ (s.declaredDead p n cause).phys[p].gate = false
    ∧ (s.declaredDead p n cause).phys[p].pend = [] ∧ samePhys p s (s.declaredDead p n cause) := by
  obtain ⟨w, v, hw, hv, h⟩ := s.declaredDead_eq p n cause
  have hm : w.phys = (s.quarantine p).phys := by rw [hw.phys, State.deathNoted_frame]
  have hp : ∀ r : Phys, (s.declaredDead p n cause).phys[r] = if p = r then { (s.quarantine p).phys[p] with kept := some (n, w.lch[n]) } else (s.quarantine p).phys[r] := fun r => by
    rw [h, hv.phys, State.modP_phys, hm]
  obtain ⟨h1, h2, h3, h4⟩ := s.quarantine_phys p
  refine ⟨?_, ?_, ?_, fun r hr => ?_⟩
  · rw [hp p, if_pos rfl]; exact h1
  · rw [hp p, if_pos rfl]; exact h2
  · rw [hp p, if_pos rfl]; exact h3
  · rw [hp r, if_neg (Ne.symm hr)]; exact h4 r hr

end

/-! ## The reserve -/

/-- A terrace but for its takeover, its command and NO_RESERVE. -/
def sameButHand (x y : TerSt) : Prop :=
  y = { x with busy := y.busy, tko := y.tko, noRes := y.noRes, cmd := y.cmd, sdone := y.sdone, sfail := y.sfail, result := y.result, vacant := y.vacant }

theorem sameButHand.trans {x y z : TerSt} (h : sameButHand x y) (k : sameButHand y z) : sameButHand x z := by
  unfold sameButHand at *
  rw [k, h]

theorem State.unserve_hand (s : State) (n : Log) (p : Nat) (x : Ter) : sameButHand s.ters[x] (s.unserve n p).ters[x] := by
  have h := s.unserve_ters n p x
  unfold sameButSvc at h
  unfold sameButHand
  split at h <;> rw [h]

theorem State.svcLost_idle (s : State) (n : Log) (result : Nat) (x : Ter) (h : s.ters[x].cmd = none) : (s.svcLost n result).ters[x] = s.ters[x] := by
  unfold State.svcLost
  split
  next c hc =>
    have hx : terL n ≠ x := fun e => by subst e; rw [h] at hc; exact absurd hc nofun
    have hm : ∀ f : TerSt → TerSt, (s.modT (terL n) f).ters[x] = s.ters[x] := fun f => by rw [State.modT_ters, if_neg hx]
    split
    · dsimp only
      split
      · exact hm _
      · exact hm _
    · rfl
  · rfl

/-- A terrace without a command only learns that a reserve is missing. -/
theorem State.unserve_idle (s : State) (n : Log) (p : Nat) (x : Ter) (h : s.ters[x].cmd = none) :
    ∃ noRes, (s.unserve n p).ters[x] = { s.ters[x] with noRes } := by
  obtain ⟨w, hu, hw, -⟩ := s.unserve_eq n p
  have hx : ∃ noRes, w.ters[x] = { s.ters[x] with noRes } := by
    rw [hw]
    have hm := State.modT_ters s (terL n) x fun x => { x with noRes := true }
    split at hm
    next e => subst e; exact ⟨_, hm⟩
    · exact ⟨_, hm⟩
  obtain ⟨noRes, hx⟩ := hx
  refine ⟨noRes, ?_⟩
  rw [hu, State.svcLost_idle _ _ _ _ (by rw [hx]; exact h), hx]

section
variable (s : State) (p : Phys) (n : Log) (now : Nat)

/-- A takeover of this aclk at a higher logical channel, which loses the reserve to `n`. -/
def later (x : TerSt) (n : Log) (now : Nat) : Bool := x.tko.any fun k => !k.swap && k.at_ == now && decide (n < k.log)

theorem later_tko {x : TerSt} {n : Log} {now : Nat} (h : later x n now = true) :
    ∃ k, x.tko = some k ∧ (x.tko.filter fun k => !k.swap && k.at_ = now && n < k.log) = some k := by
  unfold later at h
  cases hk : x.tko with
  | none => rw [hk] at h; exact absurd h Bool.false_ne_true
  | some k =>
    rw [hk] at h
    exact ⟨k, rfl, by simpa using h⟩

theorem later_none {x : TerSt} {n : Log} {now : Nat} (h : later x n now = false) : (x.tko.filter fun k => !k.swap && k.at_ = now && n < k.log) = none := by
  unfold later at h
  rw [Option.filter_eq_none_iff]
  intro k hk
  rw [hk] at h
  simpa using h

variable {s p n now}

theorem State.handOver_free {r : Phys} (hr : s.ters[terP p].reserve = some r) (hb : s.ters[terP p].busy = false) : s.handOver p n now = s.aim p n now r := by
  unfold State.handOver
  rw [hr, hb]

theorem State.handOver_later {r : Phys} (hr : s.ters[terP p].reserve = some r) (hb : s.ters[terP p].busy = true) (hl : later s.ters[terP p] n now = true) :
    ∃ k, s.ters[terP p].tko = some k ∧ s.handOver p n now = (s.aim p n now r).unserve k.log k.old := by
  obtain ⟨k, hk, hf⟩ := later_tko hl
  refine ⟨k, hk, ?_⟩
  unfold State.handOver
  rw [hr, hb, hf]

theorem State.handOver_none (h : s.ters[terP p].reserve = none ∨ s.ters[terP p].busy = true ∧ later s.ters[terP p] n now = false) :
    s.handOver p n now = s.unserve n p := by
  unfold State.handOver
  rcases h with h | ⟨hb, hl⟩
  · rw [h]
  · rw [hb, later_none hl]
    cases s.ters[terP p].reserve <;> rfl

variable (s p n now) in
theorem State.aim_ters (r : Phys) (x : Ter) : (s.aim p n now r).ters[x]
    = if terP p = x then { s.ters[terP p] with busy := true, tko := some { log := n, new := r, old := p, at_ := now, swap := false, oos := false } } else s.ters[x] :=
  State.modT_ters s (terP p) x _

variable (s p n now) in
theorem State.aim_hand (r : Phys) (x : Ter) : sameButHand s.ters[x] (s.aim p n now r).ters[x] ∧ (s.aim p n now r).ters[x].cmd = s.ters[x].cmd
    ∧ (s.aim p n now r).ters[x].sfail = s.ters[x].sfail ∧ (s.aim p n now r).ters[x].result = s.ters[x].result := by
  rw [State.aim_ters]
  split
  next e => subst e; exact ⟨rfl, rfl, rfl, rfl⟩
  · exact ⟨rfl, rfl, rfl, rfl⟩

/-- The three ways in which the reserve can be given, or withheld. -/
theorem State.handOver_cases (s : State) (p : Phys) (n : Log) (now : Nat) :
    (∃ r, s.handOver p n now = s.aim p n now r) ∨ (∃ (r : Phys) (k : Tko), s.handOver p n now = (s.aim p n now r).unserve k.log k.old)
      ∨ s.handOver p n now = s.unserve n p := by
  unfold State.handOver
  split
  · exact .inl ⟨_, rfl⟩
  next r k _ _ _ => exact .inr (.inl ⟨r, k, rfl⟩)
  · exact .inr (.inr rfl)

theorem State.handOver_frame (s : State) (p : Phys) (n : Log) (now : Nat) : s.handOver p n now = { s with
    map := (s.handOver p n now).map, ters := (s.handOver p n now).ters, lch := (s.handOver p n now).lch, ldg := (s.handOver p n now).ldg } := by
  rcases s.handOver_cases p n now with ⟨r, h⟩ | ⟨r, k, h⟩ | h
  · rw [h]; rfl
  · rw [h, State.unserve_frame]; rfl
  · rw [h, State.unserve_frame]

theorem State.handOver_hand (s : State) (p : Phys) (n : Log) (now : Nat) (x : Ter) : sameButHand s.ters[x] (s.handOver p n now).ters[x] := by
  rcases s.handOver_cases p n now with ⟨r, h⟩ | ⟨r, k, h⟩ | h
  · rw [h]; exact (s.aim_hand p n now r x).1
  · rw [h]; exact (s.aim_hand p n now r x).1.trans (State.unserve_hand _ _ _ x)
  · rw [h]; exact s.unserve_hand n p x

/-- A terrace whose command has ended keeps its status. -/
theorem State.handOver_idle (s : State) (p : Phys) (n : Log) (now : Nat) (x : Ter) (h : s.ters[x].cmd = none) :
    (s.handOver p n now).ters[x].cmd = none ∧ (s.handOver p n now).ters[x].sfail = s.ters[x].sfail ∧ (s.handOver p n now).ters[x].result = s.ters[x].result := by
  rcases s.handOver_cases p n now with ⟨r, e⟩ | ⟨r, k, e⟩ | e
  · obtain ⟨-, h1, h2, h3⟩ := s.aim_hand p n now r x
    rw [e]
    exact ⟨h1.trans h, h2, h3⟩
  · obtain ⟨-, h1, h2, h3⟩ := s.aim_hand p n now r x
    obtain ⟨b, hb⟩ := (s.aim p n now r).unserve_idle k.log k.old x (h1.trans h)
    rw [e, hb]
    exact ⟨h1.trans h, h2, h3⟩
  · obtain ⟨b, hb⟩ := s.unserve_idle n p x h
    rw [e, hb]
    exact ⟨h, rfl, rfl⟩

end

/-! ## The declaration -/

section
variable (s : State) (p : Phys) (n : Log) (cause : Nat)

theorem State.declareServing_phys : (s.declareServing p n cause).phys[p].st = .quarantined ∧ (s.declareServing p n cause).phys[p].gate = false
    ∧ (s.declareServing p n cause).phys[p].pend = [] ∧ samePhys p (s.undone p n) (s.declareServing p n cause) := by
  rw [State.declareServing_eq]
  generalize s.undone p n = w
  obtain ⟨h1, h2, -, h4⟩ := w.declaredDead_phys p n cause
  have hp : ∀ r : Phys, (((w.declaredDead p n cause).handOver p n w.aclk).fenceEdge n p).phys[r]
      = if p = r then { (w.declaredDead p n cause).phys[p] with pend := [] } else (w.declaredDead p n cause).phys[r] := fun r => by
    have hh : ((w.declaredDead p n cause).handOver p n w.aclk).phys = (w.declaredDead p n cause).phys := by rw [State.handOver_frame]
    rw [State.fenceEdge_phys, ← hh]
    exact State.modP_phys _ p r _
  refine ⟨?_, ?_, ?_, fun r hr => ?_⟩
  · rw [hp p, if_pos rfl]; exact h1
  · rw [hp p, if_pos rfl]; exact h2
  · rw [hp p, if_pos rfl]
  · rw [hp r, if_neg (Ne.symm hr)]; exact h4 r hr

theorem State.declareServing_inc (m : Log) :
    (s.declareServing p n cause).inc m = if n = m then ((s.undone p n).inc n + 1) % 16 else (s.undone p n).inc m := by
  rw [State.declareServing_eq]
  generalize s.undone p n = w
  have h : ((w.declaredDead p n cause).handOver p n w.aclk).fence = w.fence := by rw [State.handOver_frame, State.declaredDead_frame]
  rw [State.fenceEdge_inc]
  unfold State.inc
  rw [h]

theorem State.declareServing_ters : (s.declareServing p n cause).ters = (((s.undone p n).declaredDead p n cause).handOver p n (s.undone p n).aclk).ters := by
  rw [State.declareServing_eq, State.fenceEdge_ters]

theorem State.declareServing_map : (s.declareServing p n cause).map = (((s.undone p n).declaredDead p n cause).handOver p n (s.undone p n).aclk).map := by
  rw [State.declareServing_eq, State.fenceEdge_map]

theorem State.declaredDead_ters (x : Ter) :
    (s.declaredDead p n cause).ters[x] = if terP p = x then s.ters[terP p].notes p n (s.inc n) ((s.inc n + 1) % 16) cause false else s.ters[x] := by
  have h : (s.declaredDead p n cause).ters = (s.deathNoted p n cause).ters := by rw [State.declaredDead_frame]
  rw [h]
  exact s.deathNoted_ters p n cause x

/-- TER_LAST names the channel, its logical channel and the cause, and GLB_FAULT its terrace (R531, R672). -/
theorem State.declareServing_note :
    ((s.declareServing p n cause).ters[terP p].lastPhys, (s.declareServing p n cause).ters[terP p].lastLog, (s.declareServing p n cause).ters[terP p].lastCause) = (p.val, n.val, cause)
    ∧ (s.declareServing p n cause).gate.dead.getLsbD (terP p).val = true := by
  have ht := s.declareServing_ters p n cause
  have hg : (s.declareServing p n cause).gate = ((s.undone p n).deathNoted p n cause).gate := by
    rw [State.declareServing_eq, State.fenceEdge_gate, State.handOver_frame, State.declaredDead_frame]
  refine ⟨?_, by rw [hg]; exact State.deathNoted_dead ..⟩
  rw [ht]
  have hh := ((s.undone p n).declaredDead p n cause).handOver_hand p n (s.undone p n).aclk (terP p)
  unfold sameButHand at hh
  rw [hh, State.declaredDead_ters, if_pos rfl]
  rfl

/-- A command that has ended keeps its status over a declaration. -/
theorem State.declareServing_idle (x : Ter) (h : (s.undone p n).ters[x].cmd = none) :
    (s.declareServing p n cause).ters[x].cmd = none ∧ (s.declareServing p n cause).ters[x].sfail = (s.undone p n).ters[x].sfail
      ∧ (s.declareServing p n cause).ters[x].result = (s.undone p n).ters[x].result := by
  have hb : ((s.undone p n).declaredDead p n cause).ters[x].cmd = none ∧ ((s.undone p n).declaredDead p n cause).ters[x].sfail = (s.undone p n).ters[x].sfail
      ∧ ((s.undone p n).declaredDead p n cause).ters[x].result = (s.undone p n).ters[x].result := by
    rw [State.declaredDead_ters]
    split
    next e => subst e; exact ⟨h, rfl, rfl⟩
    · exact ⟨h, rfl, rfl⟩
  obtain ⟨h1, h2, h3⟩ := ((s.undone p n).declaredDead p n cause).handOver_idle p n (s.undone p n).aclk x hb.1
  rw [State.declareServing_ters]
  exact ⟨h1, h2.trans hb.2.1, h3.trans hb.2.2⟩

end

section
variable {s : State} {p : Phys} {n : Log} {cause : Nat} {w : State} (hw : w = s.undone p n)
include hw

/-- A free reserve is aimed at `n`; the map stays (R515, R519). -/
theorem State.declareServing_free {r : Phys} (hr : w.ters[terP p].reserve = some r) (hb : w.ters[terP p].busy = false) :
    (s.declareServing p n cause).ters[terP p].busy = true
    ∧ ((s.declareServing p n cause).ters[terP p].tko.map fun k => (k.log, k.new, k.old)) = some (n, r, p.val)
    ∧ (s.declareServing p n cause).map = w.map ∧ sameOthers n w (s.declareServing p n cause) := by
  have ht := w.declaredDead_ters p n cause (terP p)
  rw [if_pos rfl] at ht
  have hh : (w.declaredDead p n cause).handOver p n w.aclk = (w.declaredDead p n cause).aim p n w.aclk r :=
    State.handOver_free (by rw [ht]; exact hr) (by rw [ht]; exact hb)
  have ha := (w.declaredDead p n cause).aim_ters p n w.aclk r (terP p)
  rw [if_pos rfl] at ha
  rw [State.declareServing_ters, State.declareServing_map, ← hw, hh, ha]
  refine ⟨rfl, rfl, ?_, fun m hm => ?_⟩
  · unfold State.aim
    rw [State.modT_map, State.declaredDead_frame]
  · rw [State.declareServing_eq, ← hw, hh, State.fenceEdge_others _ n p m hm]
    exact w.declaredDead_others p n cause m hm

/-- A reserve that was aimed in this aclk at a higher logical channel is aimed at `n`, and the other is left unserved (R515). -/
theorem State.declareServing_later {r : Phys} (hr : w.ters[terP p].reserve = some r) (hb : w.ters[terP p].busy = true) (hl : later w.ters[terP p] n w.aclk = true) :
    (s.declareServing p n cause).ters[terP p].busy = true
    ∧ ((s.declareServing p n cause).ters[terP p].tko.map fun k => (k.log, k.new, k.old)) = some (n, r, p.val)
    ∧ ∀ k, w.ters[terP p].tko = some k → (s.declareServing p n cause).map = w.map.set k.log none ∧ (s.declareServing p n cause).ters[terL k.log].noRes = true := by
  have ht := w.declaredDead_ters p n cause (terP p)
  rw [if_pos rfl] at ht
  obtain ⟨k, hk, hh⟩ : ∃ k, (w.declaredDead p n cause).ters[terP p].tko = some k ∧ (w.declaredDead p n cause).handOver p n w.aclk = ((w.declaredDead p n cause).aim p n w.aclk r).unserve k.log k.old :=
    State.handOver_later (by rw [ht]; exact hr) (by rw [ht]; exact hb) (by rw [ht]; exact hl)
  have ha := (w.declaredDead p n cause).aim_ters p n w.aclk r (terP p)
  rw [if_pos rfl] at ha
  rw [State.declareServing_ters, State.declareServing_map, ← hw, hh]
  obtain ⟨-, h2, h3, -, -⟩ := ((w.declaredDead p n cause).aim p n w.aclk r).unserve_parts k.log k.old (terP p)
  refine ⟨by rw [h2, ha], by rw [h3, ha]; rfl, fun k' hk' => ?_⟩
  have e : k = k' := by
    rw [ht] at hk
    exact Option.some.inj (hk.symm.trans hk')
  subst e
  obtain ⟨-, -, -, -, h5⟩ := ((w.declaredDead p n cause).aim p n w.aclk r).unserve_parts k.log k.old (terL k.log)
  refine ⟨?_, h5 rfl⟩
  rw [State.unserve_frame]
  unfold State.aim
  rw [State.modT_map, State.declaredDead_frame]

/-- Without a reserve to give, `n` is left unserved (R34). -/
theorem State.declareServing_none (h : w.ters[terP p].reserve = none ∨ w.ters[terP p].busy = true ∧ later w.ters[terP p] n w.aclk = false) :
    (s.declareServing p n cause).map = w.map.set n none ∧ (s.declareServing p n cause).ters[terL n].noRes = true ∧ sameOthers n w (s.declareServing p n cause) := by
  have ht := w.declaredDead_ters p n cause (terP p)
  rw [if_pos rfl] at ht
  have hh : (w.declaredDead p n cause).handOver p n w.aclk = (w.declaredDead p n cause).unserve n p := State.handOver_none (by rw [ht]; exact h)
  obtain ⟨-, -, -, -, h5⟩ := (w.declaredDead p n cause).unserve_parts n p (terL n)
  rw [State.declareServing_ters, State.declareServing_map, ← hw, hh]
  refine ⟨?_, h5 rfl, fun m hm => ?_⟩
  · rw [State.unserve_frame, State.declaredDead_frame]
  · rw [State.declareServing_eq, ← hw, hh, State.fenceEdge_others _ n p m hm, State.unserve_others _ n p m hm]
    exact w.declaredDead_others p n cause m hm

end

/-! ## The pulses -/

/-- What a period's pulses may change: missed counts, the revivals that they show, and the ledger. -/
structure Pulses (s t : State) : Prop where
  state : t = { s with phys := t.phys, ters := t.ters, ldg := t.ldg }
  chans : ∀ r : Phys, ∃ missed revived, t.phys[r] = { s.phys[r] with missed, revived }
  ters : ∀ x : Ter, ∃ revivals, t.ters[x] = { s.ters[x] with revivals }

theorem Pulses.refl (s : State) : Pulses s s := ⟨rfl, fun _ => ⟨_, _, rfl⟩, fun _ => ⟨_, rfl⟩⟩

theorem Pulses.trans {s t u : State} (h : Pulses s t) (k : Pulses t u) : Pulses s u := by
  refine ⟨by rw [k.state, h.state], fun r => ?_, fun x => ?_⟩
  · obtain ⟨m, v, e⟩ := k.chans r
    obtain ⟨_, _, e'⟩ := h.chans r
    exact ⟨m, v, by rw [e, e']⟩
  · obtain ⟨v, e⟩ := k.ters x
    obtain ⟨_, e'⟩ := h.ters x
    exact ⟨v, by rw [e, e']⟩

/-- What a period's pulses keep of a channel, by one equation. -/
theorem Pulses.kept {α : Type} {s t : State} (h : Pulses s t) (f : PCh → α) (hf : ∀ (c : PCh) (missed : Nat) (revived : Bool), f { c with missed, revived } = f c) (r : Phys) :
    f t.phys[r] = f s.phys[r] := by
  obtain ⟨m, v, e⟩ := h.chans r
  rw [e, hf]

/-- What a period's pulses keep of a terrace, by one equation. -/
theorem Pulses.terKept {α : Type} {s t : State} (h : Pulses s t) (f : TerSt → α) (hf : ∀ (x : TerSt) (revivals : Nat), f { x with revivals } = f x) (x : Ter) :
    f t.ters[x] = f s.ters[x] := by
  obtain ⟨v, e⟩ := h.ters x
  rw [e, hf]

/-- A pulse is present or absent whatever the other channels' pulses are. -/
theorem Pulses.noPulse {s t : State} (h : Pulses s t) (failed : List Phys) (p : Phys) : t.noPulse failed p = s.noPulse failed p := by
  have h1 : t.phys[p].parity = s.phys[p].parity := h.kept PCh.parity (fun _ _ _ => rfl) p
  have h2 : t.phys[p].entry = s.phys[p].entry := h.kept PCh.entry (fun _ _ _ => rfl) p
  have h3 : t.stalled p = s.stalled p := by rw [h.state]; rfl
  have h4 : t.step1 (terP p) = s.step1 (terP p) := by rw [h.state]; rfl
  have h5 : t.aclk = s.aclk := by rw [h.state]
  unfold State.noPulse State.committed
  rw [h1, h2, h3, h4, h5]

/-- The period counts at channel `p`: it is watched since before this aclk, with its terrace's tree running (R510). -/
def State.watches (s : State) (p : Phys) : Bool := s.phys[p].st.monitored && !s.ters[terP p].stopped && decide (s.phys[p].monA < s.aclk ∧ s.ters[terP p].runA < s.aclk)

/-- The missed count of `p` at the end of the period (R510, R511). -/
def State.missedNext (s : State) (failed : List Phys) (p : Phys) : Nat :=
  if s.watches p then if s.noPulse failed p then s.phys[p].missed + 1 else 0 else s.phys[p].missed

theorem Pulses.missedNext {s t : State} (h : Pulses s t) (failed : List Phys) (p : Phys) (hm : t.phys[p].missed = s.phys[p].missed) :
    t.missedNext failed p = s.missedNext failed p := by
  have h1 : t.phys[p].st = s.phys[p].st := h.kept PCh.st (fun _ _ _ => rfl) p
  have h2 : t.phys[p].monA = s.phys[p].monA := h.kept PCh.monA (fun _ _ _ => rfl) p
  have h3 : t.ters[terP p].stopped = s.ters[terP p].stopped := h.terKept TerSt.stopped (fun _ _ => rfl) _
  have h4 : t.ters[terP p].runA = s.ters[terP p].runA := h.terKept TerSt.runA (fun _ _ => rfl) _
  have h5 : t.aclk = s.aclk := by rw [h.state]
  unfold State.missedNext State.watches
  rw [h.noPulse, h1, h2, h3, h4, h5, hm]

theorem Pulses.modP (s : State) (p : Phys) (f : PCh → PCh) (hf : ∀ c, ∃ missed revived, f c = { c with missed, revived }) : Pulses s (s.modP p f) := by
  refine ⟨rfl, fun r => ?_, fun _ => ⟨_, rfl⟩⟩
  rw [State.modP_phys]
  split
  next e => subst e; exact hf _
  · exact ⟨_, _, rfl⟩

/-- A channel comes back to life, and its terrace counts it (R527). -/
def State.revive (s : State) (p : Phys) : State :=
  (s.modP p fun c => { c with revived := true }).modT (terP p) fun x => { x with revivals := satAdd 0xFFFFFFFF x.revivals 1 }

theorem Pulses.revive (s : State) (p : Phys) : Pulses s (s.revive p) := by
  refine (Pulses.modP s p (fun c => { c with revived := true }) fun c => ⟨c.missed, true, rfl⟩).trans ⟨rfl, fun _ => ⟨_, _, rfl⟩, fun x => ?_⟩
  unfold State.revive
  rw [State.modT_ters]
  split
  next e => subst e; exact ⟨_, rfl⟩
  · exact ⟨_, rfl⟩

theorem Pulses.post (s : State) (kind plane src : Nat) (arg : List Byte) (q : Nat) : Pulses s (s.post kind plane src arg q) := by
  rw [State.post_frame]
  exact ⟨rfl, fun _ => ⟨_, _, rfl⟩, fun _ => ⟨_, rfl⟩⟩

theorem State.pulse_cases (s : State) (failed : List Phys) (p : Phys) :
    (s.watches p = true ∧ s.pulse failed p = s.modP p fun c => { c with missed := if s.noPulse failed p then c.missed + 1 else 0 })
      ∨ s.watches p = false ∧ (s.pulse failed p = s ∨ ∃ kind plane src arg q, s.pulse failed p = (s.revive p).post kind plane src arg q) := by
  unfold State.watches State.pulse
  dsimp only
  cases s.ters[terP p].stopped with
  | true => exact .inr ⟨by simp, .inl rfl⟩
  | false =>
    cases s.phys[p].st.monitored with
    | true =>
      by_cases h : s.phys[p].monA < s.aclk ∧ s.ters[terP p].runA < s.aclk
      · refine .inl ⟨by simpa using h, ?_⟩
        rw [if_neg Bool.false_ne_true, if_pos rfl, if_pos (by simpa using h)]
      · refine .inr ⟨by simpa using h, .inl ?_⟩
        rw [if_neg Bool.false_ne_true, if_pos rfl, if_neg (by simpa using h)]
    | false =>
      refine .inr ⟨rfl, ?_⟩
      rw [if_neg Bool.false_ne_true, if_neg Bool.false_ne_true]
      split
      · exact .inr ⟨_, _, _, _, _, rfl⟩
      · exact .inl rfl

theorem Pulses.pulse (s : State) (failed : List Phys) (p : Phys) : Pulses s (s.pulse failed p) := by
  rcases s.pulse_cases failed p with ⟨-, h⟩ | ⟨-, h | ⟨_, _, _, _, _, h⟩⟩
  · rw [h]; exact .modP s p _ fun c => ⟨_, c.revived, rfl⟩
  · rw [h]; exact .refl s
  · rw [h]; exact (Pulses.revive s p).trans (.post _ _ _ _ _ _)

theorem State.revive_missed (s : State) (p r : Phys) : (s.revive p).phys[r].missed = s.phys[r].missed := by
  unfold State.revive
  rw [State.modT_phys, State.modP_phys]
  split
  next e => subst e; rfl
  · rfl

/-- A channel's pulse counts at that channel alone. -/
theorem State.pulse_missed (s : State) (failed : List Phys) (p r : Phys) :
    (s.pulse failed p).phys[r].missed = if p = r then s.missedNext failed p else s.phys[r].missed := by
  unfold State.missedNext
  rcases s.pulse_cases failed p with ⟨hc, h⟩ | ⟨hc, h | ⟨_, _, _, _, _, h⟩⟩
  · rw [h, hc, State.modP_phys]
    split <;> rfl
  · rw [h, hc, if_neg Bool.false_ne_true]
    split
    next e => rw [e]
    · rfl
  · rw [h, hc, if_neg Bool.false_ne_true, State.post_frame]
    refine (s.revive_missed p r).trans ?_
    split
    next e => rw [e]
    · rfl

/-- The pulses of a period. -/
def State.pulses (s : State) (failed : List Phys) (l : List Phys) : State := l.foldl (fun t p => t.pulse failed p) s

/-- The pulses of a period, with its aclk noted. -/
def State.pulsed (s : State) (failed : List Phys) : State := { (s.pulses failed (fins 136)) with lastLive := some s.aclk }

theorem Pulses.pulses (failed : List Phys) (l : List Phys) (s : State) : Pulses s (s.pulses failed l) := by
  unfold State.pulses
  induction l generalizing s with
  | nil => exact .refl s
  | cons p l ih => exact (Pulses.pulse s failed p).trans (ih _)

theorem State.pulsed_eq (s : State) (failed : List Phys) : ∃ w, Pulses s w ∧ s.pulsed failed = { w with lastLive := some s.aclk } :=
  ⟨_, .pulses failed (fins 136) s, rfl⟩

theorem State.pulses_missed (s : State) (failed : List Phys) (p : Phys) {l : List Phys} (hl : l.Nodup) (hp : p ∈ l) :
    (s.pulses failed l).phys[p].missed = s.missedNext failed p := by
  obtain ⟨w, hw, hv, hf⟩ := foldl_visit (fun (t : State) q => t.pulse failed q) (Pulses s) (fun t => t.phys[p].missed) p
    (fun t q ht => ht.trans (.pulse t failed q)) (fun t q _ hq => by rw [State.pulse_missed, if_neg hq]) l hl hp s (.refl s)
  refine hf.trans ?_
  rw [State.pulse_missed, if_pos rfl]
  exact hw.missedNext failed p hv

theorem State.pulsed_missed (s : State) (failed : List Phys) (p : Phys) : (s.pulsed failed).phys[p].missed = s.missedNext failed p := by
  have h := s.pulses_missed failed p (fins_nodup 136) (mem_fins p)
  unfold State.pulsed
  generalize s.pulses failed (fins 136) = w at h
  exact h

/-! ## The period -/

/-- The channels that the period declares dead (R510). -/
def State.dying (s : State) : List Phys := (fins 136).filter fun p => s.phys[p].st.monitored && s.phys[p].missed ≥ 3

theorem exec_livenessPeriod {s : State} {failed : List Phys} {h : Nat} (hon : s.on = true) (hh : s.hclk ≤ h) (hl : s.gate.locked = true) (ha : s.aclk % 16 = 0)
    (hn : s.lastLive ≠ some s.aclk) : exec (.livenessPeriod failed h) s = .next (((({ s with hclk := h } : State).settled h).pulsed failed).declareAll
      (((({ s with hclk := h } : State).settled h).pulsed failed).dying.map fun p => (p, 1))) := by
  have hb : (decide (s.aclk % 16 ≠ 0) || s.lastLive == some s.aclk || !s.gate.locked) = false := by simp [ha, hn, hl]
  change execLivenessPeriod failed h s = _
  unfold execLivenessPeriod
  rw [hb, if_neg Bool.false_ne_true, State.atH_on s h _ hon hh]
  rfl

theorem State.declareAll_nil (s : State) : s.declareAll [] = s := by
  unfold State.declareAll
  dsimp only
  have h : ((fins 128).filterMap fun n => ([] : List (Phys × Nat)).find? fun x => s.logOf x.1 == some n) = [] := List.filterMap_eq_nil_iff.mpr fun _ _ => rfl
  rw [h]
  rfl

/-- The one channel that is declared dead is declared for the logical channel that it serves. -/
theorem State.declareAll_one {s : State} {p : Phys} {n : Log} (hs : s.phys[p].st.serves = true) (hn : s.logOf p = some n) (cause : Nat) :
    s.declareAll [(p, cause)] = s.declareServing p n cause := by
  have hr : (s.phys[p].st == .reserve) = false := by
    cases h : s.phys[p].st with
    | reserve => rw [h] at hs; exact absurd hs Bool.false_ne_true
    | _ => rfl
  have h1 : ([(p, cause)].filter fun x => s.phys[x.1].st == .reserve) = [] := by rw [List.filter_cons, hr]; rfl
  have h2 : ∀ m : Log, ([(p, cause)].find? fun x => s.logOf x.1 == some m) = if m = n then some (p, cause) else none := fun m => by
    by_cases e : m = n
    · subst e; rw [List.find?_cons, hn]; simp
    · rw [List.find?_cons, hn, if_neg e]
      have : (some n == some m) = false := by simpa using Ne.symm e
      rw [this]
      rfl
  have h3 : ((fins 128).filterMap fun m => if m = n then some (p, cause) else none) = [(p, cause)] := by
    have : ∀ l : List Log, l.Nodup → (l.filterMap fun m => if m = n then some (p, cause) else none) = if n ∈ l then [(p, cause)] else [] := fun l hl => by
      induction l with
      | nil => rfl
      | cons m l ih =>
        obtain ⟨hm, hl⟩ := List.nodup_cons.mp hl
        by_cases e : m = n
        · subst e; simp [ih hl, hm]
        · simp [e, Ne.symm e, ih hl]
    rw [this _ (fins_nodup 128), if_pos (mem_fins n)]
  unfold State.declareAll
  dsimp only
  rw [h1, List.filterMap_congr (fun m _ => h2 m), h3]
  change s.declare p cause = _
  unfold State.declare
  dsimp only
  rw [hr, if_neg Bool.false_ne_true, if_pos hs, hn]

/-! ## A period under lock -/

/-- What has changed when a period's pulses are in: the staging paths up to `z`, the missed counts and the revivals. -/
structure Period (s z t : State) : Prop where
  map : t.map = s.map
  fence : t.fence = s.fence
  aclk : t.aclk = s.aclk
  lastLive : t.lastLive = some s.aclk
  lch : t.lch = z.lch
  retReq : ∀ n : Log, t.lch[n].retReq = s.lch[n].retReq
  chans : ∀ r : Phys, ∃ pend missed revived, t.phys[r] = { s.phys[r] with pend, missed, revived }
  ters : ∀ x : Ter, ∃ revivals, t.ters[x] = { s.ters[x] with revivals }

theorem Period.kept {α : Type} {s z t : State} (h : Period s z t) (f : PCh → α)
    (hf : ∀ (c : PCh) (pend : List Txn) (missed : Nat) (revived : Bool), f { c with pend, missed, revived } = f c) (r : Phys) : f t.phys[r] = f s.phys[r] := by
  obtain ⟨_, _, _, e⟩ := h.chans r
  rw [e, hf]

theorem Period.terKept {α : Type} {s z t : State} (h : Period s z t) (f : TerSt → α) (hf : ∀ (x : TerSt) (revivals : Nat), f { x with revivals } = f x) (x : Ter) :
    f t.ters[x] = f s.ters[x] := by
  obtain ⟨_, e⟩ := h.ters x
  rw [e, hf]

theorem Period.inc {s z t : State} (h : Period s z t) (n : Log) : t.inc n = s.inc n := by
  unfold State.inc
  rw [h.fence]

theorem Period.logOf {s z t : State} (h : Period s z t) (p : Phys) : t.logOf p = s.logOf p := by
  unfold State.logOf
  rw [h.map]

section
variable {s z : State} {failed : List Phys} {h : Nat} (hz : z = ({ s with hclk := h } : State).settled h)
include hz

theorem State.pulsed_period : Period s z (z.pulsed failed) := by
  have hs := State.settled_settles hz
  obtain ⟨w, hw, he⟩ := z.pulsed_eq failed
  have hl : w.lch = z.lch := by rw [hw.state]
  rw [he]
  refine ⟨?_, ?_, ?_, ?_, hl, fun n => ?_, fun r => ?_, fun x => ?_⟩
  · dsimp only; rw [hw.state, hs.state]
  · dsimp only; rw [hw.state, hs.state]
  · dsimp only; rw [hw.state, hs.state]
  · dsimp only; rw [hs.state]
  · dsimp only
    rw [hl]
    exact hs.lch_kept LCh.retReq (fun _ _ => rfl) n
  · obtain ⟨m, v, e⟩ := hw.chans r
    have e' := (hs.chans r).1
    exact ⟨_, m, v, by dsimp only; rw [e, e']⟩
  · obtain ⟨v, e⟩ := hw.ters x
    have e' : z.ters = s.ters := by rw [hs.state]
    exact ⟨v, by dsimp only; rw [e, e']⟩

theorem State.missedNext_settled (p : Phys) : z.missedNext failed p
    = if s.phys[p].st.monitored && !s.ters[terP p].stopped && decide (s.phys[p].monA < s.aclk ∧ s.ters[terP p].runA < s.aclk)
        then (if z.noPulse failed p then s.phys[p].missed + 1 else 0) else s.phys[p].missed := by
  have hs := State.settled_settles hz
  have h1 : z.phys[p].st = s.phys[p].st := hs.phys_kept PCh.st (fun _ _ => rfl) p
  have h2 : z.phys[p].monA = s.phys[p].monA := hs.phys_kept PCh.monA (fun _ _ => rfl) p
  have h3 : z.phys[p].missed = s.phys[p].missed := hs.phys_kept PCh.missed (fun _ _ => rfl) p
  have h4 : z.ters = s.ters := by rw [hs.state]
  have h5 : z.aclk = s.aclk := by rw [hs.state]
  unfold State.missedNext State.watches
  rw [h1, h2, h3, h4, h5]

/-- A channel with fewer than two misses stays below three. -/
theorem State.missedNext_le {p : Phys} (hm : s.phys[p].missed < 2) : z.missedNext failed p < 3 := by
  rw [State.missedNext_settled hz]
  split
  · split <;> omega
  · omega

/-- A watched channel with two misses and no pulse has three. -/
theorem State.missedNext_three {p : Phys} (hm : s.phys[p].missed = 2) (h1 : s.phys[p].monA < s.aclk) (h2 : s.ters[terP p].runA < s.aclk)
    (hst : s.phys[p].st.monitored = true) (hr : s.ters[terP p].stopped = false) (hn : z.noPulse failed p = true) : z.missedNext failed p = 3 := by
  have hw : (s.phys[p].st.monitored && !s.ters[terP p].stopped && decide (s.phys[p].monA < s.aclk ∧ s.ters[terP p].runA < s.aclk)) = true := by
    rw [hst, hr, decide_eq_true ⟨h1, h2⟩]
    rfl
  rw [State.missedNext_settled hz, if_pos hw, if_pos hn, hm]

/-- Without a third miss nothing is declared. -/
theorem State.dying_nil (hm : ∀ p : Phys, s.phys[p].missed < 2) : (z.pulsed failed).dying = [] := by
  unfold State.dying
  refine List.filter_eq_nil_iff.mpr fun p _ => ?_
  have := State.missedNext_le hz (failed := failed) (hm p)
  rw [State.pulsed_missed]
  simp only [Bool.and_eq_true, decide_eq_true_eq]
  omega

/-- The one channel with a third miss is declared. -/
theorem State.dying_one {p : Phys} (hp : z.missedNext failed p = 3) (hst : s.phys[p].st.monitored = true) (hm : ∀ r : Phys, r ≠ p → s.phys[r].missed < 2) :
    (z.pulsed failed).dying = [p] := by
  have hk : (z.pulsed failed).phys[p].st = s.phys[p].st := (State.pulsed_period hz).kept PCh.st (fun _ _ _ _ => rfl) p
  have he : ∀ r ∈ fins 136, ((z.pulsed failed).phys[r].st.monitored && decide ((z.pulsed failed).phys[r].missed ≥ 3)) = (r == p) := fun r _ => by
    by_cases hr : r = p
    · subst hr
      rw [hk, hst, State.pulsed_missed, hp]
      simp
    · have := State.missedNext_le hz (failed := failed) (hm r hr)
      rw [State.pulsed_missed, decide_eq_false (Nat.not_le.mpr this), Bool.and_false]
      exact (beq_eq_false_iff_ne.mpr hr).symm
  unfold State.dying
  rw [List.filter_congr he, List.filter_beq, List.count_eq_one_of_mem (fins_nodup 136) (mem_fins p)]
  rfl

end

/-! ## A third miss -/

theorem State.monitored_serves {s : State} {p : Phys} (h : s.phys[p].st.monitored = true) (hr : s.phys[p].st ≠ .reserve) : s.phys[p].st.serves = true := by
  cases hc : s.phys[p].st with
  | reserve => exact absurd hc hr
  | off => rw [hc] at h; exact absurd h Bool.false_ne_true
  | dormant => rfl
  | waking => rfl
  | active => rfl
  | draining => rfl
  | quarantined => rw [hc] at h; exact absurd h Bool.false_ne_true

section
variable {s z : State} {failed : List Phys} {h : Nat} (hon : s.on = true) (hh : s.hclk ≤ h) (hl : s.gate.locked = true) (ha : s.aclk % 16 = 0)
  (hn : s.lastLive ≠ some s.aclk) (hz : z = ({ s with hclk := h } : State).settled h)
include hon hh hl ha hn hz

theorem livenessPeriod_quiet (hm : ∀ p : Phys, s.phys[p].missed < 2) : exec (.livenessPeriod failed h) s = .next (z.pulsed failed) := by
  rw [exec_livenessPeriod hon hh hl ha hn, ← hz, State.dying_nil hz hm, List.map_nil, State.declareAll_nil]

theorem livenessPeriod_dies {p : Phys} {n : Log} (h2 : s.phys[p].missed = 2) (h3 : s.phys[p].monA < s.aclk) (h4 : s.ters[terP p].runA < s.aclk)
    (hst : s.phys[p].st.monitored = true) (hr : s.phys[p].st ≠ .reserve) (hs : s.ters[terP p].stopped = false) (hp : z.noPulse failed p = true)
    (hlog : s.logOf p = some n) (hm : ∀ r : Phys, r ≠ p → s.phys[r].missed < 2) :
    exec (.livenessPeriod failed h) s = .next ((z.pulsed failed).declareServing p n 1) := by
  have hP := State.pulsed_period (failed := failed) hz
  have hk : (z.pulsed failed).phys[p].st = s.phys[p].st := hP.kept PCh.st (fun _ _ _ _ => rfl) p
  rw [exec_livenessPeriod hon hh hl ha hn, ← hz, State.dying_one hz (State.missedNext_three hz h2 h3 h4 hst hs hp) hst hm]
  rw [List.map_singleton, State.declareAll_one (by rw [hk]; exact State.monitored_serves hst hr) ((hP.logOf p).trans hlog)]

end

/-! ## A RESET of the same aclk -/

/-- A RESET of this aclk that named `n` alone fails with TAKEOVER, and its incarnation does not stand (R49, R654). -/
theorem State.svcTaken_reset {s : State} {p : Phys} {n : Log} {x : PreRst} {c : SvcCmd} (hx : s.phys[p].preRst = some x) (hxa : x.at_ = s.aclk)
    (hc : s.ters[terL n].cmd = some c) (hop : c.op = 4) (hca : c.at_ = s.aclk) (hlogs : c.logs = [n.val]) (hr : s.lch[n].retReq = none) :
    ∃ w : State, s.svcTaken p n = w ∧ w.fence = s.fence.set n ((s.inc n + 15) % 16) ∧ w.ters[terL n].cmd = none ∧ w.ters[terL n].sfail = true ∧ w.ters[terL n].result = 4 := by
  have h1 : (s.lch[n].retReq.filter fun r => decide (r.at_ = s.aclk)) = none := by rw [hr]; rfl
  have h2 : (s.ters[terL n].cmd.filter fun c => decide (c.at_ = s.aclk)) = some c := by rw [hc]; simpa using hca
  have h3 : ((some c).filter fun c => c.logs.contains n.val) = some c := by simp [hlogs]
  have h4 : (s.phys[p].preRst.filter fun r => decide (r.at_ = s.aclk)) = some x := by rw [hx]; simpa using hxa
  have h5 : (s.unReset p n).fence = s.fence.set n ((s.inc n + 15) % 16) := by
    unfold State.unReset
    rw [h4]
    rfl
  refine ⟨_, rfl, ?_⟩
  unfold State.svcTaken
  extract_lets t y fail run
  have hrun : run = some c := h2
  rw [h1, hrun]
  dsimp only
  rw [h3]
  dsimp only
  rw [if_neg (by rw [hop]; decide), if_pos hop]
  have hf : ∀ (v : State) (cmd : Option SvcCmd) (done : Bool), (fail v cmd done).fence = v.fence
      ∧ (fail v cmd done).ters[t].cmd = cmd ∧ (fail v cmd done).ters[t].sfail = true ∧ (fail v cmd done).ters[t].result = 4 := fun v cmd done => by
    have ht := State.modT_ters v t t fun x => { x with cmd, sdone := done, sfail := true, result := 4 }
    rw [if_pos rfl] at ht
    unfold fail
    rw [State.post_frame]
    dsimp only
    rw [ht]
    exact ⟨rfl, rfl, rfl, rfl⟩
  obtain ⟨k1, k2⟩ := hf (s.unReset p n) none y.sdone
  exact ⟨k1.trans h5, k2⟩

theorem State.undone_of_taken {s w : State} {p : Phys} {n : Log} (h : s.svcTaken p n = w) : (s.undone p n).fence = w.fence ∧ (s.undone p n).ters = w.ters := by
  have hu := AtLog.unQctl n w
  obtain ⟨j, e⟩ := (w.unQctl n).rewriteJ_eq
  unfold State.undone
  rw [h, e]
  exact ⟨hu.fence, hu.ters⟩

/-! ## Errors that are reported -/

/-- Two updates of one channel are one. -/
theorem State.modP_modP (s : State) (p : Phys) (f g : PCh → PCh) : (s.modP p f).modP p g = s.modP p fun c => g (f c) := by
  simp [State.modP]

/-- A channel with a report of aclk `now` that the monitor declares in the next (R512). -/
def PCh.reported (c : PCh) (now cause : Nat) : PCh := if c.dieA.isSome || !(c.st.monitored || c.st == .dormant) then c else { c with dieA := some (now, cause) }

/-- A channel whose control state has an error (R511). -/
def PCh.ctlErr (c : PCh) (now : Nat) : PCh := PCh.reported { c with parity := true } now 2

theorem PCh.ctlErr_eq (c : PCh) (now : Nat) : ∃ dieA, c.ctlErr now = { c with parity := true, dieA }
    ∧ (c.dieA = none → (c.st.monitored || c.st == .dormant) = true → dieA = some (now, 2)) := by
  unfold PCh.ctlErr PCh.reported
  dsimp only
  by_cases h : (c.dieA.isSome || !(c.st.monitored || c.st == .dormant)) = true
  · rw [if_pos h]
    refine ⟨c.dieA, rfl, fun h1 h2 => ?_⟩
    rw [h1, h2] at h
    exact absurd h Bool.false_ne_true
  · rw [if_neg h]
    exact ⟨_, rfl, fun _ _ => rfl⟩

theorem State.ctlError_eq (s : State) (p : Phys) : s.ctlError p = s.modP p fun c => c.ctlErr s.aclk := by
  unfold State.ctlError State.report
  rw [State.modP_modP]
  rfl

/-- An error in control state is noted for the next aclk and changes nothing else (R511, R512). -/
theorem State.ctlError_notes (s : State) (p : Phys) : (s.ctlError p).phys[p].parity = true ∧ (s.ctlError p).phys[p].c = s.phys[p].c
    ∧ (s.phys[p].dieA = none → (s.phys[p].st.monitored || s.phys[p].st == .dormant) = true → (s.ctlError p).phys[p].dieA = some (s.aclk, 2))
    ∧ (s.ctlError p).phys[p].st = s.phys[p].st ∧ samePhys p s (s.ctlError p) ∧ s.ctlError p = { s with phys := (s.ctlError p).phys } := by
  obtain ⟨d, hd, hk⟩ := s.phys[p].ctlErr_eq s.aclk
  have hp : (s.ctlError p).phys[p] = s.phys[p].ctlErr s.aclk := by rw [State.ctlError_eq, State.modP_phys, if_pos rfl]
  rw [hp, hd]
  refine ⟨rfl, rfl, hk, rfl, fun r hr => ?_, ?_⟩
  · rw [State.ctlError_eq, State.modP_phys, if_neg (Ne.symm hr)]
  · rw [State.ctlError_eq]
    rfl

theorem exec_parityReport_control {s : State} (hon : s.on = true) (p : Phys) : exec (.parityReport (.control p)) s = .next (s.ctlError p) := by
  unfold State.on at hon
  change when (s.hrstN && s.vddCore) s (s.ctlError p) = _
  rw [hon]
  rfl

theorem exec_parityReport_cursor {s : State} (hon : s.on = true) (p : Phys) : exec (.parityReport (.cursor p)) s = .next ((s.parErr p 2 1).ctlError p) := by
  unfold State.on at hon
  change when (s.hrstN && s.vddCore) s ((s.parErr p 2 1).ctlError p) = _
  rw [hon]
  rfl

/-- An error in the cursor table counts in area 2 first (R331). -/
theorem State.parErr_notes (s : State) (p : Phys) : (s.parErr p 2 1).phys[p] = { s.phys[p] with c := { s.phys[p].c with parErr := satAdd 0xFFFF s.phys[p].c.parErr 1, lastArea := 2 } }
    ∧ samePhys p s (s.parErr p 2 1) ∧ s.parErr p 2 1 = { s with phys := (s.parErr p 2 1).phys } := by
  unfold State.parErr State.modC
  refine ⟨?_, fun r hr => ?_, rfl⟩
  · rw [State.modP_phys, if_pos rfl]
  · rw [State.modP_phys, if_neg (Ne.symm hr)]

theorem parityReport_channel (s : State) (p : Phys) (cursor : Bool) (hon : s.on = true) : ∃ t, exec (.parityReport (if cursor then .cursor p else .control p)) s = .next t
    ∧ t.phys[p].parity = true ∧ (cursor = true → t.phys[p].c.parErr = min 0xFFFF (s.phys[p].c.parErr + 1) ∧ t.phys[p].c.lastArea = 2)
    ∧ (cursor = false → t.phys[p].c = s.phys[p].c)
    ∧ (s.phys[p].dieA = none → (s.phys[p].st.monitored || s.phys[p].st == .dormant) = true → t.phys[p].dieA = some (s.aclk, 2))
    ∧ t.phys[p].st = s.phys[p].st ∧ samePhys p s t ∧ t = { s with phys := t.phys } := by
  cases cursor with
  | false =>
    obtain ⟨h1, h2, h3, h4, h5, h6⟩ := s.ctlError_notes p
    exact ⟨_, exec_parityReport_control hon p, h1, nofun, fun _ => h2, h3, h4, h5, h6⟩
  | true =>
    obtain ⟨k1, k2, k3⟩ := s.parErr_notes p
    obtain ⟨h1, h2, h3, h4, h5, h6⟩ := (s.parErr p 2 1).ctlError_notes p
    rw [k1] at h2 h3 h4
    refine ⟨_, exec_parityReport_cursor hon p, h1, fun _ => ?_, nofun, h3, h4, fun r hr => (h5 r hr).trans (k2 r hr), ?_⟩
    · rw [h2]
      exact ⟨rfl, rfl⟩
    · rw [h6, k3]

/-- An error that a journal entry shows outside a restore (R518). -/
theorem parityReport_journal (s : State) (n : Log) (hl : s.gate.locked = true) :
    (s.jbad[n] = none → ∃ w : State, exec (.parityReport (.journal n .uncorrectable)) s =
        .next { (w.post 0x14 0 n (leBytes 1 (terL n))) with jbad := s.jbad.set n (some s.lch[n]) }
      ∧ w.ters[terL n] = { s.ters[terL n] with jue := true, juec := min 0xFFFF (s.ters[terL n].juec + 1) }
      ∧ (∀ x : Ter, x ≠ terL n → w.ters[x] = s.ters[x]) ∧ w = { s with ters := w.ters })
    ∧ (s.jbad[n].isSome = true → exec (.parityReport (.journal n .uncorrectable)) s = .next s)
    ∧ (∀ k : Nat, ∃ t, exec (.parityReport (.journal n (.corrected k))) s = .next t
      ∧ t.ters[terL n] = { s.ters[terL n] with jecc := min 0xFFFF (s.ters[terL n].jecc + k) }
      ∧ (∀ x : Ter, x ≠ terL n → t.ters[x] = s.ters[x]) ∧ t = { s with ters := t.ters }) := by
  have he : ∀ j, exec (.parityReport (.journal n j)) s = .next (match j with
      | .uncorrectable => if s.jbad[n].isSome then s else { (s.journalErr n) with jbad := s.jbad.set n (some s.lch[n]) }
      | .clean | .corrected _ => s.journalOk (terL n) j) := fun j => by
    change execParityReport (.journal n j) s = _
    unfold execParityReport
    dsimp only
    rw [hl]
    rfl
  have hm : ∀ f : TerSt → TerSt, (s.modT (terL n) f).ters[terL n] = f s.ters[terL n] ∧ ∀ x : Ter, x ≠ terL n → (s.modT (terL n) f).ters[x] = s.ters[x] := fun f =>
    ⟨by rw [State.modT_ters, if_pos rfl], fun x hx => by rw [State.modT_ters, if_neg (Ne.symm hx)]⟩
  refine ⟨fun hb => ⟨s.modT (terL n) fun x => { x with jue := true, juec := satAdd 0xFFFF x.juec 1 }, ?_, (hm _).1, (hm _).2, rfl⟩, fun hb => ?_,
    fun k => ⟨s.modT (terL n) fun x => { x with jecc := satAdd 0xFFFF x.jecc k }, he _, (hm _).1, (hm _).2, rfl⟩⟩
  · rw [he]
    dsimp only
    rw [hb]
    rfl
  · rw [he]
    dsimp only
    rw [if_pos hb]

/-! ## The obligation -/

section
variable {s z t : State} {p : Phys} {n : Log} (hP : Period s z t)
include hP

/-- A serving channel that no command of the aclk named dies (R513 to R515). -/
theorem Period.dies (hc : (s.ters[terL n].cmd.any fun c => c.at_ == s.aclk) = false)
    (hr : (s.lch[n].retReq.any fun r => r.at_ == s.aclk) = false) :
    let x := s.ters[terP p]
    let later : Bool := x.tko.any fun k => !k.swap && k.at_ == s.aclk && decide (n < k.log)
    ∃ u, t.declareServing p n 1 = u ∧ u.phys[p].st = .quarantined ∧ u.phys[p].gate = false ∧ u.phys[p].pend = []
      ∧ u.inc n = (s.inc n + 1) % 16 ∧ (∀ m : Log, m ≠ n → u.inc m = s.inc m)
      ∧ (u.ters[terP p].lastPhys, u.ters[terP p].lastLog, u.ters[terP p].lastCause) = (p.val, n.val, 1) ∧ u.gate.dead.getLsbD (terP p).val = true
      ∧ (∀ r, x.reserve = some r → x.busy = false ∨ later = true → u.ters[terP p].busy = true
          ∧ (u.ters[terP p].tko.map fun k => (k.log, k.new, k.old)) = some (n, r, p.val)
          ∧ (x.busy = false → u.map = s.map) ∧ (∀ k, x.busy = true → x.tko = some k → u.map = s.map.set k.log none ∧ u.ters[terL k.log].noRes = true))
      ∧ (x.reserve = none ∨ x.busy = true ∧ later = false → u.map = s.map.set n none ∧ u.ters[terL n].noRes = true)
      ∧ (∀ r : Phys, r ≠ p → u.phys[r].st = s.phys[r].st) ∧ (x.reserve = none ∨ x.busy = false ∨ later = false → sameOthers n z u) := by
  have hc' : (t.ters[terL n].cmd.any fun c => c.at_ == t.aclk) = false := by
    have e : t.ters[terL n].cmd = s.ters[terL n].cmd := hP.terKept TerSt.cmd (fun _ _ => rfl) _
    rw [e, hP.aclk]; exact hc
  have hr' : (t.lch[n].retReq.any fun r => r.at_ == t.aclk) = false := by rw [hP.retReq, hP.aclk]; exact hr
  obtain ⟨v, hv, j, hw⟩ := State.undone_frame (p := p) hc' hr'
  generalize hwt : t.undone p n = w at hw
  have hters : w.ters = t.ters := by rw [hw]; exact hv.ters
  have hphys : w.phys = t.phys := by rw [hw]; exact hv.phys
  have hmap : w.map = s.map := by rw [hw]; exact hv.map.trans hP.map
  have haclk : w.aclk = s.aclk := by rw [hw, hv.state]; exact hP.aclk
  have hinc : ∀ m, w.inc m = s.inc m := fun m => by unfold State.inc; rw [hw, hv.fence, hP.fence]
  have hoth : sameOthers n z w := fun m hm => by rw [hw]; exact (hv.others m hm).trans (by rw [hP.lch])
  have e1 : w.ters[terP p].reserve = s.ters[terP p].reserve := by rw [hters]; exact hP.terKept TerSt.reserve (fun _ _ => rfl) _
  have e2 : w.ters[terP p].busy = s.ters[terP p].busy := by rw [hters]; exact hP.terKept TerSt.busy (fun _ _ => rfl) _
  have e3 : w.ters[terP p].tko = s.ters[terP p].tko := by rw [hters]; exact hP.terKept TerSt.tko (fun _ _ => rfl) _
  have e4 : later w.ters[terP p] n w.aclk = s.ters[terP p].tko.any fun k => !k.swap && k.at_ == s.aclk && decide (n < k.log) := by
    unfold later; rw [e3, haclk]
  obtain ⟨h1, h2, h3, h4⟩ := t.declareServing_phys p n 1
  obtain ⟨h5, h6⟩ := t.declareServing_note p n 1
  have hi := t.declareServing_inc p n 1
  rw [hwt] at hi h4
  extract_lets x lt
  have hfree : ∀ r, x.reserve = some r → x.busy = false → _ := fun r hr hb => State.declareServing_free (cause := 1) hwt.symm (e1.trans hr) (e2.trans hb)
  have hnone : x.reserve = none ∨ x.busy = true ∧ lt = false → _ := fun h =>
    State.declareServing_none (cause := 1) hwt.symm (h.imp e1.trans fun h => ⟨e2.trans h.1, e4.trans h.2⟩)
  refine ⟨_, rfl, h1, h2, h3, ?_, fun m hm => ?_, h5, h6, fun r hr hb => ?_, fun h => ?_, fun r hr => ?_, fun h => ?_⟩
  · rw [hi, if_pos rfl, hinc]
  · rw [hi, if_neg (Ne.symm hm), hinc]
  · cases hx : x.busy with
    | false =>
      obtain ⟨k1, k2, k3, -⟩ := hfree r hr hx
      exact ⟨k1, k2, fun _ => k3.trans hmap, nofun⟩
    | true =>
      have hl := hb.resolve_left (by rw [hx]; exact Bool.noConfusion)
      obtain ⟨k1, k2, k3⟩ := State.declareServing_later (cause := 1) hwt.symm (e1.trans hr) (e2.trans hx) (e4.trans hl)
      exact ⟨k1, k2, nofun, fun k _ hk => by rw [← hmap]; exact k3 k (e3.trans hk)⟩
  · obtain ⟨k1, k2, -⟩ := hnone h
    exact ⟨by rw [k1, hmap], k2⟩
  · rw [h4 r hr, hphys]
    exact hP.kept PCh.st (fun _ _ _ _ => rfl) r
  · have hto : sameOthers n w (t.declareServing p n 1) := by
      cases hx : x.reserve with
      | none => exact (hnone (.inl hx)).2.2
      | some r =>
        cases hb : x.busy with
        | false => exact (hfree r hx hb).2.2.2
        | true =>
          rw [hx, hb] at h
          exact (hnone (.inr ⟨hb, (h.resolve_left nofun).resolve_left nofun⟩)).2.2
    exact fun m hm => (hto m hm).trans (hoth m hm)

/-- A RESET of the aclk neither hides the third miss nor stands (R49, R654). -/
theorem Period.resetDies {x : PreRst} {c : SvcCmd} (hx : s.phys[p].preRst = some x) (hxa : x.at_ = s.aclk) (hc : s.ters[terL n].cmd = some c) (hop : c.op = 4)
    (hca : c.at_ = s.aclk) (hlogs : c.logs = [n.val]) (hr : s.lch[n].retReq = none) :
    ∃ u, t.declareServing p n 1 = u ∧ u.phys[p].st = .quarantined ∧ u.inc n = s.inc n % 16
      ∧ u.ters[terL n].cmd = none ∧ u.ters[terL n].sfail = true ∧ u.ters[terL n].result = 4 := by
  have k1 : t.phys[p].preRst = some x := (hP.kept PCh.preRst (fun _ _ _ _ => rfl) p).trans hx
  have k2 : t.ters[terL n].cmd = some c := (hP.terKept TerSt.cmd (fun _ _ => rfl) _).trans hc
  obtain ⟨w, hw, hf, ht1, ht2, ht3⟩ := State.svcTaken_reset k1 (hxa.trans hP.aclk.symm) k2 hop (hca.trans hP.aclk.symm) hlogs ((hP.retReq n).trans hr)
  obtain ⟨hs1, hs2⟩ := State.undone_of_taken hw
  have hcmd : (t.undone p n).ters[terL n].cmd = none := by rw [hs2]; exact ht1
  obtain ⟨h1, h2, h3⟩ := t.declareServing_idle p n 1 (terL n) hcmd
  have hinc : (t.undone p n).inc n = (s.inc n + 15) % 16 := by
    unfold State.inc
    rw [hs1, hf, hP.inc]
    exact Vector.getElem_set_self ..
  refine ⟨_, rfl, (t.declareServing_phys p n 1).1, ?_, h1, ?_, ?_⟩
  · rw [State.declareServing_inc, if_pos rfl, hinc]
    omega
  · rw [h2, hs2]; exact ht2
  · rw [h3, hs2]; exact ht3

end

/-- Settles O56: the pulses change only missed counts, and the one channel whose count reaches three is declared. -/
theorem missedPulsesQuarantine : Obligations.MissedPulsesQuarantine := by
  unfold Obligations.MissedPulsesQuarantine
  refine ⟨fun s failed h hon hh hl ha hn z hz => ?_, parityReport_channel, parityReport_journal⟩
  have hP := State.pulsed_period (failed := failed) hz
  refine ⟨fun hm => ?_, fun p n h2 h3 h4 hst hr hs hp hlog hm hc hret => ?_, fun p n x c hx hxa h2 hst h3 h4 hs hp hlog hm hc hop hca hlogs hret => ?_⟩
  · refine ⟨_, livenessPeriod_quiet hon hh hl ha hn hz hm, hP.lastLive, hP.map, hP.fence, hP.lch, fun p => ⟨?_, ?_, ?_⟩⟩
    · exact hP.kept PCh.st (fun _ _ _ _ => rfl) p
    · exact hP.kept PCh.gate (fun _ _ _ _ => rfl) p
    · rw [State.pulsed_missed, State.missedNext_settled hz]
  · rw [livenessPeriod_dies hon hh hl ha hn hz h2 h3 h4 hst hr hs hp hlog hm]
    obtain ⟨u, hu, k⟩ := hP.dies (p := p) hc hret
    rw [hu]
    exact ⟨u, rfl, k⟩
  · rw [livenessPeriod_dies hon hh hl ha hn hz h2 h3 h4 (by rw [hst]; rfl) (by rw [hst]; exact CS.noConfusion) hs hp hlog hm]
    obtain ⟨u, hu, k⟩ := hP.resetDies hx hxa hc hop hca hlogs hret
    rw [hu]
    exact ⟨u, rfl, k⟩

end Sys2Proof.Machine
end

section
/-! SUPPORT. The frame of a command of the link, and what a packet or pulse finds at a linked port (R92, R95, R622). -/

namespace Sys2Proof.Machine

variable {n : Log} {q : Qn} {p : Phys} {s t u : State}

/-! ## The frame of a command at a port -/

/-- What a command at the port of `n` on channel `p` may change; `p` keeps its state. -/
structure OnPort (n : Log) (p : Phys) (s t : State) : Prop where
  control : sameControl s t
  others : sameOthers n s t
  chans : samePhys p s t
  state : t.phys[p].st = s.phys[p].st
  sent : s.linkOut <+: t.linkOut

/-- What a command at queue `q` of `n` on channel `p` may change. -/
structure OnQueue (n : Log) (q : Qn) (p : Phys) (s t : State) : Prop extends OnPort n p s t where
  siblings : sameSiblings n q s t

theorem sameControl.trans (h : sameControl s t) (k : sameControl t u) : sameControl s u := by
  unfold sameControl at *
  rw [k, h]

theorem sameSiblings.refl (n : Log) (q : Qn) (s : State) : sameSiblings n q s s := ⟨fun _ _ => rfl, rfl, rfl⟩

theorem OnPort.refl (n : Log) (p : Phys) (s : State) : OnPort n p s s := ⟨rfl, fun _ _ => rfl, fun _ _ => rfl, rfl, List.prefix_rfl⟩

theorem OnPort.trans (h : OnPort n p s t) (k : OnPort n p t u) : OnPort n p s u :=
  ⟨h.control.trans k.control, fun m hm => (k.others m hm).trans (h.others m hm), fun r hr => (k.chans r hr).trans (h.chans r hr), k.state.trans h.state,
    h.sent.trans k.sent⟩

theorem OnQueue.refl (n : Log) (q : Qn) (p : Phys) (s : State) : OnQueue n q p s s := ⟨.refl n p s, .refl n q s⟩

theorem OnQueue.trans (h : OnQueue n q p s t) (k : OnQueue n q p t u) : OnQueue n q p s u := ⟨h.toOnPort.trans k.toOnPort, h.siblings.trans k.siblings⟩

/-- The frame in the terms of the statements. -/
theorem OnQueue.frame (h : OnQueue n q p s t) : channelFrame n q p s t := ⟨h.control, h.others, h.siblings, h.chans, h.sent⟩

/-- The frame keeps which channel runs. -/
theorem OnPort.runP (h : OnPort n p s t) (m : Log) : t.runP m = s.runP m := by
  have hm : t.map = s.map := by rw [h.control]
  have hr : ∀ r : Phys, t.phys[r].st = s.phys[r].st := fun r => by
    by_cases e : r = p
    · rw [e]; exact h.state
    · rw [h.chans r e]
  simp only [State.runP, hm]
  congr 1
  funext r
  rw [hr]

theorem OnPort.tap (h : OnPort n p s t) : t.tap = s.tap := by rw [h.control]
theorem OnPort.aclk (h : OnPort n p s t) : t.aclk = s.aclk := by rw [h.control]

theorem OnPort.modL (n : Log) (p : Phys) (s : State) (f : LCh → LCh) : OnPort n p s (s.modL n f) :=
  ⟨rfl, (AtLog.modL n s f).others, fun _ _ => rfl, rfl, List.prefix_rfl⟩

theorem OnQueue.modL (q : Qn) (p : Phys) (s : State) {f : LCh → LCh} (hq : ∀ l, (f l).qs = l.qs) (hp : ∀ l, (f l).port = l.port) (hi : ∀ l, (f l).ins = l.ins) :
    OnQueue n q p s (s.modL n f) :=
  ⟨.modL n p s f, fun r _ => s.modL_que_kept n f hq n r, by rw [State.modL_lch, if_pos rfl, hp], by rw [State.modL_lch, if_pos rfl, hi]⟩

theorem OnQueue.modQ (n : Log) (q : Qn) (p : Phys) (s : State) (f : Que → Que) : OnQueue n q p s (s.modQ n q f) :=
  ⟨.modL n p s _, (sameSiblings.refl n q s).modQ f⟩

theorem OnQueue.modA (n : Log) (q : Qn) (p : Phys) (s : State) (id : Nat) (f : Acc → Acc) : OnQueue n q p s (s.modA n q id f) := .modQ n q p s _

theorem OnQueue.modP (n : Log) (q : Qn) (s : State) {f : PCh → PCh} (hf : ∀ c, (f c).st = c.st) : OnQueue n q p s (s.modP p f) :=
  ⟨⟨rfl, fun _ _ => rfl, fun r hr => by rw [State.modP_phys, if_neg (Ne.symm hr)], by rw [State.modP_phys, if_pos rfl, hf], List.prefix_rfl⟩, .refl n q _⟩

theorem OnQueue.modC (n : Log) (q : Qn) (p : Phys) (s : State) (f : CCnt → CCnt) : OnQueue n q p s (s.modC p f) := .modP n q s fun _ => rfl

theorem OnQueue.linkErr (n : Log) (q : Qn) (p : Phys) (s : State) (k c : Nat) : OnQueue n q p s (s.linkErr n p k c) :=
  ⟨⟨rfl, fun _ _ => rfl, fun r hr => s.linkErr_others n p r k c hr, by rw [State.linkErr_phys], List.prefix_rfl⟩, .refl n q _⟩

theorem OnQueue.nextId (n : Log) (q : Qn) (p : Phys) (s : State) (k : Nat) : OnQueue n q p s { s with nextId := k } :=
  ⟨⟨rfl, fun _ _ => rfl, fun _ _ => rfl, rfl, List.prefix_rfl⟩, .refl n q _⟩

theorem OnQueue.sun (n : Log) (q : Qn) (p : Phys) (s : State) (x : Sun) : OnQueue n q p s { s with sun := x } :=
  ⟨⟨rfl, fun _ _ => rfl, fun _ _ => rfl, rfl, List.prefix_rfl⟩, .refl n q _⟩

/-- The data path's frame, on the running channel. -/
theorem FlowFrame.onQueue (h : FlowFrame n q s t) (hp : s.runP n = some p) : OnQueue n q p s t := by
  obtain ⟨hc, ho, hs, hl⟩ := h.channel
  refine ⟨⟨hc, ho, fun r hr => h.still r fun e => hr ?_, by rw [h.phys p], hl⟩, hs⟩
  rw [hp] at e
  exact (Option.some.inj e).symm

theorem OnQueue.flow (s : State) (hp : s.runP n = some p) (q : Qn) : OnQueue n q p s (s.flow n q) := (FlowFrame.flow n q s).onQueue hp
theorem OnQueue.linkWait (s : State) (hp : s.runP n = some p) (q : Qn) : OnQueue n q p s (s.linkWait n q) := (FlowFrame.linkWait n q s).onQueue hp
theorem OnQueue.creditOut (s : State) (hp : s.runP n = some p) (q : Qn) : OnQueue n q p s (s.creditOut n q) := (FlowFrame.creditOut n q s).onQueue hp

theorem OnQueue.send (n : Log) (q : Qn) (p : Phys) (s : State) (k : Pkt) : OnQueue n q p s (s.send n k) := by
  obtain ⟨hc, ho, hs, hl⟩ := (FlowFrame.send n q s k).channel
  exact ⟨⟨hc, ho, fun _ _ => by rw [State.send_phys], by rw [State.send_phys], hl⟩, hs⟩

/-! ## What a packet or pulse finds -/

/-- The state that a packet or pulse at a linked port finds: its channel is kept from sleeping, and all else is as it was. -/
structure Met (n : Log) (p : Phys) (s z : State) : Prop where
  state : z = { s with phys := z.phys }
  page : ∃ quiet stirA, z.phys[p] = { s.phys[p] with quiet, stirA }
  chans : samePhys p s z
  run : z.runP n = some p
  pins : z.tap.drives = false

section
variable {z : State} (h : Met n p s z)
include h

theorem Met.lch : z.lch = s.lch := by rw [h.state]
theorem Met.que (m : Log) (r : Qn) : z.que m r = s.que m r := State.que_congr h.lch m r
theorem Met.aclk : z.aclk = s.aclk := by rw [h.state]
theorem Met.linkOut : z.linkOut = s.linkOut := by rw [h.state]
theorem Met.linkIvl : z.linkIvl = s.linkIvl := by rw [h.state]
theorem Met.nextId : z.nextId = s.nextId := by rw [h.state]
theorem Met.sun : z.sun = s.sun := by rw [h.state]
theorem Met.c : z.phys[p].c = s.phys[p].c := by obtain ⟨_, _, e⟩ := h.page; rw [e]
theorem Met.pend : z.phys[p].pend = s.phys[p].pend := by obtain ⟨_, _, e⟩ := h.page; rw [e]

theorem Met.onQueue (q : Qn) : OnQueue n q p s z := by
  have hl : z.lch[n] = s.lch[n] := by rw [h.lch]
  refine ⟨⟨by unfold sameControl; rw [h.state], fun m _ => by rw [h.lch], h.chans, ?_, by rw [h.linkOut]⟩, fun r _ => h.que n r, by rw [hl], by rw [hl]⟩
  obtain ⟨_, _, e⟩ := h.page
  rw [e]

end

/-- A demand at a live channel leaves what a packet finds. -/
theorem Met.demand (h : s.linked n p = true) : Met n p s (s.demand p) := by
  simp only [State.linked, Bool.and_eq_true, Bool.not_eq_true'] at h
  obtain ⟨⟨hl, _⟩, ht⟩ := h
  obtain ⟨_, _, hr, he⟩ := (s.live_iff n p).mp hl
  obtain ⟨k, a, hd⟩ := s.demand_live n p hl
  have hq : OnQueue n 0 p s (s.demand p) := by rw [hd]; exact .modP n 0 s fun _ => rfl
  refine ⟨by rw [hd]; rfl, ⟨k, a, ?_⟩, hq.chans, (hq.runP n).trans hr, by rw [hq.tap, ht]⟩
  rw [hd, State.modP_phys, if_pos rfl, ← he]

/-- A packet of any length at a linked port reaches its channel. -/
theorem State.inbound_flits (f : Phys → State → State) (k : Nat) (h : s.linked n p = true) : s.inbound n f k = f p (s.demand p) := by
  have h1 := s.inbound_linked n p f h
  simp only [State.linked, Bool.and_eq_true, Bool.not_eq_true'] at h
  obtain ⟨⟨hl, hg⟩, _⟩ := h
  obtain ⟨_, _, hr, he⟩ := (s.live_iff n p).mp hl
  have hs : s.samples p = true := by
    obtain ⟨_, hst⟩ := (s.runP_iff n p).mp hr
    simp only [State.samples, he]
    rcases hst with hst | hst <;> simp only [hst] <;> rfl
  rw [← h1]
  unfold State.inbound
  rw [s.runP_servP n p hr]
  simp only [hs, if_true]

end Sys2Proof.Machine
end

section
/-! SUPPORT. CREDIT, RESUME, WAKE READY and STATUS ASLEEP (R61, R64, R84, R96, R97). -/

namespace Sys2Proof.Machine

variable {n : Log} {q : Qn} {p : Phys} {s t u : State}

/-! ## The waits for flit credit -/

/-- A queue's look at its wait for flit credit moves the notes of one descriptor at most (R65). -/
theorem State.linkWait_eq (s : State) (n : Log) (q : Qn) :
    s.linkWait n q = s ∨ ∃ id f, (∀ a, sameAcc a (f a)) ∧ s.linkWait n q = s.modA n q id f := by
  unfold State.linkWait
  dsimp only
  split
  · exact .inl rfl
  · split
    · split
      · exact .inl rfl
      · refine .inr ⟨_, _, ?_, rfl⟩
        exact fun a => ⟨rfl, .inl rfl, rfl, rfl, rfl, rfl, rfl, rfl, rfl⟩
    · split
      · exact .inl rfl
      · refine .inr ⟨_, _, ?_, rfl⟩
        exact fun a => ⟨rfl, .inl rfl, rfl, rfl, rfl, rfl, rfl, rfl, rfl⟩

/-- What a look at the waits for flit credit leaves: it moves notes of the descriptors of `n` alone. -/
structure Looked (n : Log) (s t : State) : Prop where
  state : t = { s with lch := t.lch }
  others : sameOthers n s t
  chan : t.lch[n] = { s.lch[n] with qs := t.lch[n].qs }
  queue : ∀ r : Qn, ∃ acc, sameAccs (s.que n r).acc acc ∧ t.que n r = { s.que n r with acc }

theorem Looked.refl (n : Log) (s : State) : Looked n s s := ⟨rfl, fun _ _ => rfl, rfl, fun _ => ⟨_, .refl _, rfl⟩⟩

theorem Looked.trans (h : Looked n s t) (k : Looked n t u) : Looked n s u := by
  refine ⟨by rw [k.state, h.state], fun m hm => (k.others m hm).trans (h.others m hm), by rw [k.chan, h.chan], fun r => ?_⟩
  obtain ⟨a, ha, e⟩ := h.queue r
  obtain ⟨b, hb, e'⟩ := k.queue r
  rw [e] at hb e'
  exact ⟨b, ha.trans hb, e'⟩

theorem Looked.modA (n : Log) (q : Qn) (s : State) (id : Nat) {f : Acc → Acc} (hf : ∀ a, sameAcc a (f a)) : Looked n s (s.modA n q id f) where
  state := rfl
  others := (AtLog.modQ n q s _).others
  chan := by simp only [State.modA, State.modQ, State.modL_lch, if_pos]; rfl
  queue r := by
    by_cases e : q = r
    · subst e
      exact ⟨_, .updFirst hf _, s.modA_que n q id f⟩
    · exact ⟨_, .refl _, s.modQ_que_ne n e _⟩

theorem Looked.linkWait (n : Log) (q : Qn) (s : State) : Looked n s (s.linkWait n q) := by
  rcases s.linkWait_eq n q with h | ⟨id, f, hf, h⟩
  · rw [h]; exact .refl n s
  · rw [h]; exact .modA n q s id hf

theorem Looked.foldl {α : Type} (f : State → α → State) (hf : ∀ s a, Looked n s (f s a)) (l : List α) (s : State) : Looked n s (l.foldl f s) := by
  induction l generalizing s with
  | nil => exact .refl n s
  | cons a l ih => exact (hf s a).trans (ih _)

theorem Looked.linkWaits (n : Log) (s : State) : Looked n s (s.linkWaits n) := .foldl _ (fun s q => .linkWait n q s) _ s

theorem Looked.phys (h : Looked n s t) : t.phys = s.phys := by rw [h.state]
theorem Looked.linkOut (h : Looked n s t) : t.linkOut = s.linkOut := by rw [h.state]

/-! ## CREDIT -/

/-- A credit that would pass 65,535 is a link error of kind 9 (R64). -/
def State.creditHigh (z : State) (n : Log) (p : Phys) (q : Qn) (k : Nat) : State :=
  if (z.que n q).flitCr + k > 65535 then (z.linkErr n p 9).modC p fun c => { c with creditOvf := true } else z

/-- The queue after a credit of `k` flits (R61). -/
def State.credited (z : State) (n : Log) (p : Phys) (q : Qn) (k : Nat) : State :=
  (z.creditHigh n p q k).modQ n q fun u => { u with flitCr := satAdd 65535 u.flitCr k }

theorem exec_creditIn (h : s.linked n p = true) (q : Qn) (inc : BitVec 16) :
    ∃ z, Met n p s z ∧ exec (.creditIn n q inc) s = .next ((z.credited n p q inc.toNat).linkWait n q) :=
  ⟨s.demand p, .demand h, congrArg Host.Outcome.next (s.inbound_linked n p _ h)⟩

theorem State.creditHigh_lch (z : State) (k : Nat) : (z.creditHigh n p q k).lch = z.lch := by
  unfold State.creditHigh
  split <;> rfl

theorem State.creditHigh_linkOut (z : State) (k : Nat) : (z.creditHigh n p q k).linkOut = z.linkOut := by
  unfold State.creditHigh
  split <;> rfl

theorem OnQueue.creditHigh (z : State) (k : Nat) : OnQueue n q p z (z.creditHigh n p q k) := by
  unfold State.creditHigh
  split
  · exact (OnQueue.linkErr n q p z 9 1).trans (.modC n q p _ _)
  · exact .refl n q p z

theorem State.credited_que (z : State) (k : Nat) : (z.credited n p q k).que n q = { z.que n q with flitCr := satAdd 65535 (z.que n q).flitCr k } := by
  unfold State.credited
  rw [State.modQ_que, State.que_congr (z.creditHigh_lch k)]

end Sys2Proof.Machine
end

section
namespace Sys2Proof.Machine

/-- Settles O33: the credit is one update of its queue, and what looks at it afterwards moves notes of descriptors alone (`Looked.linkWait`). -/
theorem creditSaturates : Obligations.CreditSaturates := by
  intro s n p q inc hs
  obtain ⟨z, hz, he⟩ := exec_creditIn hs q inc
  have hf : OnQueue n q p z (z.credited n p q inc.toNat) := (OnQueue.creditHigh z _).trans (.modQ n q p _ _)
  have hq := z.credited_que (n := n) (p := p) (q := q) inc.toNat
  have hw := Looked.linkWait n q (z.credited n p q inc.toNat)
  obtain ⟨acc, ha, hu⟩ := hw.queue q
  have hlink : (z.credited n p q inc.toNat).linkOut = s.linkOut := (z.creditHigh_linkOut _).trans hz.linkOut
  rw [hq, hz.que] at ha hu
  refine ⟨_, he, by rw [hu]; rfl, fun hi => ?_, fun hi => ?_, by rw [hu], by rw [hu]; exact ha.ids, hw.linkOut.trans hlink, ?_⟩
  · have hp : (z.credited n p q inc.toNat).phys = ((z.linkErr n p 9).modC p fun c => { c with creditOvf := true }).phys := by
      unfold State.credited State.creditHigh
      rw [if_pos (by rw [hz.que]; exact hi)]
      rfl
    rw [hw.phys, hp, State.modC, State.modP_phys, if_pos rfl, State.linkErr_phys, hz.c]
    exact ⟨rfl, rfl, rfl⟩
  · have hp : (z.credited n p q inc.toNat).phys = z.phys := by
      unfold State.credited State.creditHigh
      rw [if_neg (by rw [hz.que]; omega)]
      rfl
    rw [hw.phys, hp, hz.c]
  · exact (((hz.onQueue q).trans hf).trans (.linkWait _ ((hf.runP n).trans hz.run) q)).frame

end Sys2Proof.Machine
end

section
/-! SUPPORT. An inbound RESUME (R84, R135, R491 to R493). -/

namespace Sys2Proof.Machine

variable {n : Log} {q : Qn} {p : Phys} {s t : State}

/-! ## The retry position -/

theorem mem_insertAfter (ok : Acc → Bool) (r : Acc) (l : List Acc) : r ∈ insertAfter ok r l := by
  induction l with
  | nil => exact List.mem_singleton_self r
  | cons a l ih =>
    unfold insertAfter
    split
    · exact List.mem_cons_of_mem a ih
    · exact List.mem_cons_self

theorem length_insertAfter (ok : Acc → Bool) (r : Acc) (l : List Acc) : (insertAfter ok r l).length = l.length + 1 := by
  induction l with
  | nil => rfl
  | cons a l ih =>
    unfold insertAfter
    split
    · rw [List.length_cons, ih, List.length_cons]
    · rw [List.length_cons]

/-- Bytes that came again run in their entry's place, or the entry retires unrun (R492, R493). -/
theorem Acc.rerun_cases (old new : Acc) : old.rerun new = { old with notRun := true, have_ := true } ∨ old.rerun new = new := by
  unfold Acc.rerun
  split
  · exact .inl rfl
  · exact .inr rfl

/-- What a halt's retry position is (R491 to R493). -/
def Acc.retries (a : Acc) (h : Halt) (id : Nat) (run : Bool) : Prop :=
  a.id = id ∧ a.seq = h.seq ∧ a.retry = true ∧ a.stage = .accepted ∧ (h.held = none → a.notRun = !run) ∧ (a.notRun = false → run = true)

theorem Acc.rerun_retries {old new : Acc} {h : Halt} {id : Nat} {run : Bool} (hh : h.held.isSome = true) (ho : old.retries h id run) (hn : new.retries h id run) :
    (old.rerun new).retries h id run := by
  rcases old.rerun_cases new with e | e
  · obtain ⟨oid, oseq, oret, ost, _, _⟩ := ho
    rw [e]
    exact ⟨oid, oseq, oret, ost, fun k => by simp [k] at hh, nofun⟩
  · rw [e]; exact hn

/-- The retry position stands under its identity and SEQ, and runs only under a RETRY. -/
theorem Halt.acc_retries (h : Halt) (id : Nat) (run : Bool) (dg : Nat) : (h.acc id run dg).retries h id run := by
  unfold Halt.acc
  dsimp only
  cases hh : h.held with
  | none => exact ⟨rfl, rfl, rfl, rfl, fun _ => rfl, by cases run <;> simp⟩
  | some a =>
    cases run with
    | false => exact ⟨rfl, rfl, rfl, rfl, fun _ => rfl, fun e => by simp at e⟩
    | true =>
      dsimp only
      rw [if_pos rfl]
      exact Acc.rerun_retries (by rw [hh]; rfl) ⟨rfl, rfl, rfl, rfl, fun _ => rfl, fun _ => rfl⟩ ⟨rfl, rfl, rfl, rfl, fun _ => rfl, fun _ => rfl⟩

/-! ## A release -/

theorem Que.freeWords_eq (u : Que) (k : Nat) : ∃ owed, u.freeWords k = { u with owed } := by
  unfold Que.freeWords
  split
  · exact ⟨_, rfl⟩
  · exact ⟨_, rfl⟩

theorem Que.freedTo_eq (u v : Que) : ∃ linkR owed, u.freedTo v = { v with linkR, owed } := by
  obtain ⟨owed, h⟩ := ({ v with linkR := v.linkR + (u.occ - v.occ) } : Que).freeWords_eq (u.occ - v.occ)
  exact ⟨_, owed, h⟩

theorem Que.trigger_eq (u : Que) (dg : Nat) : ∃ prd, u.trigger dg = { u with prd } := by
  unfold Que.trigger
  split
  · exact ⟨_, rfl⟩
  · split
    · exact ⟨_, rfl⟩
    · split <;> exact ⟨_, rfl⟩

theorem Que.activate_eq (u : Que) (dg : Nat) : ∃ prd, u.activate dg = { u with st := .active, enp := false, enDg := 0, fltDet := false, found := [], prd } :=
  Que.trigger_eq _ dg

/-- A release puts a descriptor that is the retry position into its queue, which is ACTIVE (R84, R491, R492). -/
theorem State.release_que {h : Halt} (hh : (s.que n q).halt = some h) (run : Bool) (dg pdg : Nat) :
    ((s.release n q run dg pdg).que n q).st = .active ∧ ((s.release n q run dg pdg).que n q).acc.length = (s.que n q).acc.length + 1
      ∧ ((s.release n q run dg pdg).que n q).lastAcc = (s.que n q).lastAcc ∧ ((s.release n q run dg pdg).que n q).recs = (s.que n q).recs
      ∧ ∃ anchor deadline anchored, { h.acc s.nextId (run && !h.noRetry) (max h.dg dg) with anchor, deadline, anchored } ∈ ((s.release n q run dg pdg).que n q).acc := by
  have e : s.release n q run dg pdg = { (s.modQ n q fun u => ((u.freedTo { u with
      acc := insertRetry (h.acc s.nextId (run && !h.noRetry) (max h.dg dg)) u.acc, halt := some { h with released := true, held := none } }).reanchor).activate pdg) with
      nextId := s.nextId + 1 } := by
    unfold State.release
    rw [hh]
  generalize h.acc s.nextId (run && !h.noRetry) (max h.dg dg) = r at e ⊢
  have hq : (s.release n q run dg pdg).que n q = (((s.que n q).freedTo { s.que n q with
      acc := insertRetry r (s.que n q).acc, halt := some { h with released := true, held := none } }).reanchor).activate pdg := by
    rw [e]
    exact s.modQ_que n q _
  obtain ⟨linkR, owed, hf⟩ := (s.que n q).freedTo_eq { s.que n q with acc := insertRetry r (s.que n q).acc, halt := some { h with released := true, held := none } }
  rw [hf] at hq
  obtain ⟨prd, ha⟩ := Que.activate_eq (Que.reanchor { s.que n q with
    acc := insertRetry r (s.que n q).acc, halt := some { h with released := true, held := none }, linkR, owed }) pdg
  rw [ha] at hq
  rw [hq]
  refine ⟨rfl, ?_, rfl, rfl, ?_⟩
  · simp only [Que.reanchor, List.length_map, insertRetry, length_insertAfter]
  · have hm := mem_insertAfter Acc.begun r (s.que n q).acc
    simp only [Que.reanchor, List.mem_map]
    by_cases hc : (!r.begun && decide ((s.que n q).cfg.res > 0) && r.runs) = true
    · exact ⟨_, _, _, r, hm, by rw [if_pos hc]⟩
    · exact ⟨_, _, _, r, hm, by rw [if_neg hc]⟩

theorem OnQueue.release (p : Phys) (s : State) (run : Bool) (dg pdg : Nat) : OnQueue n q p s (s.release n q run dg pdg) := by
  unfold State.release
  split
  · exact (OnQueue.modQ n q p s _).trans (.nextId n q p _ _)
  · exact .modQ n q p s _

/-! ## The command -/

/-- A RESUME that names the halted descriptor. -/
def Que.halts (u : Que) (seq : Nat) : Bool := u.st == .halted && u.halt.any fun h => h.seq = seq

theorem exec_resumeIn_now (h : s.linked n p = true) (ha : (s.lch[n].ins.toList.any fun i => i.doneA == some s.aclk) = false) (q : Qn) (seq : BitVec 16) (mode : RMode) :
    ∃ z, Met n p s z ∧ exec (.resumeIn n q seq mode) s
      = .next (if (s.que n q).halts seq.toNat then (z.release n q (mode == .retry) 0 0).flow n q else z.linkErr n p 10) := by
  refine ⟨s.demand p, .demand h, (congrArg Host.Outcome.next (s.inbound_linked n p _ h)).trans ?_⟩
  have hz := Met.demand h
  generalize s.demand p = z at hz ⊢
  rw [hz.lch, hz.aclk, ha]
  simp only [Bool.false_eq_true, if_false, State.resumed, hz.que]
  rfl

theorem exec_resumeIn_later (h : s.linked n p = true) (ha : (s.lch[n].ins.toList.any fun i => i.doneA == some s.aclk) = true) (q : Qn) (seq : BitVec 16) (mode : RMode) :
    ∃ z, Met n p s z ∧ exec (.resumeIn n q seq mode) s = .next (z.modL n fun l => { l with resPend := l.resPend ++ [(q, seq.toNat, mode)] }) := by
  refine ⟨s.demand p, .demand h, (congrArg Host.Outcome.next (s.inbound_linked n p _ h)).trans ?_⟩
  have hz := Met.demand h
  generalize s.demand p = z at hz ⊢
  rw [hz.lch, hz.aclk, if_pos ha]

/-- A RESUME that names no halted descriptor is none of its queue's. -/
theorem Que.halts_false {u : Que} {seq : Nat} (h : u.st ≠ .halted ∨ ∀ x, u.halt = some x → x.seq ≠ seq) : u.halts seq = false := by
  unfold Que.halts
  rcases h with h | h
  · simp [h]
  · cases hh : u.halt with
    | none => simp
    | some x => simp [h x hh]

end Sys2Proof.Machine
end

section
namespace Sys2Proof.Machine

/-- Settles O34: a release by `State.release_que` and `Halt.acc_retries`, whose descriptor the data path keeps in its place; otherwise a link error, or a note for the next aclk. -/
theorem resumeReleasesTheNamedHalt : Obligations.ResumeReleasesTheNamedHalt := by
  intro s n p q seq mode hs
  refine ⟨fun h ha hst hh hseq => ?_, fun ha hne => ?_, fun ha => ?_⟩
  · obtain ⟨z, hz, he⟩ := exec_resumeIn_now hs ha q seq mode
    have hn : (s.que n q).halts seq.toNat = true := by simp [Que.halts, hst, hh, hseq]
    rw [if_pos hn] at he
    obtain ⟨rst, rlen, rla, rrecs, an, dl, st, rmem⟩ := State.release_que (s := z) (by rw [hz.que, hh]) (mode == .retry) 0 0
    have hf : OnQueue n q p z (z.release n q (mode == .retry) 0 0) := .release p z _ 0 0
    obtain ⟨fq, fa⟩ := (FlowFrame.flow n q (z.release n q (mode == .retry) 0 0)).queue
    rw [hz.que] at rlen rla rrecs
    rw [hz.nextId] at rmem
    obtain ⟨b, hb, hab⟩ := fa.mem rmem
    obtain ⟨aid, aseq, aret, astage, anot, arun⟩ := h.acc_retries s.nextId (mode == .retry && !h.noRetry) (max h.dg 0)
    have hbn : b.notRun = (h.acc s.nextId (mode == .retry && !h.noRetry) (max h.dg 0)).notRun := by rw [hab.1]
    unfold sameQueue at fq
    refine ⟨_, he, by rw [fq, rst], ⟨b, hb, by rw [hab.1]; exact aid, by rw [hab.1]; exact aseq.trans hseq, by rw [hab.1]; exact aret, by rw [hab.1]; exact astage,
      fun hheld => hbn.trans (anot hheld), fun hrun => ?_⟩, fa.length.trans rlen, by rw [fq, rla], by rw [fq, rrecs],
      (((hz.onQueue q).trans hf).trans (.flow _ ((hf.runP n).trans hz.run) q)).frame⟩
    have hr := arun (hbn.symm.trans hrun)
    simpa using hr
  · obtain ⟨z, hz, he⟩ := exec_resumeIn_now hs ha q seq mode
    rw [Que.halts_false hne, if_neg Bool.false_ne_true] at he
    refine ⟨_, he, hz.lch, hz.linkOut, ?_, ((hz.onQueue q).trans (.linkErr n q p z 10 1)).frame⟩
    rw [State.linkErr_phys, hz.c]
  · obtain ⟨z, hz, he⟩ := exec_resumeIn_later hs ha q seq mode
    have hf : OnQueue n q p z _ := .modL q p z (f := fun l => { l with resPend := l.resPend ++ [(q, seq.toNat, mode)] }) (fun _ => rfl) (fun _ => rfl) fun _ => rfl
    refine ⟨_, he, ?_, hz.c, hz.linkOut, ((hz.onQueue q).trans hf).frame⟩
    rw [State.modL_lch, if_pos rfl, hz.lch]

end Sys2Proof.Machine
end

section
/-! SUPPORT. WAKE READY and STATUS ASLEEP (R96, R97). -/

namespace Sys2Proof.Machine

variable {n : Log} {q : Qn} {p : Phys} {s t : State}

/-- The descriptors that waited too long for their consumer note it (R422). -/
def State.noteLate (z : State) (n : Log) (late : Bool) (held : Qn → Option Nat) : State :=
  if late then (fins 4).foldl (fun s q => match held q with
    | some id => s.modA n q id fun a => { a with consumer := true }
    | none => s) z else z

/-- The consumer is awake (R96). -/
def LCh.awake (l : LCh) : LCh := { l with asleep := false, asleepPend := false, wakeReq := none }

theorem exec_wakeReady (h : s.linked n p = true) : ∃ z, Met n p s z
    ∧ ∃ late held, exec (.wakeReady n) s = .next (((z.noteLate n late held).modL n LCh.awake).linkWaits n) :=
  ⟨s.demand p, .demand h, _, _, congrArg Host.Outcome.next (s.inbound_linked n p _ h)⟩

theorem exec_statusAsleep (h : s.linked n p = true) : ∃ z, Met n p s z
    ∧ exec (.statusAsleep n) s = .next (z.modL n fun l => if l.msg.isSome then { l with asleepPend := true } else { l with asleep := true }) :=
  ⟨s.demand p, .demand h, congrArg Host.Outcome.next (s.inbound_linked n p _ h)⟩

/-- What leaves everything but notes of descriptors of `n` as it was. -/
structure Noted (n : Log) (s t : State) : Prop where
  state : t = { s with lch := t.lch }
  others : sameOthers n s t
  chan : sameButQueues s.lch[n] t.lch[n]
  queue : ∀ r : Qn, ∃ acc : List Acc, acc.map Acc.id = (s.que n r).acc.map Acc.id ∧ t.que n r = { s.que n r with acc }

theorem Noted.refl (n : Log) (s : State) : Noted n s s := ⟨rfl, fun _ _ => rfl, rfl, fun _ => ⟨_, rfl, rfl⟩⟩

theorem Noted.trans {u : State} (h : Noted n s t) (k : Noted n t u) : Noted n s u := by
  refine ⟨by rw [k.state, h.state], fun m hm => (k.others m hm).trans (h.others m hm), h.chan.trans k.chan, fun r => ?_⟩
  obtain ⟨a, ha, e⟩ := h.queue r
  obtain ⟨b, hb, e'⟩ := k.queue r
  rw [e] at hb e'
  exact ⟨b, hb.trans ha, e'⟩

theorem Looked.noted (h : Looked n s t) : Noted n s t :=
  ⟨h.state, h.others, h.chan, fun r => by obtain ⟨a, ha, e⟩ := h.queue r; exact ⟨a, ha.ids, e⟩⟩

theorem Noted.modA (n : Log) (q : Qn) (s : State) (id : Nat) {f : Acc → Acc} (hf : ∀ a, (f a).id = a.id) : Noted n s (s.modA n q id f) where
  state := rfl
  others := (AtLog.modQ n q s _).others
  chan := s.modQ_sameButQueues n q _
  queue r := by
    by_cases e : q = r
    · subst e
      exact ⟨_, updFirst_ids _ f hf _, s.modA_que n q id f⟩
    · exact ⟨_, rfl, s.modQ_que_ne n e _⟩

theorem Noted.foldl {α : Type} (f : State → α → State) (hf : ∀ s a, Noted n s (f s a)) (l : List α) (s : State) : Noted n s (l.foldl f s) := by
  induction l generalizing s with
  | nil => exact .refl n s
  | cons a l ih => exact (hf s a).trans (ih _)

theorem Noted.noteLate (n : Log) (z : State) (late : Bool) (held : Qn → Option Nat) : Noted n z (z.noteLate n late held) := by
  unfold State.noteLate
  split
  · refine .foldl _ (fun w q => ?_) _ z
    split
    · refine .modA n q w _ ?_
      exact fun _ => rfl
    · exact .refl n w
  · exact .refl n z

end Sys2Proof.Machine
end

section
namespace Sys2Proof.Machine

/-- Settles O35: STATUS ASLEEP is one update of the port; around that of WAKE READY, notes of descriptors change alone (`Noted`). -/
theorem consumerSleepsAndWakes : Obligations.ConsumerSleepsAndWakes := by
  intro s n p hs
  constructor
  · obtain ⟨z, hz, he⟩ := exec_statusAsleep hs
    have hl : (z.modL n fun l => if l.msg.isSome then { l with asleepPend := true } else { l with asleep := true }).lch[n]
        = if s.lch[n].msg.isSome then { s.lch[n] with asleepPend := true } else { s.lch[n] with asleep := true } := by
      rw [State.modL_lch, if_pos rfl, hz.lch]
    have hf := hz.onQueue 0
    refine ⟨_, he, fun hm => ?_, fun hm => ?_, fun m hm => ?_, hf.chans, ?_, hz.linkOut⟩
    · rw [hl, hm]; rfl
    · rw [hm, if_pos rfl] at hl
      refine ⟨hl, ?_⟩
      unfold State.msgEnd
      rw [State.modL_lch, if_pos rfl, hl]
      exact ⟨Bool.or_true _, rfl⟩
    · rw [(AtLog.modL n z _).others m hm, hz.lch]
    · exact hf.control.trans rfl
  · obtain ⟨z, hz, late, held, he⟩ := exec_wakeReady hs
    have hn := Noted.noteLate n z late held
    have hw := (Looked.linkWaits n ((z.noteLate n late held).modL n LCh.awake)).noted
    generalize hv : (((z.noteLate n late held).modL n LCh.awake).linkWaits n) = v at he hw
    have hl : sameButQueues (z.noteLate n late held).lch[n].awake v.lch[n] := by
      have h := hw.chan
      rwa [State.modL_lch, if_pos rfl] at h
    have hm : (z.noteLate n late held).lch[n].msg = s.lch[n].msg := by rw [hn.chan, hz.lch]
    unfold sameButQueues at hl
    have hf := hz.onQueue 0
    refine ⟨v, he, by rw [hl]; rfl, by rw [hl]; rfl, by rw [hl]; rfl, by rw [hl]; exact hm, fun q => ?_, fun m hne => ?_, fun r hr => ?_, ?_, ?_⟩
    · obtain ⟨a, ha, e⟩ := hn.queue q
      obtain ⟨b, hb, e'⟩ := hw.queue q
      rw [State.modL_que_kept _ n LCh.awake (fun _ => rfl), e, hz.que] at hb e'
      rw [hz.que] at ha
      rw [e']
      exact ⟨rfl, rfl, hb.trans ha⟩
    · rw [hw.others m hne, (AtLog.modL n _ _).others m hne, hn.others m hne, hz.lch]
    · rw [hw.state, State.modL_phys, hn.state, hf.chans r hr]
    · refine hf.control.trans ?_
      unfold sameControl
      rw [hw.state, State.modL, hn.state]
    · rw [hw.state, State.modL_linkOut, hn.state, hz.linkOut]

end Sys2Proof.Machine
end

section
/-! SUPPORT. A LAST where it applies, and an inbound packet that is gone (R95, R101 to R103, R105, R106, R323). -/

namespace Sys2Proof.Machine

variable {n : Log} {q : Qn} {p : Phys} {s t : State}

/-! ## A LAST -/

theorem LCh.queueLast_eq (l : LCh) : l.queueLast = { l with reqs := if l.reqs.getLast? = some 0 then l.reqs else l.reqs ++ [0] } := by
  unfold LCh.queueLast
  by_cases h : l.reqs.getLast? = some 0
  · rw [if_pos (beq_iff_eq.mpr h), if_pos h]
  · rw [if_neg (fun e => h (beq_iff_eq.mp e)), if_neg h]

/-- A LAST that waits with the requests before it. -/
theorem State.queueLast_eq (s : State) (n : Log) : ∃ f : LCh → List Nat, s.queueLast n = s.modL n fun l => { l with reqs := f l } := by
  refine ⟨fun l => if l.reqs.isEmpty then l.reqs else if l.reqs.getLast? = some 0 then l.reqs else l.reqs ++ [0], ?_⟩
  unfold State.queueLast
  congr 1
  funext l
  rw [LCh.queueLast_eq]
  by_cases h : l.reqs.isEmpty = true
  · simp only [h, if_true]
  · simp only [h, Bool.false_eq_true, if_false]

/-- What a LAST can do: nothing, an entry among the requests, or an end of input or output that the data path takes (R101 to R103). -/
theorem State.applyLast_cases (s : State) (n : Log) : s.applyLast n = s ∨ (∃ f : LCh → List Nat, s.applyLast n = s.modL n fun l => { l with reqs := f l })
    ∨ ∃ q f, s.applyLast n = (s.modQ n q f).flow n q := by
  unfold State.applyLast
  dsimp only
  split
  · exact .inl rfl
  · next q _ =>
    split
    · exact .inr (.inl (s.queueLast_eq n))
    · split
      · split
        · exact .inr (.inr ⟨q, _, rfl⟩)
        · exact .inl rfl
      · split
        · exact .inr (.inl (s.queueLast_eq n))
        · split
          · split
            · exact .inr (.inr ⟨q, _, rfl⟩)
            · exact .inr (.inl (s.queueLast_eq n))
          · refine .inr (.inl ⟨fun l => if l.reqs.getLast? = some 0 then l.reqs else l.reqs ++ [0], ?_⟩)
            congr 1
            funext l
            rw [LCh.queueLast_eq]

/-- What a LAST leaves alone. -/
theorem State.applyLast_frame (hp : s.runP n = some p) : OnPort n p s (s.applyLast n) ∧ (s.applyLast n).phys[p].c = s.phys[p].c
    ∧ (s.applyLast n).linkIvl = s.linkIvl ∧ (s.applyLast n).lch[n].lastPend = s.lch[n].lastPend := by
  rcases s.applyLast_cases n with h | ⟨f, h⟩ | ⟨q, f, h⟩
  · rw [h]
    exact ⟨.refl n p s, rfl, rfl, rfl⟩
  · rw [h, State.modL_lch, if_pos rfl]
    exact ⟨.modL n p s _, rfl, rfl, rfl⟩
  · have hq := OnQueue.modQ n q p s f
    have hf := FlowFrame.flow n q (s.modQ n q f)
    rw [h]
    refine ⟨(hq.trans (hf.onQueue ((hq.runP n).trans hp))).toOnPort, by rw [hf.phys p]; rfl, by rw [hf.state]; rfl, ?_⟩
    rw [hf.chan, (s.modQ_sameButQueues n q f : (s.modQ n q f).lch[n] = _)]

/-! ## A packet that is gone -/

/-- The port without the inbound packet that was open (R323). -/
def LCh.packetGone (l : LCh) : LCh := { l with lastPend := false, qs := mapV l.qs fun _ u => { u with dropPkt := false } }

theorem State.packetGone_que (s : State) (n : Log) (q : Qn) : (s.modL n LCh.packetGone).que n q = { s.que n q with dropPkt := false } := by
  unfold State.que
  rw [State.modL_lch, if_pos rfl]
  simp only [LCh.packetGone, Fin.getElem_fin, mapV_get]

theorem State.packetGone_at_once (h : s.lch[n].lastPend = false) : s.packetGone n = s.modL n LCh.packetGone := by
  unfold State.packetGone State.lastWas
  rw [h]
  rfl

theorem State.packetGone_frame (hp : s.runP n = some p) : OnPort n p s (s.packetGone n) ∧ (s.packetGone n).phys[p].c = s.phys[p].c
    ∧ (s.packetGone n).linkIvl = s.linkIvl ∧ (s.packetGone n).lch[n].lastPend = false := by
  have hl : (s.modL n LCh.packetGone).lch[n].lastPend = false := by rw [State.modL_lch, if_pos rfl]; rfl
  have hm := OnPort.modL n p s LCh.packetGone
  obtain ⟨h1, h2, h3, h4⟩ := State.applyLast_frame (s := s.modL n LCh.packetGone) ((hm.runP n).trans hp)
  have e : s.packetGone n = if s.lch[n].lastPend then (s.modL n LCh.packetGone).applyLast n else s.modL n LCh.packetGone := rfl
  rw [e]
  split
  · exact ⟨hm.trans h1, h2, h3, h4.trans hl⟩
  · exact ⟨hm, rfl, rfl, hl⟩

/-! ## NAKs -/

theorem State.send_pins (s : State) (n : Log) (k : Pkt) (h : s.tap.drives = false) : (s.send n k).linkOut = s.linkOut ++ [(n, k)] := by
  rw [State.send_linkOut, h, if_neg Bool.false_ne_true]

theorem State.send_que (s : State) (n m : Log) (k : Pkt) (q : Qn) : (s.send m k).que n q = s.que n q := State.que_congr (s.send_lch m k) n q

theorem OnQueue.nak (n : Log) (q : Qn) (p : Phys) (s : State) (seq reason after : Nat) : OnQueue n q p s (s.nak n q seq reason after) :=
  (OnQueue.modQ n q p s _).trans (.send n q p _ _)

theorem State.nak_que (s : State) (n : Log) (q : Qn) (seq reason after : Nat) : (s.nak n q seq reason after).que n q = { s.que n q with discard := some seq } := by
  unfold State.nak
  rw [State.send_que, State.modQ_que]

theorem State.nak_linkOut (s : State) (n : Log) (q : Qn) (seq reason after : Nat) (h : s.tap.drives = false) : (s.nak n q seq reason after).linkOut
    = s.linkOut ++ [(n, .nak q seq reason (min after 65535) (((s.que n q).lastAcc + 1) % 65536))] := State.send_pins _ n _ h

theorem State.nak_phys (s : State) (n : Log) (q : Qn) (seq reason after : Nat) : (s.nak n q seq reason after).phys = s.phys := State.send_phys _ n _

theorem State.nak_lastPend (s : State) (n : Log) (q : Qn) (seq reason after : Nat) : (s.nak n q seq reason after).lch[n].lastPend = s.lch[n].lastPend := by
  unfold State.nak
  rw [State.send_lch, (s.modQ_sameButQueues n q _ : (s.modQ n q _).lch[n] = _)]

theorem State.nak_linkIvl (s : State) (n : Log) (q : Qn) (seq reason after : Nat) : (s.nak n q seq reason after).linkIvl = s.linkIvl := State.send_linkIvl _ n _

/-- The answer to a CMD that was cut: none, or a NAK (R705). -/
theorem State.nakCut_cases (s : State) (n : Log) (cut : Option CutCmd) : s.nakCut n cut = s
    ∨ ∃ x, cut = some x ∧ s.nakCut n cut = s.nak n x.queue x.seq.toNat (if x.par then 3 else 4) 0 := by
  unfold State.nakCut
  split
  · next x =>
    split
    · exact .inl rfl
    · exact .inr ⟨x, rfl, rfl⟩
  · exact .inl rfl

theorem State.nakCut_frame (s : State) (n : Log) (p : Phys) (cut : Option CutCmd) : OnPort n p s (s.nakCut n cut) ∧ (s.nakCut n cut).phys = s.phys
    ∧ (s.nakCut n cut).linkIvl = s.linkIvl ∧ (s.nakCut n cut).lch[n].lastPend = s.lch[n].lastPend := by
  rcases s.nakCut_cases n cut with h | ⟨x, _, h⟩
  · rw [h]
    exact ⟨.refl n p s, rfl, rfl, rfl⟩
  · rw [h]
    exact ⟨(OnQueue.nak n x.queue p s _ _ _).toOnPort, s.nak_phys n _ _ _ _, s.nak_linkIvl n _ _ _ _, s.nak_lastPend n _ _ _ _⟩

/-! ## The commands -/

theorem exec_linkError (h : s.linked n p = true) (k : LErr) (cut : Option CutCmd) (hk : k ≠ .asleep) : ∃ z, Met n p s z
    ∧ exec (.linkError n k cut) s = .next (if k = .sopInside then ((z.linkErr n p (lkindOf k)).packetGone n).nakCut n cut else (z.linkErr n p (lkindOf k)).packetGone n) := by
  refine ⟨s.demand p, .demand h, (congrArg Host.Outcome.next (s.inbound_linked n p _ h)).trans ?_⟩
  rw [if_neg hk]

theorem exec_linkWdPacketCut (h : s.linked n p = true) (cut : Option CutCmd) : ∃ z, Met n p s z
    ∧ exec (.linkWdPacketCut n cut) s = .next ((((z.linkErr n p 12).wdCut p).packetGone n).nakCut n cut) :=
  ⟨s.demand p, .demand h, congrArg Host.Outcome.next (s.inbound_linked n p _ h)⟩

/-- A flit at a sleeping channel is a link error of kind 11 (R95). -/
theorem exec_linkError_asleep (hon : s.on = true) (ht : s.tap.drives = false) (hm : s.map[n] = some p) (hst : s.phys[p].st = .dormant) (hg : s.phys[p].gate = true)
    (k : LErr) (cut : Option CutCmd) : exec (.linkError n k cut) s = .next (s.linkErr n p 11) := by
  simp only [State.on, Bool.and_eq_true] at hon
  obtain ⟨h1, h2⟩ := hon
  have hs : s.servP n = some p := State.servP_eq hm (by rw [hst]; rfl)
  have hn : s.samples p = false := by simp only [State.samples, hst]; rfl
  refine congrArg Host.Outcome.next (a₁ := s.inbound n _) ?_
  unfold State.inbound
  rw [hs]
  simp only [h1, h2, ht, hg, hn]
  rfl

/-- One error of the port: what counts it has left all else of the port's queues and packets alone. -/
structure Erred (n : Log) (p : Phys) (s w : State) (kind : Nat) : Prop where
  frame : OnPort n p s w
  run : w.runP n = some p
  pins : w.tap.drives = false
  lch : w.lch = s.lch
  linkOut : w.linkOut = s.linkOut
  errs : w.phys[p].c.lerrs = min 0xFFFF (s.phys[p].c.lerrs + 1)
  kind : w.phys[p].c.lkind = kind
  opens : s.linkIvl[n] = none → w.linkIvl[n] = some { at_ := s.aclk, count := 1, a := 0, b := 0, c := 0, d := 0 }

theorem State.linkErr_opens (s : State) (n : Log) (p : Phys) (k : Nat) (h : s.linkIvl[n] = none) :
    (s.linkErr n p k).linkIvl[n] = some { at_ := s.aclk, count := 1, a := 0, b := 0, c := 0, d := 0 } := by
  simp only [State.linkErr, State.modC, State.modP_linkIvl, h]
  exact Vector.getElem_set_self ..

theorem Erred.linkErr {z : State} (hz : Met n p s z) (k : Nat) : Erred n p s (z.linkErr n p k) k := by
  have hf := (hz.onQueue 0).trans (.linkErr n 0 p z k 1)
  have hc := z.linkErr_phys n p k 1
  refine ⟨hf.toOnPort, ((OnQueue.linkErr n 0 p z k 1).runP n).trans hz.run, hz.pins, hz.lch, hz.linkOut, by rw [hc, hz.c], by rw [hc], fun h => ?_⟩
  rw [State.linkErr_opens z n p k (by rw [hz.linkIvl]; exact h), hz.aclk]

theorem Erred.wdCut {w : State} {k : Nat} (h : Erred n p s w k) : Erred n p s (w.wdCut p) k ∧ (w.wdCut p).phys[p].c.wdCut = true := by
  have hf := OnQueue.modC n 0 p w fun c => { c with wdCut := true }
  have hc : (w.wdCut p).phys[p] = { w.phys[p] with c := { w.phys[p].c with wdCut := true } } := by
    unfold State.wdCut State.modC
    rw [State.modP_phys, if_pos rfl]
  exact ⟨⟨h.frame.trans hf.toOnPort, (hf.runP n).trans h.run, h.pins, h.lch, h.linkOut, by rw [hc]; exact h.errs, by rw [hc]; exact h.kind, h.opens⟩, by rw [hc]⟩

section
variable {w : State} {kind : Nat} (h : Erred n p s w kind) (cut : Option CutCmd)
include h

/-- What an error of a packet that is gone counts, and what it leaves alone. -/
theorem Erred.counted : OnPort n p s ((w.packetGone n).nakCut n cut) ∧ ((w.packetGone n).nakCut n cut).phys[p].c = w.phys[p].c
    ∧ ((w.packetGone n).nakCut n cut).linkIvl = w.linkIvl ∧ ((w.packetGone n).nakCut n cut).lch[n].lastPend = false := by
  obtain ⟨gf, gc, gi, gl⟩ := State.packetGone_frame h.run
  obtain ⟨nf, np, ni, nl⟩ := State.nakCut_frame (w.packetGone n) n p cut
  exact ⟨(h.frame.trans gf).trans nf, by rw [np, gc], ni.trans gi, nl.trans gl⟩

/-- A CMD that was cut is answered (R105, R705). -/
theorem Erred.answers (hl : s.lch[n].lastPend = false) {x : CutCmd} (hx : cut = some x) (hd : (s.que n x.queue).drops x.seq.toNat = false) :
    ((w.packetGone n).nakCut n cut).linkOut = s.linkOut ++ [(n, .nak x.queue x.seq.toNat (if x.par then 3 else 4) 0 (((s.que n x.queue).lastAcc + 1) % 65536))]
      ∧ (((w.packetGone n).nakCut n cut).que n x.queue).discard = some x.seq.toNat ∧ (((w.packetGone n).nakCut n cut).que n x.queue).acc = (s.que n x.queue).acc := by
  have hw : w.lch[n].lastPend = false := by rw [h.lch]; exact hl
  have hq : (w.packetGone n).que n x.queue = { s.que n x.queue with dropPkt := false } := by
    rw [State.packetGone_at_once hw, State.packetGone_que, State.que_congr h.lch]
  have hc : (w.packetGone n).nakCut n cut = (w.packetGone n).nak n x.queue x.seq.toNat (if x.par then 3 else 4) 0 := by
    rw [hx, State.nakCut, hq]
    exact if_neg (by rw [show Que.drops { s.que n x.queue with dropPkt := false } x.seq.toNat = (s.que n x.queue).drops x.seq.toNat from rfl, hd]; exact Bool.false_ne_true)
  rw [hc, State.nak_que, hq, State.nak_linkOut _ _ _ _ _ _ (by rw [State.packetGone_at_once hw]; exact h.pins), hq, State.packetGone_at_once hw, State.modL_linkOut, h.linkOut]
  exact ⟨rfl, rfl, rfl⟩

/-- Without a CMD that was cut only what waited for the packet goes on (R323). -/
theorem Erred.silent (hl : s.lch[n].lastPend = false) : (∀ q : Qn, (w.packetGone n).que n q = { s.que n q with dropPkt := false }) ∧ (w.packetGone n).linkOut = s.linkOut := by
  rw [State.packetGone_at_once (by rw [h.lch]; exact hl)]
  exact ⟨fun q => by rw [State.packetGone_que, State.que_congr h.lch], h.linkOut⟩

end

end Sys2Proof.Machine
end

section
namespace Sys2Proof.Machine

/-- A cut packet's error, by either of its commands: its kind and the state in which it has been counted. -/
theorem exec_packetCut {s : State} {n : Log} {p : Phys} {k : LErr} {cut : Option CutCmd} {c : Instr} (hs : s.linked n p = true)
    (hc : c = .linkWdPacketCut n cut ∨ (c = .linkError n k cut ∧ k = .sopInside)) : ∃ w, Erred n p s w (if c = .linkWdPacketCut n cut then 12 else 6)
      ∧ (c = .linkWdPacketCut n cut → w.phys[p].c.wdCut = true) ∧ exec c s = .next ((w.packetGone n).nakCut n cut) := by
  rcases hc with rfl | ⟨rfl, rfl⟩
  · obtain ⟨z, hz, he⟩ := exec_linkWdPacketCut hs cut
    obtain ⟨hw, hf⟩ := (Erred.linkErr hz 12).wdCut
    rw [if_pos rfl]
    exact ⟨_, hw, fun _ => hf, he⟩
  · obtain ⟨z, hz, he⟩ := exec_linkError hs .sopInside cut nofun
    rw [if_neg (by nofun)]
    exact ⟨_, Erred.linkErr hz 6, nofun, he⟩

/-- The kinds of the errors that come with no CMD that was cut (R676). -/
theorem lkindOf_listed {k : LErr} (ha : k ≠ .asleep) (hs : k ≠ .sopInside) :
    [(LErr.header, 1), (LErr.psnHeader, 2), (LErr.format, 5), (LErr.noPacket, 7), (LErr.badType, 8)].contains (k, lkindOf k) = true := by
  cases k with
  | header | psnHeader | format | noPacket | badType => rfl
  | asleep => contradiction
  | sopInside => contradiction

/-- Settles O38: the error is counted once (`Erred`), and what follows it counts none (`Erred.counted`); a sleeping channel counts kind 11. -/
theorem linkErrorsAreCounted : Obligations.LinkErrorsAreCounted := by
  refine ⟨fun s n p k cut c hs hc => ?_, fun s n p k cut hs hk hk' hl => ?_, fun s n p k cut hon ht hm hst hg => ?_⟩
  · obtain ⟨w, hw, hwd, he⟩ := exec_packetCut hs hc
    obtain ⟨hf, hcc, hi, hl⟩ := hw.counted cut
    refine ⟨_, he, by rw [hcc, hw.errs], by rw [hcc, hw.kind], fun e => by rw [hcc]; exact hwd e, fun e => by rw [hi]; exact hw.opens e,
      fun e x hx hd => hw.answers cut e hx hd, fun e hx => ?_, hl, hf.others, hf.chans, hf.control⟩
    subst hx
    exact hw.silent e
  · obtain ⟨z, hz, he⟩ := exec_linkError hs k cut hk
    rw [if_neg hk'] at he
    have hw := Erred.linkErr hz (lkindOf k)
    obtain ⟨hf, hcc, _, _⟩ := State.packetGone_frame hw.run
    obtain ⟨hq, ho⟩ := hw.silent hl
    have hall := hw.frame.trans hf
    have hkind := hcc ▸ hw.kind
    refine ⟨_, he, hq, hall.others, ho, ?_, ?_, hall.chans, hall.control⟩
    · rw [hkind, hcc, State.linkErr_phys, hz.c]
    · rw [hkind]
      exact lkindOf_listed hk hk'
  · refine ⟨_, exec_linkError_asleep hon ht hm hst hg k cut, rfl, rfl, State.linkErr_phys s n p 11 1, ?_⟩
    exact (OnQueue.linkErr n 0 p s 11 1).control

end Sys2Proof.Machine
end

section
/-! SUPPORT. SINGLE, BURST and LAST at a linked port (R99 to R103, R114). -/

namespace Sys2Proof.Machine

variable {n : Log} {q : Qn} {p : Phys} {s t : State}

/-! ## Requests -/

theorem exec_request (h : s.linked n p = true) {c : Instr} {bytes : Nat} (hc : (c = .single n ∧ bytes = 64) ∨ (c = .burst n ∧ bytes = s.lch[n].port.burst)) :
    ∃ z, Met n p s z ∧ exec c s = .next (z.request n p bytes) := by
  refine ⟨s.demand p, .demand h, ?_⟩
  rcases hc with ⟨rfl, rfl⟩ | ⟨rfl, rfl⟩
  · exact congrArg Host.Outcome.next (s.onPulse_linked n p _ h)
  · refine (congrArg Host.Outcome.next (s.onPulse_linked n p _ h)).trans ?_
    rw [State.demand_lch]

/-- A request that the port has room for: it waits, and with nothing accepted the ring is read (R99, R114). -/
def State.requested (z : State) (n : Log) (q : Qn) (bytes : Nat) : State :=
  let t := z.modL n fun l => { l with reqs := l.reqs ++ [bytes] }
  if (z.que n q).acc.isEmpty then t.modQ n q fun u => u.trigger 0 else t

theorem State.request_eq (z : State) (p : Phys) (bytes : Nat) (hq : z.lch[n].port.reqQ = some q) (hd : ((z.que n q).acc.head?.any fun a => a.d.takesDeliver) = false) :
    z.request n p bytes = if 15 ≤ z.lch[n].reqs.countP (· ≠ 0) then z.modC p fun c => { c with reqOvr := true } else z.requested n q bytes := by
  unfold State.request
  dsimp only
  rw [hq]
  simp only [hd, Bool.false_eq_true, if_false]
  rfl

theorem OnQueue.requested (p : Phys) (z : State) (bytes : Nat) : OnQueue n q p z (z.requested n q bytes) := by
  have hl : OnQueue n q p z (z.modL n fun l => { l with reqs := l.reqs ++ [bytes] }) := .modL q p z (fun _ => rfl) (fun _ => rfl) fun _ => rfl
  unfold State.requested
  dsimp only
  split
  · exact hl.trans (.modQ n q p _ _)
  · exact hl

theorem State.requested_reqs (z : State) (n : Log) (q : Qn) (bytes : Nat) : (z.requested n q bytes).lch[n].reqs = z.lch[n].reqs ++ [bytes] := by
  unfold State.requested
  dsimp only
  split
  · rw [(State.modQ_sameButQueues _ n q _ : (State.modQ _ n q _).lch[n] = _), State.modL_lch, if_pos rfl]
  · rw [State.modL_lch, if_pos rfl]

theorem State.requested_que (z : State) (n : Log) (q : Qn) (bytes : Nat) :
    (z.requested n q bytes).que n q = if (z.que n q).acc.isEmpty then (z.que n q).trigger 0 else z.que n q := by
  have hl := State.modL_que_kept z n (fun l => { l with reqs := l.reqs ++ [bytes] }) (fun _ => rfl) n q
  unfold State.requested
  dsimp only
  split
  · rw [State.modQ_que, hl]
  · exact hl

theorem State.requested_phys (z : State) (n : Log) (q : Qn) (bytes : Nat) : (z.requested n q bytes).phys = z.phys ∧ (z.requested n q bytes).linkOut = z.linkOut := by
  unfold State.requested
  dsimp only
  split
  · exact ⟨rfl, rfl⟩
  · exact ⟨rfl, rfl⟩

/-! ## LAST -/

theorem exec_last (h : s.linked n p = true) : ∃ z, Met n p s z ∧ exec (.last ⟨n, false⟩) s = .next (z.applyLast n) :=
  ⟨s.demand p, .demand h, congrArg Host.Outcome.next (s.onPulse_linked n p _ h)⟩

/-- A LAST behind an open DELIVER waits for its end (R102). -/
theorem exec_last_open (h : s.linked n p = true) (hq : s.lch[n].port.reqQ = some q) : ∃ z, Met n p s z
    ∧ exec (.last ⟨n, true⟩) s = .next (z.modL n fun l => { l with lastPend := true }) := by
  refine ⟨s.demand p, .demand h, (congrArg Host.Outcome.next (s.onPulse_linked n p _ h)).trans ?_⟩
  simp only [State.demand_lch, hq, Option.isSome_some, Bool.and_self, if_true]

/-- A LAST of the output that requests pace at descriptor `a` (R101, R103). -/
def State.lastPaced (s : State) (n : Log) (q : Qn) (a : Acc) : State :=
  match a.x.allow with
  | some cuts => if s.lch[n].reqs.isEmpty then (s.modA n q a.id fun a => { a with x := { a.x with endAt := some (cuts.getLast?.getD 0) } }).flow n q else s.queueLast n
  | none => s.modL n LCh.queueLast

section
variable {a : Acc} (hq : s.lch[n].port.reqQ = some q) (ha : (s.que n q).acc.head? = some a)
include hq ha

/-- A LAST ends the link input of the head after the data received so far (R102). -/
theorem State.applyLast_input (hd : a.d.takesDeliver = true) (he : (s.que n q).lastEnds = true) :
    s.applyLast n = (s.modQ n q fun u => { u with link := u.link ++ [.last] }).flow n q := by
  unfold State.applyLast
  dsimp only
  rw [hq]
  dsimp only
  rw [ha]
  dsimp only
  rw [if_pos hd, if_pos he]

section
variable (hp : s.lch[n].paces q a.d = true)
include hp

theorem State.applyLast_paced : s.applyLast n = s.lastPaced n q a := by
  have hd : a.d.takesDeliver = false := by
    simp only [LCh.paces, Bool.and_eq_true, Bool.not_eq_true'] at hp
    exact hp.1.2
  unfold State.applyLast
  dsimp only
  rw [hq]
  dsimp only
  rw [ha]
  dsimp only
  rw [hd, hp]
  rfl

/-- A LAST of paced output stands behind the requests before it, once (R101, R103). -/
theorem State.applyLast_queues (hr : a.x.allow = none ∨ s.lch[n].reqs ≠ []) : s.applyLast n = s.modL n LCh.queueLast := by
  rw [State.applyLast_paced hq ha hp]
  unfold State.lastPaced
  cases hc : a.x.allow with
  | none => rfl
  | some cuts =>
    have hne : s.lch[n].reqs.isEmpty = false := by
      rcases hr with h | h
      · rw [hc] at h; contradiction
      · rwa [List.isEmpty_eq_false_iff]
    dsimp only
    rw [hne, if_neg Bool.false_ne_true]
    unfold State.queueLast State.modL
    dsimp only
    rw [hne, if_neg Bool.false_ne_true]

/-- A LAST of paced output ends it where the last request ends when none waits (R103). -/
theorem State.applyLast_served {cuts : List Nat} (hc : a.x.allow = some cuts) (hr : s.lch[n].reqs = []) :
    s.applyLast n = (s.modA n q a.id fun a => { a with x := { a.x with endAt := some (cuts.getLast?.getD 0) } }).flow n q := by
  rw [State.applyLast_paced hq ha hp]
  unfold State.lastPaced
  rw [hc]
  dsimp only
  rw [if_pos (List.isEmpty_iff.mpr hr)]

end
end

/-- The update of a descriptor reaches the first entry with its identity. -/
theorem updFirst_mem {l : List Acc} {a : Acc} (ha : a ∈ l) (f : Acc → Acc) : ∃ b ∈ l, b.id = a.id ∧ f b ∈ updFirst (fun x => x.id == a.id) f l := by
  induction l with
  | nil => cases ha
  | cons x l ih =>
    unfold updFirst
    by_cases hx : x.id = a.id
    · rw [if_pos (beq_iff_eq.mpr hx)]
      exact ⟨x, List.mem_cons_self, hx, List.mem_cons_self⟩
    · rw [if_neg fun e => hx (beq_iff_eq.mp e)]
      obtain ⟨b, hb, hid, hm⟩ := ih ((List.mem_cons.mp ha).resolve_left fun e => hx (e ▸ rfl))
      exact ⟨b, List.mem_cons_of_mem x hb, hid, List.mem_cons_of_mem x hm⟩

end Sys2Proof.Machine
end

section
namespace Sys2Proof.Machine

/-- Settles O39: a request by `State.request_eq`; a LAST by the three equations of `State.applyLast`. -/
theorem requestLinesQueueRequests : Obligations.RequestLinesQueueRequests := by
  intro s n p q hs hq
  refine ⟨fun c bytes hc hd => ?_, fun a ha hd hl => ?_, fun a ha hp hr => ?_, fun a cuts ha hp hc hr => ?_, ?_⟩
  · obtain ⟨z, hz, he⟩ := exec_request hs hc
    rw [State.request_eq z p bytes (by rw [hz.lch]; exact hq) (by rw [hz.que]; exact hd), hz.lch] at he
    by_cases hn : 15 ≤ s.lch[n].reqs.countP (· ≠ 0)
    · rw [if_pos hn] at he
      have hf := (hz.onQueue q).trans (.modC n q p z fun c => { c with reqOvr := true })
      refine ⟨_, he, fun h => by omega, fun _ => ⟨hz.lch, ?_⟩, congrArg Que.acc (hz.que n q), hz.linkOut, hf.frame⟩
      rw [State.modC, State.modP_phys, if_pos rfl, hz.c]
    · rw [if_neg hn] at he
      obtain ⟨hph, hlo⟩ := z.requested_phys n q bytes
      have hu := z.requested_que n q bytes
      rw [hz.que] at hu
      refine ⟨_, he, fun _ => ⟨?_, by rw [hph, hz.c], fun hnil hring => ?_⟩, fun h => by omega, ?_, hlo.trans hz.linkOut, ((hz.onQueue q).trans (.requested p z bytes)).frame⟩
      · rw [State.requested_reqs, hz.lch]
      · rw [hu, hnil]
        exact Que.trigger_out _ 0 hring
      · rw [hu]
        split
        · exact Que.trigger_acc _ 0
        · rfl
  · obtain ⟨z, hz, he⟩ := exec_last hs
    rw [State.applyLast_input (by rw [hz.lch]; exact hq) (by rw [hz.que]; exact ha) hd (by rw [hz.que]; exact hl)] at he
    have hf := (hz.onQueue q).trans (.modQ n q p z fun u => { u with link := u.link ++ [.last] })
    refine ⟨_, he, by rw [State.modQ_que, hz.que], ?_, hz.linkOut, hf.frame⟩
    rw [(z.modQ_sameButQueues n q _ : (z.modQ n q _).lch[n] = _), hz.lch]
  · obtain ⟨z, hz, he⟩ := exec_last hs
    rw [State.applyLast_queues (by rw [hz.lch]; exact hq) (by rw [hz.que]; exact ha) (by rw [hz.lch]; exact hp) (by rw [hz.lch]; exact hr)] at he
    have hf : OnQueue n q p s (z.modL n LCh.queueLast) := (hz.onQueue q).trans
      (.modL q p z (fun l => by rw [LCh.queueLast_eq]) (fun l => by rw [LCh.queueLast_eq]) fun l => by rw [LCh.queueLast_eq])
    refine ⟨_, he, ?_, ?_, hz.linkOut, hf.frame⟩
    · rw [State.modL_lch, if_pos rfl, LCh.queueLast_eq, hz.lch]
    · rw [State.modL_que_kept z n _ fun l => by rw [LCh.queueLast_eq], hz.que]
  · obtain ⟨z, hz, he⟩ := exec_last hs
    rw [State.applyLast_served (by rw [hz.lch]; exact hq) (by rw [hz.que]; exact ha) (by rw [hz.lch]; exact hp) hc (by rw [hz.lch]; exact hr)] at he
    have hf := (hz.onQueue q).trans (.modA n q p z a.id fun a => { a with x := { a.x with endAt := some (cuts.getLast?.getD 0) } })
    have hm := z.modA_que n q a.id fun a => { a with x := { a.x with endAt := some (cuts.getLast?.getD 0) } }
    rw [hz.que] at hm
    refine ⟨_, he, ?_, by rw [hm], by rw [hm]; exact length_updFirst _ _ _, ?_, hz.linkOut, hf.frame⟩
    · obtain ⟨b, _, hid, hb⟩ := updFirst_mem (List.mem_of_head? ha) fun a => { a with x := { a.x with endAt := some (cuts.getLast?.getD 0) } }
      rw [hm]
      exact ⟨_, hb, hid, rfl⟩
    · rw [State.modA, (z.modQ_sameButQueues n q _ : (z.modQ n q _).lch[n] = _), hz.lch]
      exact hr
  · obtain ⟨z, hz, he⟩ := exec_last_open hs hq
    have hf : OnQueue n q p z (z.modL n fun l => { l with lastPend := true }) := .modL q p z (fun _ => rfl) (fun _ => rfl) fun _ => rfl
    refine ⟨_, he, ?_, hz.linkOut, ((hz.onQueue q).trans hf).frame⟩
    rw [State.modL_lch, if_pos rfl, hz.lch]

end Sys2Proof.Machine
end

section
/-! SUPPORT. A queue whose two descriptors share an identity: the counterexample to the report of a replayed descriptor's packet (R108). -/

namespace Sys2Proof.Machine

/-- A FILL of 64 bytes to the link (R166). -/
def wFillBytes : List Byte := [3, 0, 0, 0, 64, 0, 0, 0] ++ zeros 8 ++ zeros 7 ++ [0x80] ++ zeros 40

/-- Queue 0 of a linked port holds two descriptors of identity 7. The first waits for a report at OFFSET 0; the second, of SEQ 5, executes again and has had no report. The block gives each
descriptor an identity of its own, but the statement speaks of every state. -/
def wTwins : State :=
  { State.reset with
    porN := true, hrstN := true
    phys := (Vector.replicate 136 {}).set 0 { st := .active }
    lch := (Vector.replicate 128 {}).set 0 { qs := (Vector.replicate 4 {}).set 0 { st := .active, acc := [{ id := 7, failAt := some 0 },
      { id := 7, seq := 5, bytes := wFillBytes, replayed := true }] } } }

theorem wTwins_linked : wTwins.linked 0 0 = true := by decide

/-- No descriptor of SEQ 5 has sent a packet. -/
theorem wTwins_unsent : ((wTwins.que 0 0).acc.find? fun a => a.seq = (5 : BitVec 16).toNat && a.sends && a.x.linkErr.isNone && (a.x.finSent || a.x.outSent > 0 || a.x.began)) = none := by decide

/-- The second descriptor is the one that the report concerns. -/
theorem wTwins_replayed : ((wTwins.que 0 0).acc.find? fun a => a.seq = (5 : BitVec 16).toNat && a.sends && a.x.linkErr.isNone && a.replayed)
    = some { id := 7, seq := 5, bytes := wFillBytes, replayed := true } := by decide

/-- The block after a report of SEQ 5 at OFFSET 9. -/
def wTwinsReported : State := match exec (.statusLinkErr 0 0 5 9) wTwins with
  | .next t => t
  | .fault _ | .refused _ => wTwins

theorem wTwins_exec : exec (.statusLinkErr 0 0 5 9) wTwins = .next wTwinsReported := rfl

/-- The report went to the first descriptor, which keeps its own lower OFFSET. -/
theorem wTwinsReported_failAt : (wTwinsReported.que 0 0).acc.map Acc.failAt = [some 0, none] := by decide +kernel

/-- Refutes O36: a report is kept with the first descriptor of the identity that it concerns, and where two share one (`wTwins`) its OFFSET is lost beside a lower one. -/
theorem not_linkFailuresEndDescriptors : ¬ Obligations.LinkFailuresEndDescriptors := by
  rintro ⟨-, hreplayed, -⟩
  obtain ⟨t, ht, ⟨b, hb, -, hoff⟩, -⟩ := hreplayed wTwins 0 0 0 5 9 _ wTwins_linked wTwins_unsent wTwins_replayed rfl
  have htr : wTwinsReported = t := Host.Outcome.next.inj (wTwins_exec.symm.trans ht)
  subst htr
  have hmem : b.failAt ∈ (wTwinsReported.que 0 0).acc.map Acc.failAt := List.mem_map_of_mem hb
  rw [wTwinsReported_failAt, hoff] at hmem
  revert hmem
  decide

end Sys2Proof.Machine
end

section
/-! SUPPORT. Packets that leave (R61, R85, R90, R96): a DELIVER, the WAKE REQUEST before it, and STATUS PARKED. -/

namespace Sys2Proof.Machine

variable {n : Log} {q : Qn} {p : Phys} {s t u : State}

/-! ## What serves a request first -/

/-- What only descriptors of `n` and its pending requests may differ in. -/
structure Serves (n : Log) (s t : State) : Prop where
  state : t = { s with lch := t.lch }
  others : sameOthers n s t
  queue : ∀ r : Qn, ∃ acc : List Acc, acc.map Acc.id = (s.que n r).acc.map Acc.id ∧ t.que n r = { s.que n r with acc }

theorem Serves.refl (n : Log) (s : State) : Serves n s s := ⟨rfl, fun _ _ => rfl, fun _ => ⟨_, rfl, rfl⟩⟩

theorem Serves.serveReq (n : Log) (s : State) (r : Qn) (a : Acc) : Serves n s (s.serveReq n r a) := by
  rcases s.serveReq_eq n r a with h | ⟨f, g, h⟩
  · rw [h]; exact .refl n s
  · have hm := Noted.modA n r (s.modL n fun l => { l with reqs := f l }) a.id (f := fun a => { a with x := g a }) fun _ => rfl
    rw [h]
    refine ⟨rfl, fun m hne => (hm.others m hne).trans ((AtLog.modL n s _).others m hne), fun x => ?_⟩
    obtain ⟨acc, ha, e⟩ := hm.queue x
    rw [State.modL_que_kept s n (fun l => { l with reqs := f l }) (fun _ => rfl)] at ha e
    exact ⟨acc, ha, e⟩

/-- The port after its pending requests have been looked at (R99). -/
def State.served (s : State) (n : Log) : State :=
  match s.lch[n].port.reqQ with
  | some r => s.serveLink n r
  | none => s

theorem Serves.served (n : Log) (s : State) : Serves n s (s.served n) := by
  unfold State.served
  split
  · unfold State.serveLink
    split
    · split
      · exact .serveReq n s _ _
      · exact .refl n s
    · exact .refl n s
  · exact .refl n s

theorem Serves.onPort (h : Serves n s t) (p : Phys) : OnPort n p s t :=
  ⟨by unfold sameControl; rw [h.state], h.others, fun _ _ => by rw [h.state], by rw [h.state], by rw [h.state]⟩

theorem Looked.onPort (h : Looked n s t) (p : Phys) : OnPort n p s t :=
  ⟨by unfold sameControl; rw [h.state], h.others, fun _ _ => by rw [h.state], by rw [h.state], by rw [h.state]⟩

/-! ## The end of a message -/

theorem State.msgEnd_que (s : State) (n : Log) (q : Qn) : (s.msgEnd n).que n q = { s.que n q with parked := none } := by
  unfold State.msgEnd State.que
  rw [State.modL_lch, if_pos rfl]
  simp only [Fin.getElem_fin, mapV_get]

/-! ## A DELIVER that leaves -/

/-- The flit credit and the turn that a packet of `k` flits takes (R61, R85). -/
def State.paid (s : State) (n : Log) (q : Qn) (k : Nat) : State :=
  s.modL n fun l => ({ l with rrOut := (q.val + 1) % 4 } : LCh).modQ q fun u => { u with flitCr := u.flitCr - k }

/-- A descriptor whose DELIVER `r` has left (R85, R479). -/
def Acc.delivered (a : Acc) (r : OutPkt) (final : Bool) (finA : Option Nat) : Acc :=
  { a with x := { a.x with outSent := r.next, finSent := final, creditA := none, finA } }

/-- The DELIVER of a ready packet (R58). -/
def Acc.deliver (a : Acc) (q : Qn) (r : OutPkt) (final msg : Bool) (gap : Nat) (payload : List Byte) (psn : List Bool) : Pkt :=
  .deliver q a.seq a.d.tag final msg a.replayed (decide (gap > 0)) r.off (min gap 0xFFFFFFFF) payload psn

/-- The descriptor's DELIVER `r` is paid for and noted (R61, R85). -/
def State.noteLeft (s : State) (n : Log) (q : Qn) (a : Acc) (r : OutPkt) (final msg : Bool) : State :=
  (s.paid n q r.flits).modA n q a.id fun b => b.delivered r final (if final && msg then some s.aclk else b.x.finA)

/-- The port when DELIVER `r` has left as packet `k`, before the data path runs. -/
def State.left (s : State) (n : Log) (q : Qn) (a : Acc) (r : OutPkt) (final msg : Bool) (k : Pkt) : State :=
  if final && msg then ((s.noteLeft n q a r final msg).send n k).msgEnd n else (s.noteLeft n q a r final msg).send n k

theorem State.leave_deliver (s : State) (n : Log) (q : Qn) (a : Acc) {r : OutPkt} {final msg : Bool} {gap : Nat} {payload : List Byte} {psn : List Bool}
    (h : r.k = .deliver final msg gap payload psn) : s.leave n q a r = (s.left n q a r final msg (a.deliver q r final msg gap payload psn)).flow n q := by
  unfold State.leave
  rw [h]
  rfl

section
variable (a : Acc) (r : OutPkt) (final msg : Bool) (k : Pkt)

theorem OnPort.left (p : Phys) (s : State) : OnPort n p s (s.left n q a r final msg k) := by
  have hp : OnPort n p s (s.paid n q r.flits) := .modL n p s _
  have h := (hp.trans (OnQueue.modA n q p _ a.id _).toOnPort).trans (OnQueue.send n q p (s.noteLeft n q a r final msg) k).toOnPort
  unfold State.left
  split
  · exact h.trans (.modL n p _ _)
  · exact h

theorem State.left_linkOut (s : State) (n : Log) (q : Qn) (h : s.tap.drives = false) : (s.left n q a r final msg k).linkOut = s.linkOut ++ [(n, k)] := by
  have e := State.send_pins (s.noteLeft n q a r final msg) n k h
  unfold State.left
  split
  · exact e
  · exact e

theorem State.left_que (s : State) (n : Log) (q : Qn) : ∃ parked, (s.left n q a r final msg k).que n q = { s.que n q with
    flitCr := (s.que n q).flitCr - r.flits, parked
    acc := updFirst (fun b => b.id == a.id) (fun b => b.delivered r final (if final && msg then some s.aclk else b.x.finA)) (s.que n q).acc } := by
  have hp : (s.paid n q r.flits).que n q = { s.que n q with flitCr := (s.que n q).flitCr - r.flits } := by
    unfold State.paid State.que
    rw [State.modL_lch, if_pos rfl, LCh.modQ_qs, if_pos rfl]
  have hn := (s.paid n q r.flits).modA_que n q a.id fun b => b.delivered r final (if final && msg then some s.aclk else b.x.finA)
  rw [hp] at hn
  have hl : ∃ parked, (s.left n q a r final msg k).que n q = { (s.noteLeft n q a r final msg).que n q with parked } := by
    unfold State.left
    split
    · exact ⟨none, by rw [State.msgEnd_que, State.send_que]⟩
    · exact ⟨_, by rw [State.send_que]⟩
  obtain ⟨parked, hl⟩ := hl
  exact ⟨parked, by rw [hl, State.noteLeft, hn]⟩

theorem State.left_rrOut (s : State) (n : Log) (q : Qn) : (s.left n q a r final msg k).lch[n].rrOut = (q.val + 1) % 4 := by
  have h : (s.noteLeft n q a r final msg).lch[n].rrOut = (q.val + 1) % 4 := by
    rw [State.noteLeft, State.modA, (State.modQ_sameButQueues _ n q _ : (State.modQ _ n q _).lch[n] = _), State.paid, State.modL_lch, if_pos rfl]
    rfl
  unfold State.left
  split
  · unfold State.msgEnd
    rw [State.modL_lch, if_pos rfl]
    simp only [State.send_lch, h]
  · simp only [State.send_lch, h]

end

/-- A packet's descriptor stands in its queue. -/
theorem LCh.ready_mem {l : LCh} {a : Acc} {k : OutPkt} (h : l.ready q = some (a, k)) : a ∈ l.qs[q].acc := by
  unfold LCh.ready at h
  obtain ⟨b, hb, hk⟩ := Option.bind_eq_some_iff.mp h
  obtain ⟨_, _, e⟩ := Option.map_eq_some_iff.mp hk
  obtain ⟨rfl, _⟩ := Prod.mk.inj e
  unfold Que.sender at hb
  exact List.mem_of_find?_eq_some (Option.filter_eq_some_iff.mp hb).1

/-! ## The commands -/

/-- What the next packet of a queue does (R61, R85, R87, R96). -/
def State.nextOut (u : State) (n : Log) (q : Qn) : State :=
  match u.lch[n].ready q with
  | none => u
  | some (a, r) => match r.k with
    | .abort _ => (u.leave n q a r).linkWaits n
    | _ =>
      if u.lch[n].parked q (a, r) then u
      else if u.lch[n].asleep then
        if u.lch[n].wakeReq.isSome then u else (u.modL n fun l => { l with wakeReq := some u.aclk }).send n .wakeReq
      else if u.lch[n].sendable q && u.pickQ n u.lch[n].rrOut u.lch[n].sendable == some q then (u.leave n q a r).linkWaits n
      else u

theorem exec_deliverOut (hl : s.live n p = true) (q : Qn) : exec (.deliverOut n q) s = .next ((s.served n).nextOut n q) :=
  congrArg Host.Outcome.next (s.withAwake_live n p _ hl)

section
variable {a : Acc} {k : OutPkt} {final msg : Bool} {gap : Nat} {payload : List Byte} {psn : List Bool}
  (hr : u.lch[n].ready q = some (a, k)) (hk : k.k = .deliver final msg gap payload psn) (hp : u.lch[n].parked q (a, k) = false)
include hr hk hp

/-- To a consumer awake the packet leaves in its turn. -/
theorem State.nextOut_leaves (ha : u.lch[n].asleep = false) (hs : u.lch[n].sendable q = true) (hq : u.pickQ n u.lch[n].rrOut u.lch[n].sendable = some q) :
    u.nextOut n q = (u.leave n q a k).linkWaits n := by
  unfold State.nextOut
  rw [hr]
  dsimp only
  rw [hk]
  simp only [hp, ha, hs, hq, Bool.false_eq_true, if_false, beq_self_eq_true, Bool.and_self, if_true]

/-- To a consumer asleep a WAKE REQUEST leaves first. -/
theorem State.nextOut_wakes (ha : u.lch[n].asleep = true) (hw : u.lch[n].wakeReq = none) :
    u.nextOut n q = (u.modL n fun l => { l with wakeReq := some u.aclk }).send n .wakeReq := by
  unfold State.nextOut
  rw [hr]
  dsimp only
  rw [hk]
  simp only [hp, ha, hw, Bool.false_eq_true, if_false, Option.isSome_none, if_true]

end

end Sys2Proof.Machine
end

section
namespace Sys2Proof.Machine

/-- A DELIVER that leaves: its packet, what it takes, and what stays. -/
theorem deliverOut_leaves {s : State} {n : Log} {p : Phys} {q : Qn} {a : Acc} {k : OutPkt} {final msg : Bool} {gap : Nat} {payload : List Byte} {psn : List Bool}
    (hl : s.live n p = true) (ht : s.tap.drives = false) (hr : (s.served n).lch[n].ready q = some (a, k)) (hk : k.k = .deliver final msg gap payload psn) :
    ∃ t, ((s.served n).leave n q a k).linkWaits n = t ∧ (n, a.deliver q k final msg gap payload psn) ∈ t.linkOut ∧ s.linkOut <+: t.linkOut
      ∧ (t.que n q).flitCr = (s.que n q).flitCr - k.flits ∧ t.lch[n].rrOut = (q.val + 1) % 4
      ∧ (∃ b ∈ (t.que n q).acc, b.id = a.id ∧ b.x.outSent = k.next ∧ b.x.finSent = final)
      ∧ (t.que n q).acc.length = (s.que n q).acc.length ∧ (t.que n q).st = (s.que n q).st ∧ sameOthers n s t ∧ samePhys p s t ∧ sameControl s t := by
  have hu := Serves.served n s
  obtain ⟨acc, hids, hque⟩ := hu.queue q
  have hlen : acc.length = (s.que n q).acc.length := by simpa using congrArg List.length hids
  generalize s.served n = u at hu hque hr ⊢
  rw [State.leave_deliver u n q a hk]
  have hv := OnPort.left (q := q) (n := n) a k final msg (a.deliver q k final msg gap payload psn) p u
  have hvo := State.left_linkOut a k final msg (a.deliver q k final msg gap payload psn) u n q (by rw [(hu.onPort p).tap]; exact ht)
  obtain ⟨parked, hvq⟩ := State.left_que a k final msg (a.deliver q k final msg gap payload psn) u n q
  have hvr := State.left_rrOut a k final msg (a.deliver q k final msg gap payload psn) u n q
  generalize u.left n q a k final msg (a.deliver q k final msg gap payload psn) = v at hv hvo hvq hvr ⊢
  have hmem : a ∈ (u.que n q).acc := LCh.ready_mem hr
  obtain ⟨b, _, hid, hb⟩ := updFirst_mem hmem fun b => b.delivered k final (if final && msg then some u.aclk else b.x.finA)
  have hf := FlowFrame.flow n q v
  have hrun : v.runP n = some p := (((hu.onPort p).trans hv).runP n).trans ((s.live_iff n p).mp hl).2.2.1
  have hw := Looked.linkWaits n (v.flow n q)
  have hport := (((hu.onPort p).trans hv).trans (hf.onQueue hrun).toOnPort).trans (hw.onPort p)
  obtain ⟨wacc, hwa, hwq⟩ := hw.queue q
  obtain ⟨fq, fa⟩ := hf.queue
  have hsame := fa.trans hwa
  rw [hvq] at hsame
  obtain ⟨c, hc, hbc⟩ := hsame.mem hb
  obtain ⟨hbc0, -, hout, hfin, -⟩ := hbc
  unfold sameQueue at fq
  rw [hvq, hque] at fq
  refine ⟨_, rfl, ?_, hport.sent, by rw [hwq, fq], by rw [hw.chan, hf.chan]; exact hvr, ⟨c, by rw [hwq]; exact hc, by rw [hbc0]; exact hid, hout, hfin⟩, ?_, by rw [hwq, fq],
    hport.others, hport.chans, hport.control⟩
  · rw [hw.linkOut]
    exact hf.sent.subset (by rw [hvo]; exact List.mem_append_right _ (List.mem_singleton_self _))
  · rw [hwq]
    refine hsame.length.trans ?_
    rw [length_updFirst, hque, hlen]

/-- Settles O41: what serves a request first moves descriptors' notes and requests alone (`Serves`); a DELIVER then leaves by `deliverOut_leaves`. -/
theorem packetsLeaveInTurn : Obligations.PacketsLeaveInTurn := by
  refine ⟨fun s n p q a k final msg gap payload psn hl ht hr hk hp => ⟨fun ha hs hq => ?_, fun ha hw => ?_⟩, fun s n p q a k hl ht hr hp hn => ?_⟩
  · obtain ⟨t, e, ho, hpre, hcr, hrr, hb, hlen, hst, h1, h2, h3⟩ := deliverOut_leaves hl ht hr hk
    exact ⟨t, (exec_deliverOut hl q).trans (congrArg Host.Outcome.next ((State.nextOut_leaves hr hk hp ha hs hq).trans e)), ho, hpre, hcr, hrr, hb, hlen, hst, h1, h2, h3⟩
  · have hu := Serves.served n s
    have hport := ((hu.onPort p).trans (.modL n p (s.served n) fun l => { l with wakeReq := some (s.served n).aclk })).trans (OnQueue.send n q p _ .wakeReq).toOnPort
    refine ⟨_, (exec_deliverOut hl q).trans (congrArg Host.Outcome.next (State.nextOut_wakes hr hk hp ha hw)), ?_, ?_, ?_, hport.others, ?_, hport.control⟩
    · rw [State.send_pins _ n _ (by rw [State.modL_tap, (hu.onPort p).tap]; exact ht), State.modL_linkOut, hu.state]
    · rw [State.send_lch, State.modL_lch, if_pos rfl, (hu.onPort p).aclk]
    · obtain ⟨acc, _, hque⟩ := hu.queue q
      rw [State.send_que, State.modL_que_kept (s.served n) n (fun l => { l with wakeReq := some (s.served n).aclk }) (fun _ => rfl), hque]
    · rw [State.send_phys, State.modL_phys, hu.state]
  · have he : exec (.statusParked n q) s = .next ((s.modQ n q fun u => { u with parked := some (a.id, s.aclk) }).send n (.status q 1 a.seq (s.parkedFor n a))) := by
      have hn' : s.lch[n].qs[q].parked = none := hn
      refine (congrArg Host.Outcome.next (s.withAwake_live n p _ hl)).trans ?_
      simp only [hr, hn', hp, Bool.and_self, if_true]
    have hf := OnQueue.modQ n q p s fun u => { u with parked := some (a.id, s.aclk) }
    have hall := hf.trans (.send n q p _ (.status q 1 a.seq (s.parkedFor n a)))
    have ho := State.send_pins (s.modQ n q fun u => { u with parked := some (a.id, s.aclk) }) n (.status q 1 a.seq (s.parkedFor n a)) ht
    refine ⟨_, he, ho, by rw [State.send_que, State.modQ_que], hall.siblings, hall.others, ?_⟩
    unfold State.send
    split <;> rfl

end Sys2Proof.Machine
end

section
/-! SUPPORT. The words of a payload, and a DELIVER's way into the link FIFO (R58, R59, R62, R105, R303, R326, R331). -/

namespace Sys2Proof.Machine

variable {n : Log} {q : Qn} {p : Phys} {s t u : State}

/-! ## The words of a payload -/

theorem length_chunksOf {α : Type} {k : Nat} (hk : 0 < k) (fuel : Nat) (l : List α) (h : l.length ≤ fuel) : (chunksOf fuel k l).length = ceilDiv l.length k := by
  have h0 : ceilDiv 0 k = 0 := Nat.div_eq_of_lt (by omega)
  induction fuel generalizing l with
  | zero =>
    rw [List.length_eq_zero_iff.mp (Nat.le_zero.mp h)]
    exact h0.symm
  | succ fuel ih =>
    cases l with
    | nil => exact h0.symm
    | cons a l =>
      simp only [List.length_cons] at h
      have hd : ((a :: l).drop k).length = l.length + 1 - k := by simp
      unfold chunksOf
      rw [List.length_cons, ih _ (by omega), hd, List.length_cons]
      unfold ceilDiv
      by_cases hle : l.length + 1 ≤ k
      · rw [Nat.sub_eq_zero_of_le hle, show l.length + 1 + k - 1 = l.length + k by omega, Nat.add_div_right _ hk, Nat.div_eq_of_lt (by omega : l.length < k),
          Nat.div_eq_of_lt (by omega)]
      · rw [show l.length + 1 - k + k - 1 = l.length by omega, show l.length + 1 + k - 1 = l.length + k by omega, Nat.add_div_right _ hk]

theorem getElem?_chunksOf {α : Type} {k : Nat} (hk : 0 < k) (fuel : Nat) (l : List α) (h : l.length ≤ fuel) (i : Nat) (hi : i < (chunksOf fuel k l).length) :
    (chunksOf fuel k l)[i]? = some ((l.drop (k * i)).take k) := by
  induction fuel generalizing l i with
  | zero => simp [chunksOf] at hi
  | succ fuel ih =>
    cases l with
    | nil => simp [chunksOf] at hi
    | cons a l =>
      unfold chunksOf at hi ⊢
      cases i with
      | zero => rfl
      | succ i =>
        simp only [List.length_cons] at h hi
        rw [List.getElem?_cons_succ, ih _ (by simp; omega) i (by omega), List.drop_drop, Nat.mul_succ, Nat.add_comm]

theorem length_wordsOf (pay : List Byte) (psn : List Bool) (upset : List Nat) : (wordsOf pay psn upset).length = ceilDiv pay.length 64 := by
  unfold wordsOf
  rw [List.length_map, List.length_zipIdx, length_chunksOf (by omega) _ _ (by omega)]

theorem getElem?_wordsOf {pay : List Byte} {psn : List Bool} {upset : List Nat} {i : Nat} (h : i < (wordsOf pay psn upset).length) :
    (wordsOf pay psn upset)[i]? = some (.word ((pay.drop (64 * i)).take 64) (psn.getD i false || upset.contains i)) := by
  unfold wordsOf at h ⊢
  rw [List.length_map, List.length_zipIdx] at h
  rw [List.getElem?_map, List.getElem?_zipIdx, getElem?_chunksOf (by omega) _ _ (by omega) i h]
  simp

/-! ## What is counted at a channel -/

/-- Only counts of channel `p` and the link interval of `n` change. -/
structure Tallied (n : Log) (p : Phys) (s t : State) : Prop where
  state : t = { s with phys := t.phys, linkIvl := t.linkIvl }
  page : ∃ c, t.phys[p] = { s.phys[p] with c }
  chans : samePhys p s t

theorem Tallied.refl (n : Log) (p : Phys) (s : State) : Tallied n p s s := ⟨rfl, ⟨_, rfl⟩, fun _ _ => rfl⟩

theorem Tallied.trans (h : Tallied n p s t) (k : Tallied n p t u) : Tallied n p s u := by
  obtain ⟨_, e⟩ := h.page
  obtain ⟨c, e'⟩ := k.page
  exact ⟨by rw [k.state, h.state], ⟨c, by rw [e', e]⟩, fun r hr => (k.chans r hr).trans (h.chans r hr)⟩

theorem Tallied.modC (n : Log) (p : Phys) (s : State) (f : CCnt → CCnt) : Tallied n p s (s.modC p f) :=
  ⟨rfl, ⟨_, by rw [State.modC, State.modP_phys, if_pos rfl]⟩, (OnQueue.modC n 0 p s f).chans⟩

theorem Tallied.linkErr (n : Log) (p : Phys) (s : State) (k c : Nat) : Tallied n p s (s.linkErr n p k c) :=
  ⟨rfl, ⟨_, s.linkErr_phys n p k c⟩, (OnQueue.linkErr n 0 p s k c).chans⟩

theorem Tallied.ite {c : Prop} [Decidable c] (h : Tallied n p s t) (k : Tallied n p s u) : Tallied n p s (if c then t else u) := by
  split
  · exact h
  · exact k

theorem Tallied.payUpset (n : Log) (p : Phys) (s : State) (k : Nat) (upset : List Nat) : Tallied n p s (s.payUpset p k upset) :=
  .ite (.refl n p s) (.modC n p s _)

section
variable (h : Tallied n p s t)
include h

theorem Tallied.lch : t.lch = s.lch := by rw [h.state]
theorem Tallied.que (m : Log) (r : Qn) : t.que m r = s.que m r := State.que_congr h.lch m r
theorem Tallied.linkOut : t.linkOut = s.linkOut := by rw [h.state]

theorem Tallied.onQueue (q : Qn) : OnQueue n q p s t := by
  have hl : t.lch[n] = s.lch[n] := by rw [h.lch]
  refine ⟨⟨by unfold sameControl; rw [h.state], fun m _ => by rw [h.lch], h.chans, ?_, by rw [h.linkOut]⟩, fun r _ => h.que n r, by rw [hl], by rw [hl]⟩
  obtain ⟨_, e⟩ := h.page
  rw [e]

end

/-- The mismatching flits of a DELIVER (R105). -/
def State.parFlits (z : State) (n : Log) (p : Phys) (par : Nat) : State := if par = 0 then z else z.linkErr n p 4 par

theorem Tallied.parFlits (n : Log) (p : Phys) (z : State) (par : Nat) : Tallied n p z (z.parFlits n p par) := .ite (.refl n p z) (.linkErr n p z 4 par)

theorem State.parFlits_c (z : State) (n : Log) (p : Phys) (par : Nat) : (z.parFlits n p par).phys[p].c.parErr = z.phys[p].c.parErr ∧ (par = 0 → z.parFlits n p par = z) := by
  unfold State.parFlits
  split
  · exact ⟨rfl, fun _ => rfl⟩
  · next hne => exact ⟨by rw [State.linkErr_phys], fun e => absurd e hne⟩

/-- Parity errors of words are counted in area 5, and no link error with them (R331). -/
theorem State.payUpset_c (z : State) (p : Phys) (k : Nat) (upset : List Nat) : (z.payUpset p k upset).phys[p].c.lerrs = z.phys[p].c.lerrs
    ∧ (0 < upset.countP (· < k) → (z.payUpset p k upset).phys[p].c.parErr = min 0xFFFF (z.phys[p].c.parErr + upset.countP (· < k))
      ∧ (z.payUpset p k upset).phys[p].c.lastArea = 5) := by
  unfold State.payUpset State.parErr State.modC
  dsimp only
  split
  · next h0 => exact ⟨rfl, fun h => absurd h0 (Nat.ne_of_gt h)⟩
  · rw [State.modP_phys, if_pos rfl]
    exact ⟨rfl, fun _ => ⟨rfl, rfl⟩⟩

/-! ## The payload -/

/-- Arriving link input is noted at the descriptors that lacked it (R409). -/
theorem State.noteInput_que (z : State) (n : Log) (q : Qn) : ∃ acc : List Acc, acc.map Acc.id = (z.que n q).acc.map Acc.id
    ∧ (z.noteInput n q).que n q = { z.que n q with acc } := by
  refine ⟨_, ?_, z.modQ_que n q _⟩
  rw [List.map_map]
  refine List.map_congr_left fun a _ => ?_
  dsimp only [Function.comp]
  split <;> rfl

/-- A DELIVER's words come to the port: what lacked input notes it, and no packet is open. -/
def State.arrived (z : State) (n : Log) (q : Qn) (empty : Bool) : State :=
  (if empty then z else z.noteInput n q).modL n fun l => { l with lastPend := false }

theorem State.arrived_que (z : State) (n : Log) (q : Qn) (empty : Bool) : ∃ acc : List Acc, acc.map Acc.id = (z.que n q).acc.map Acc.id
    ∧ (z.arrived n q empty).que n q = { z.que n q with acc } := by
  unfold State.arrived
  rw [State.modL_que_kept _ n (fun l => { l with lastPend := false }) fun _ => rfl]
  split
  · exact ⟨_, rfl, rfl⟩
  · exact z.noteInput_que n q

theorem State.arrived_frame (z : State) (n : Log) (q : Qn) (p : Phys) (empty : Bool) : OnQueue n q p z (z.arrived n q empty)
    ∧ (z.arrived n q empty).phys = z.phys ∧ (z.arrived n q empty).linkOut = z.linkOut := by
  have hl : ∀ w : State, OnQueue n q p w (w.modL n fun l => { l with lastPend := false }) := fun w => .modL q p w (fun _ => rfl) (fun _ => rfl) fun _ => rfl
  unfold State.arrived
  split
  · exact ⟨hl z, rfl, rfl⟩
  · exact ⟨(OnQueue.modQ n q p z _).trans (hl _), rfl, rfl⟩

/-- CREDITED words enter the FIFO as far as the credit goes (R62, R319). -/
def State.intoFifo (z : State) (n : Log) (p : Phys) (q : Qn) (ws : List LEnt) (final : Bool) : State :=
  let k := min ws.length (z.que n q).wordCr
  let t := z.modQ n q fun u => { (u.useCredit ws.length) with link := u.link ++ ws.take k ++ [.eop final], mark := if k = 0 then u.mark else none }
  if k < ws.length then t.linkErr n p 15 (ws.length - k) else t

theorem State.intoFifo_frame (z : State) (n : Log) (p : Phys) (q : Qn) (ws : List LEnt) (final : Bool) :
    OnQueue n q p z (z.intoFifo n p q ws final) ∧ (z.intoFifo n p q ws final).linkOut = z.linkOut := by
  have h := OnQueue.modQ n q p z
  unfold State.intoFifo
  dsimp only
  split
  · exact ⟨(h _).trans (.linkErr n q p _ 15 _), rfl⟩
  · exact ⟨h _, rfl⟩

theorem State.intoFifo_que (z : State) (p : Phys) (ws : List LEnt) (final : Bool) (hs : (z.que n q).cfg.stream = false) :
    ((z.intoFifo n p q ws final).que n q).link = (z.que n q).link ++ ws.take (min ws.length (z.que n q).wordCr) ++ [.eop final]
      ∧ ((z.intoFifo n p q ws final).que n q).wordCr = (z.que n q).wordCr - min ws.length (z.que n q).wordCr
      ∧ ((z.intoFifo n p q ws final).que n q).acc = (z.que n q).acc := by
  have h : (z.intoFifo n p q ws final).que n q = { ((z.que n q).useCredit ws.length) with
      link := (z.que n q).link ++ ws.take (min ws.length (z.que n q).wordCr) ++ [.eop final]
      mark := if min ws.length (z.que n q).wordCr = 0 then (z.que n q).mark else none } := by
    unfold State.intoFifo
    dsimp only
    split
    · exact z.modQ_que n q _
    · exact z.modQ_que n q _
  rw [h]
  unfold Que.useCredit
  rw [hs]
  exact ⟨rfl, rfl, rfl⟩

theorem State.intoFifo_c (z : State) (n : Log) (p : Phys) (q : Qn) (ws : List LEnt) (final : Bool) :
    ((z.intoFifo n p q ws final).phys[p].c.parErr = z.phys[p].c.parErr ∧ (z.intoFifo n p q ws final).phys[p].c.lastArea = z.phys[p].c.lastArea)
      ∧ (ws.length ≤ (z.que n q).wordCr → (z.intoFifo n p q ws final).phys = z.phys)
      ∧ ((z.que n q).wordCr < ws.length → (z.intoFifo n p q ws final).phys[p].c.lkind = 15) := by
  unfold State.intoFifo
  dsimp only
  split
  · next hk =>
    rw [State.linkErr_phys]
    exact ⟨⟨rfl, rfl⟩, fun h => absurd hk (by omega), fun _ => rfl⟩
  · next hk => exact ⟨⟨rfl, rfl⟩, fun _ => rfl, fun h => absurd h (by omega)⟩

/-! ## The command -/

theorem exec_deliverIn_long (h : s.linked n p = true) (hp : s.lch[n].lastPend = false) {payload : List Byte} (hk : 8192 < payload.length) (q : Qn) (psn : List Bool)
    (par : Nat) (final : Bool) (upset : List Nat) :
    ∃ z, Met n p s z ∧ exec (.deliverIn n q payload psn par final upset) s = .next (((z.parFlits n p par).linkErr n p 5).modL n LCh.packetGone) := by
  refine ⟨s.demand p, .demand h, congrArg Host.Outcome.next ((State.inbound_flits _ _ h).trans ?_)⟩
  dsimp only
  rw [if_pos hk]
  refine State.packetGone_at_once ?_
  show (State.parFlits (s.demand p) n p par).lch[n].lastPend = false
  rw [(Tallied.parFlits n p _ par).lch, (Met.demand h).lch]
  exact hp

theorem exec_deliverIn_credited (h : s.linked n p = true) (hp : s.lch[n].lastPend = false) {payload : List Byte} (hk : payload.length ≤ 8192)
    (hs : (s.que n q).cfg.stream = false) (hd : (s.que n q).dropPkt = false) (psn : List Bool) (par : Nat) (final : Bool) (upset : List Nat) :
    ∃ z, Met n p s z ∧ exec (.deliverIn n q payload psn par final upset) s
      = .next (((((z.parFlits n p par).payUpset p (wordsOf payload psn upset).length upset).arrived n q payload.isEmpty).intoFifo n p q
          (wordsOf payload psn upset) final).flow n q) := by
  refine ⟨s.demand p, .demand h, congrArg Host.Outcome.next ((State.inbound_flits _ _ h).trans ?_)⟩
  have hz := Met.demand h
  generalize s.demand p = z at hz ⊢
  dsimp only
  rw [if_neg (by omega)]
  have ht := (Tallied.parFlits n p z par).trans (.payUpset n p _ (wordsOf payload psn upset).length upset)
  change State.lastWas (State.deliverWords (State.arrived ((z.parFlits n p par).payUpset p (wordsOf payload psn upset).length upset) n q payload.isEmpty) n p q _ upset final) n
    (State.lch (if payload.isEmpty = true then (z.parFlits n p par).payUpset p (wordsOf payload psn upset).length upset
      else ((z.parFlits n p par).payUpset p (wordsOf payload psn upset).length upset).noteInput n q))[n].lastPend = _
  generalize (z.parFlits n p par).payUpset p (wordsOf payload psn upset).length upset = w at ht ⊢
  have hl : (if payload.isEmpty = true then w else w.noteInput n q).lch[n].lastPend = false := by
    rw [← hp, ← hz.lch, ← ht.lch]
    split
    · rfl
    · unfold State.noteInput
      rw [(w.modQ_sameButQueues n q _ : (w.modQ n q _).lch[n] = _)]
  obtain ⟨acc, _, hq⟩ := w.arrived_que n q payload.isEmpty
  rw [ht.que n q, hz.que n q] at hq
  rw [hl]
  generalize w.arrived n q payload.isEmpty = x at hq ⊢
  unfold State.lastWas State.deliverWords
  dsimp only
  rw [if_neg Bool.false_ne_true, hq, if_neg (by rw [hd]; exact Bool.false_ne_true), if_neg (by rw [hs]; exact Bool.false_ne_true)]
  unfold State.intoFifo
  rw [hq]

end Sys2Proof.Machine
end

section
namespace Sys2Proof.Machine

/-- Settles O31: the counts of a DELIVER (`Tallied`), its arrival and its words' entry are three steps, each with its own lemma. -/
theorem deliveredWordsEnterTheFifo : Obligations.DeliveredWordsEnterTheFifo := by
  intro s n p q payload psn par final upset hs hl
  refine ⟨fun hk => ?_, fun hk hstr hd => ?_⟩
  · obtain ⟨z, hz, he⟩ := exec_deliverIn_long hs hl hk q psn par final upset
    have ht := (Tallied.parFlits n p z par).trans (.linkErr n p _ 5 1)
    refine ⟨_, he, ?_, fun r => ?_, ht.linkOut.trans hz.linkOut, fun m hm => ?_⟩
    · rw [State.modL_phys, State.linkErr_phys]
    · rw [State.packetGone_que, ht.que, hz.que]
      exact ⟨rfl, rfl⟩
    · rw [(AtLog.modL n _ _).others m hm, ht.lch, hz.lch]
  · obtain ⟨z, hz, he⟩ := exec_deliverIn_credited hs hl hk hstr hd psn par final upset
    obtain ⟨pc, pn⟩ := z.parFlits_c n p par
    obtain ⟨ue, uc⟩ := (z.parFlits n p par).payUpset_c p (wordsOf payload psn upset).length upset
    have ht := (Tallied.parFlits n p z par).trans (.payUpset n p _ (wordsOf payload psn upset).length upset)
    generalize (z.parFlits n p par).payUpset p (wordsOf payload psn upset).length upset = w at ht ue uc he
    obtain ⟨acc, ha, hq⟩ := w.arrived_que n q payload.isEmpty
    obtain ⟨af, ap, ao⟩ := w.arrived_frame n q p payload.isEmpty
    rw [ht.que, hz.que] at ha hq
    generalize w.arrived n q payload.isEmpty = x at hq af ap ao he
    obtain ⟨fl, fw, fa⟩ := x.intoFifo_que p (wordsOf payload psn upset) final (by rw [hq]; exact hstr)
    obtain ⟨ff, fo⟩ := x.intoFifo_frame n p q (wordsOf payload psn upset) final
    obtain ⟨⟨cp, ca⟩, ce, ck⟩ := x.intoFifo_c n p q (wordsOf payload psn upset) final
    rw [hq] at fl fw fa ce ck
    refine ⟨_, he, fl, length_wordsOf .., fun i hi => getElem?_wordsOf hi, fw, by rw [fa]; exact ha, fun h0 hle => ?_, ck, fun hb => ?_,
      ((((hz.onQueue q).trans (ht.onQueue q)).trans af).trans ff).frame, ?_⟩
    · rw [ce hle, ap, ue, pn h0, hz.c]
    · obtain ⟨u1, u2⟩ := uc hb
      exact ⟨by rw [cp, ap, u1, pc, hz.c], by rw [ca, ap, u2]⟩
    · rw [fo, ao, ht.linkOut, hz.linkOut]

end Sys2Proof.Machine
end

section
/-! SUPPORT. A CMD that a row of R705 or the Sundial refuses, and the Sundial's decision (R59, R62, R73, R405, R414, R415, R705). -/

namespace Sys2Proof.Machine

variable {n : Log} {q : Qn} {p : Phys} {s t u : State}

/-! ## Payload words that are not kept -/

/-- The words owed leave as one CREDIT, or stay owed (R63). -/
theorem State.creditOut_cases (s : State) (n : Log) (q : Qn) : s.creditOut n q = s ∨ s.creditOut n q
    = (s.modQ n q fun u => { u with wordCr := u.wordCr + (s.que n q).owed, owed := 0 }).send n (.credit q (s.que n q).owed) := by
  unfold State.creditOut
  dsimp only
  split
  · right
    unfold State.modQ State.que
    rfl
  · exact .inl rfl

/-- Only the word credit of the queue moves, and a CREDIT leaves at most (R62, R63). -/
structure Returned (n : Log) (q : Qn) (p : Phys) (s t : State) : Prop where
  onQueue : OnQueue n q p s t
  queue : ∃ wordCr owed, t.que n q = { s.que n q with wordCr, owed }
  sent : ∀ k ∈ t.linkOut.drop s.linkOut.length, ∃ inc, k = (n, Pkt.credit q inc)
  sun : t.sun = s.sun

theorem Returned.creditOut (s : State) (hp : s.runP n = some p) (q : Qn) : Returned n q p s (s.creditOut n q) := by
  refine ⟨.creditOut s hp q, ?_, ?_, ?_⟩
  · rcases s.creditOut_cases n q with h | h
    · rw [h]
      exact ⟨_, _, rfl⟩
    · rw [h, State.send_que, State.modQ_que]
      exact ⟨_, _, rfl⟩
  · rcases s.creditOut_cases n q with h | h
    · rw [h]
      simp
    · rw [h, State.send_linkOut]
      split
      · simp
      · simp
  · rw [(FlowFrame.creditOut n q s).state]

theorem Returned.dropPayload (s : State) (hp : s.runP n = some p) (q : Qn) (k : Nat) : Returned n q p s (s.dropPayload n p q k) := by
  have ht : ∃ w, Tallied n p s w ∧ s.dropPayload n p q k
      = (w.modQ n q fun u => if u.cfg.ring then u else (u.useCredit k).freeWords (min k u.wordCr)).creditOut n q :=
    ⟨_, .ite (.refl n p s) (.linkErr n p s 15 _), rfl⟩
  obtain ⟨w, ht, he⟩ := ht
  have hf := (ht.onQueue q).trans (.modQ n q p w fun u => if u.cfg.ring then u else (u.useCredit k).freeWords (min k u.wordCr))
  have hr := Returned.creditOut _ ((hf.runP n).trans hp) q
  rw [he]
  refine ⟨hf.trans hr.onQueue, ?_, ?_, ?_⟩
  · obtain ⟨wc, ow, hq⟩ := hr.queue
    rw [hq, State.modQ_que, ht.que]
    split
    · exact ⟨_, _, rfl⟩
    · obtain ⟨o, ho⟩ := ((s.que n q).useCredit k).freeWords_eq (min k (s.que n q).wordCr)
      rw [ho]
      unfold Que.useCredit
      split <;> exact ⟨_, _, rfl⟩
  · have h := hr.sent
    rwa [State.modQ, State.modL_linkOut, ht.linkOut] at h
  · rw [hr.sun, ht.state]
    rfl

/-! ## The rows of R705 -/

/-- The link error of a CMD's framing fault (R105). -/
def State.framed (z : State) (n : Log) (p : Phys) (f : CmdFault) : State :=
  match f with
  | .none => z
  | .parity => z.linkErr n p 3
  | .format => z.linkErr n p 5
  | .sop => z.linkErr n p 6

theorem Tallied.framed (n : Log) (p : Phys) (z : State) (f : CmdFault) : Tallied n p z (z.framed n p f) := by
  cases f with
  | none => exact .refl n p z
  | parity => exact .linkErr n p z 3 1
  | format => exact .linkErr n p z 5 1
  | sop => exact .linkErr n p z 6 1

/-- The entry of a CMD that no row refuses (R161). -/
def State.cmdEntry (z : State) (n : Log) (p : Phys) (c : CmdPkt) : Acc :=
  cmdAcc (z.que n c.queue) c (z.takePayload n p c.queue c).2 { seq := c.seq.toNat, origin := .cmd }

/-- A CMD that the Sundial refuses (R415). -/
def State.cmdRefused (z : State) (n : Log) (p : Phys) (c : CmdPkt) (w : Nat) : State :=
  ((z.refuse n c.queue (z.cmdEntry n p c).d).nak n c.queue c.seq.toNat 1 w).dropPayload n p c.queue (ceilDiv c.payload.length 64)

/-- A CMD that the Sundial has accepted into state `t` (R68). -/
def State.cmdAccepted (z : State) (n : Log) (p : Phys) (c : CmdPkt) (t : State) : State :=
  let t := t.modQ n c.queue fun u => ({ u with lastAcc := c.seq.toNat, discard := none } : Que)
  if (z.cmdEntry n p c).pre.isSome then t.modQ n c.queue fun u => u.freeWords (ceilDiv c.payload.length 64) else t

theorem exec_cmd (h : s.linked n p = true) (c : CmdPkt) : ∃ z, Met n p s z ∧ exec (.cmd n c) s = .next (z.command n p c) :=
  ⟨s.demand p, .demand h, congrArg Host.Outcome.next (State.inbound_flits _ _ h)⟩

/-- Row 1: the discard state drops a CMD. -/
theorem State.command_dropped (z : State) (p : Phys) (c : CmdPkt) (h : (z.que n c.queue).drops c.seq.toNat = true) :
    z.command n p c = (z.framed n p (framing c)).dropPayload n p c.queue (ceilDiv c.payload.length 64) := by
  unfold State.command
  dsimp only
  rw [if_pos h]
  rfl

/-- A CMD in the Sundial's hands (R414). -/
def State.decided (z : State) (n : Log) (p : Phys) (c : CmdPkt) : State :=
  match (z.takePayload n p c.queue c).1.accept n c.queue (z.cmdEntry n p c) none with
  | .inr w => z.cmdRefused n p c w
  | .inl t => ((z.cmdAccepted n p c t).send n (.ack c.queue c.seq.toNat 0)).flow n c.queue

/-- The rows behind the first: a NAK as `nakRow` gives it, row 6's answer to an old SEQ, or the Sundial's decision. -/
theorem State.command_rows (z : State) (p : Phys) (c : CmdPkt) (h : (z.que n c.queue).drops c.seq.toNat = false) :
    z.command n p c = match nakRow (z.que n c.queue) (framing c) c.seq.toNat (ceilDiv c.payload.length 64) with
      | some r => ((z.framed n p (framing c)).nak n c.queue c.seq.toNat r 0).dropPayload n p c.queue (ceilDiv c.payload.length 64)
      | none => if seqAfter c.seq.toNat (z.que n c.queue).lastAcc = false then z.oldCmd n p c.queue c else z.decided n p c := by
  unfold State.command nakRow
  dsimp only
  rw [if_neg (by rw [h]; exact Bool.false_ne_true)]
  cases hf : framing c with
  | parity | format | sop => rfl
  | none =>
    simp only [reduceCtorEq, if_false, or_self, Bool.or_eq_true, beq_iff_eq, Bool.and_eq_true, Bool.not_eq_true', decide_eq_true_eq, gt_iff_lt, ge_iff_le, State.framed]
    by_cases h8 : (z.que n c.queue).st = .disabled ∨ (z.que n c.queue).cfg.ring = true
    · simp only [if_pos h8]
    by_cases h7 : (z.que n c.queue).cfg.stream = false ∧ (z.que n c.queue).wordCr < ceilDiv c.payload.length 64
    · simp only [if_neg h8, if_pos h7]
    by_cases ho : seqAfter c.seq.toNat (z.que n c.queue).lastAcc = false
    · simp only [if_neg h8, if_neg h7, if_pos ho]
    by_cases h9 : (z.que n c.queue).st = .draining
    · simp only [if_neg h8, if_neg h7, if_neg ho, if_pos h9]
    by_cases h5 : (z.que n c.queue).st = .halted
    · simp only [if_neg h8, if_neg h7, if_neg ho, if_neg h9, if_pos h5]
    by_cases h2 : c.seq.toNat ≠ ((z.que n c.queue).lastAcc + 1) % 65536
    · simp only [if_neg h8, if_neg h7, if_neg ho, if_neg h9, if_neg h5, if_pos h2]
    by_cases h6 : (z.que n c.queue).cfg.window < (c.seq.toNat + 65536 - (z.que n c.queue).lastRet) % 65536 ∨ 16 ≤ (z.que n c.queue).subs
    · simp only [if_neg h8, if_neg h7, if_neg ho, if_neg h9, if_neg h5, if_neg h2, if_pos h6]
    simp only [if_neg h8, if_neg h7, if_neg ho, if_neg h9, if_neg h5, if_neg h2, if_neg h6]
    rfl

/-! ## The payload of a CMD -/

/-- What a CMD's payload moves when it enters the FIFO: no descriptor but for its payload, and no output (R62, R320). -/
structure Paid (n : Log) (q : Qn) (p : Phys) (s t : State) : Prop where
  onQueue : OnQueue n q p s t
  sun : t.sun = s.sun
  nextId : t.nextId = s.nextId + if (s.que n q).cfg.stream then 1 else 0
  queue : ∃ (g : Acc → Acc) (link : List LEnt) (halt : Option Halt) (mark : Option Nat) (wordCr : Nat), (∀ a, ∃ payload, g a = { a with payload })
    ∧ t.que n q = { s.que n q with acc := (s.que n q).acc.map g, link, halt, mark, wordCr }

theorem Que.useCredit_eq (u : Que) (k : Nat) : ∃ wordCr, u.useCredit k = { u with wordCr } := by
  unfold Que.useCredit
  split <;> exact ⟨_, rfl⟩

/-- STREAM words in the FIFO: markers with an error of their store word are spoiled, and one identity is used (R320, R322). -/
def State.streamed (w : State) (n : Log) (q : Qn) (ids : List Nat) (mark : Option Nat) : State :=
  { w.modQ n q fun u => { u.mapFifo (spoiled ids) with mark } with nextId := w.nextId + 1 }

theorem Paid.streamed (w : State) (p : Phys) (hs : (w.que n q).cfg.stream = true) (ids : List Nat) (mark : Option Nat) : Paid n q p w (w.streamed n q ids mark) := by
  refine ⟨(OnQueue.modQ n q p w _).trans (.nextId n q p _ _), rfl, by rw [if_pos hs]; rfl, ?_⟩
  have hq : (w.streamed n q ids mark).que n q = { (w.que n q).mapFifo (spoiled ids) with mark } := w.modQ_que n q _
  rw [hq]
  refine ⟨_, _, _, _, _, fun a => ?_, rfl⟩
  split <;> exact ⟨_, rfl⟩

theorem Paid.credited (w : State) (p : Phys) (hs : ¬(w.que n q).cfg.stream = true) (k : Nat) (f : Option Nat → Option Nat) :
    Paid n q p w (w.modQ n q fun u => { u.useCredit k with mark := f u.mark }) := by
  refine ⟨.modQ n q p w _, rfl, by rw [if_neg hs]; rfl, ?_⟩
  obtain ⟨wc, hu⟩ := (w.que n q).useCredit_eq k
  rw [State.modQ_que, hu]
  exact ⟨id, _, _, _, _, fun a => ⟨_, rfl⟩, by rw [List.map_id]⟩

theorem Tallied.paid (h : Tallied n p s t) (k : Paid n q p t u) : Paid n q p s u := by
  obtain ⟨ho, hs, hi, hq⟩ := k
  rw [h.que] at hi hq
  exact ⟨(h.onQueue q).trans ho, by rw [hs, h.state], by rw [hi, h.state], hq⟩

theorem Paid.tallied (h : Paid n q p s t) (k : Tallied n p t u) : Paid n q p s u := by
  obtain ⟨ho, hs, hi, hq⟩ := h
  exact ⟨ho.trans (k.onQueue q), by rw [k.state, hs], by rw [k.state, hi], by rw [k.que]; exact hq⟩

theorem Paid.takePayload (s : State) (p : Phys) (q : Qn) (c : CmdPkt) : Paid n q p s (s.takePayload n p q c).1 := by
  have ht := Tallied.payUpset n p s (wordsOf c.payload c.psn c.upset).length c.upset
  unfold State.takePayload
  dsimp only
  rw [← ht.que n q]
  generalize s.payUpset p (wordsOf c.payload c.psn c.upset).length c.upset = w at ht ⊢
  split
  · next hs =>
    exact ht.paid ((Paid.streamed w p hs _ _).tallied (.ite (.refl n p _) (.modC n p _ _)))
  · next hs => exact ht.paid (Paid.credited w p hs _ fun mark => if (wordsOf c.payload c.psn c.upset).isEmpty then mark else none)

/-- CREDITED words hold no gap. -/
theorem anyGap_wordsOf (pay : List Byte) (psn : List Bool) (upset : List Nat) : anyGap (wordsOf pay psn upset) = false := by
  unfold anyGap wordsOf
  rw [List.any_map]
  exact List.any_eq_false.mpr fun _ _ => Bool.false_ne_true

theorem State.takePayload_gap (s : State) (p : Phys) (c : CmdPkt) :
    anyGap (s.takePayload n p q c).2 = false ∨ (s.que n q).cfg.stream = true := by
  unfold State.takePayload
  dsimp only
  split
  · next h => exact .inr h
  · exact .inl (anyGap_wordsOf ..)

/-! ## The Sundial's decision -/

/-- An entry that anchors what follows it at its start (R411, R414). -/
def Acc.leads (x : Acc) : Bool := x.runs && !x.begun && x.startKind

theorem Acc.leads_eq : (fun x : Acc => x.runs && !x.begun && x.startKind) = Acc.leads := rfl

/-- A payload that moves changes nobody's lead. -/
theorem Acc.leads_payload (x : Acc) (payload : List LEnt) : ({ x with payload } : Acc).leads = x.leads := rfl

/-- A promised descriptor behind `before` that R414 admits whatever the horizon is: a WAIT, one anchored at its start, or one that only writes a record. -/
def Acc.unbooked (a : Acc) (before : List Acc) : Bool :=
  a.isWait || a.startKind || before.any Acc.leads || recordOnly a.d none

/-- What the Sundial admits (R414). -/
theorem State.sunDecide_admits (s : State) (n : Log) (q : Qn) (a : Acc) (before : List Acc) (k : Nat)
    (h : (s.que n q).cfg.res = 0 ∨ a.unbooked before = true ∨ (s.que n q).f ≤ s.aclk) : ∃ r, s.sunDecide n q a before k = .inl r := by
  unfold State.sunDecide
  dsimp only
  rw [Acc.leads_eq]
  split
  · exact ⟨_, rfl⟩
  · next hres =>
    split
    · exact ⟨_, rfl⟩
    · next hw =>
      split
      · exact ⟨_, rfl⟩
      · next hb =>
        split
        · exact ⟨_, rfl⟩
        · next hr =>
          split
          · next hf =>
            rcases h with h | h | h
            · contradiction
            · simp only [Acc.unbooked, Acc.isWait, Acc.startKind, Acc.d, Bool.or_eq_true, Bool.and_eq_true, Bool.not_eq_true'] at h hw hb hr
              grind
            · omega
          · exact ⟨_, rfl⟩

/-- What it refuses, and the wait that it answers (R415). -/
theorem State.sunDecide_refuses (s : State) (n : Log) (q : Qn) (a : Acc) (before : List Acc) (k : Nat)
    (hres : 0 < (s.que n q).cfg.res) (hu : a.unbooked before = false) (hf : s.aclk < (s.que n q).f) : s.sunDecide n q a before k = .inr ((s.que n q).f - s.aclk) := by
  simp only [Acc.unbooked, Bool.or_eq_false_iff] at hu
  obtain ⟨⟨⟨hw, hk⟩, hb⟩, hr⟩ := hu
  unfold State.sunDecide
  dsimp only
  rw [Acc.leads_eq, if_neg (by omega)]
  simp only [Acc.isWait, Acc.startKind, Acc.d] at hw hk hb hr ⊢
  simp only [hw, hk, hb, hr, Bool.or_self, Bool.and_false, Bool.false_eq_true, if_false, gt_iff_lt, if_pos hf]

/-- What an admission makes of the descriptor (R410, R414). -/
theorem State.sunDecide_inl {a b : Acc} {before : List Acc} {k : Nat} {mv : Bool} (h : s.sunDecide n q a before k = .inl (b, mv)) :
    ∃ term safe anchored anchor deadline, b = { a with term, safe, anchored, anchor, deadline } := by
  unfold State.sunDecide at h
  dsimp only at h
  split at h
  · cases h
    exact ⟨_, _, _, _, _, rfl⟩
  · split at h
    · cases h
      exact ⟨_, _, _, _, _, rfl⟩
    · split at h
      · cases h
        exact ⟨_, _, _, _, _, rfl⟩
      · split at h
        · cases h
          exact ⟨_, _, _, _, _, rfl⟩
        · split at h
          · cases h
          · cases h
            exact ⟨_, _, _, _, _, rfl⟩

/-! ## Acceptance -/

/-- The entries of a queue before the one that acceptance puts at its end. -/
def State.earlier (s : State) (n : Log) (q : Qn) (a : Acc) : List Acc :=
  (insertAcc { a with id := s.nextId } none (s.que n q).acc).takeWhile fun x => x.id ≠ s.nextId

/-- None of them is the new one. -/
theorem State.mem_earlier {a x : Acc} (h : x ∈ s.earlier n q a) : x ∈ (s.que n q).acc := by
  have hid := List.mem_takeWhile_imp h
  have hm := (List.takeWhile_sublist _).mem h
  simp only [insertAcc, List.mem_append, List.mem_singleton] at hm
  rcases hm with hm | rfl
  · exact hm
  · simp at hid

/-- Under fresh identities they are all that stood there. -/
theorem State.earlier_all (a : Acc) (h : ∀ x ∈ (s.que n q).acc, x.id < s.nextId) : s.earlier n q a = (s.que n q).acc := by
  unfold State.earlier insertAcc
  rw [List.takeWhile_append_of_pos fun x hx => decide_eq_true (Nat.ne_of_lt (h x hx))]
  simp

/-- What acceptance does with state and queue (R68, R414). -/
structure Entered (n : Log) (q : Qn) (a : Acc) (s t : State) : Prop where
  onQueue (p : Phys) : OnQueue n q p s t
  queue : ∃ b f lastB, t.que n q = { s.que n q with acc := (s.que n q).acc ++ [b], f, lastB }
    ∧ b.id = s.nextId ∧ b.seq = a.seq ∧ b.bytes = a.bytes ∧ b.origin = a.origin ∧ b.stage = a.stage

theorem Que.late_eq (u : Que) (a : Acc) : ∃ notRun deadline, u.late a = { a with notRun, deadline } := by
  unfold Que.late
  split <;> exact ⟨_, _, rfl⟩

/-- The new entry stands at the end of its queue. -/
def State.putLast (s : State) (n : Log) (q : Qn) (b : Acc) : State :=
  { s.modQ n q fun u => { u with acc := insertAcc (u.late b) none u.acc } with nextId := s.nextId + 1 }

theorem Entered.putLast (s : State) (n : Log) (q : Qn) {a b : Acc} (hid : b.id = s.nextId) (hseq : b.seq = a.seq) (hb : b.bytes = a.bytes) (ho : b.origin = a.origin)
    (hst : b.stage = a.stage) : Entered n q a s (s.putLast n q b) := by
  refine ⟨fun p => (OnQueue.modQ n q p s _).trans (.nextId n q p _ _), ?_⟩
  obtain ⟨nr, dl, hl⟩ := (s.que n q).late_eq b
  have hq : (s.putLast n q b).que n q = { s.que n q with acc := (s.que n q).acc ++ [{ b with notRun := nr, deadline := dl }] } := by
    rw [← hl]
    exact s.modQ_que n q _
  exact ⟨_, _, _, hq, hid, hseq, hb, ho, hst⟩

theorem Entered.touchF {a : Acc} (h : Entered n q a s t) (b : Acc) : Entered n q a s (t.modQ n q fun u => u.touchF b) := by
  obtain ⟨ho, c, f, l, hq, hc⟩ := h
  have he : (t.modQ n q fun u => u.touchF b).que n q = Que.touchF { s.que n q with acc := (s.que n q).acc ++ [c], f, lastB := l } b := by rw [State.modQ_que, hq]
  exact ⟨fun p => (ho p).trans (.modQ n q p t _), c, _, _, he, hc⟩

theorem Entered.charge {a : Acc} {d : Desc} (h : Entered n q a (s.charge n q d) t) : Entered n q a s t :=
  ⟨fun p => (OnQueue.sun n q p s _).trans (h.onQueue p), h.queue⟩

/-- A descriptor that fails its checks is accepted without the Sundial (R162). -/
theorem State.accept_failed (s : State) (n : Log) (q : Qn) {a : Acc} (h : a.pre.isSome = true) : s.accept n q a none = .inl (s.putLast n q { a with id := s.nextId }) := by
  unfold State.accept
  dsimp only
  rw [if_pos (by rw [h]; rfl)]
  rfl

/-- The state of an acceptance as `b`, with whether the horizon moves (R414). -/
def State.admitted (s : State) (n : Log) (q : Qn) (b : Acc) (mv : Bool) : State :=
  let t := s.putLast n q (if (s.que n q).st == .halted then { b with deadline := none } else b)
  if mv then t.modQ n q fun u => u.touchF b else t

/-- A descriptor that passes its checks is the Sundial's to accept (R414). -/
theorem State.accept_checked (s : State) (n : Log) (q : Qn) {a : Acc} (h : a.pre = none) (hs : a.subst = false) : s.accept n q a none
    = match (s.charge n q a.d).sunDecide n q { a with id := s.nextId } (s.earlier n q a) ((s.que n q).recNo (s.earlier n q a).length) with
      | .inl (b, mv) => .inl ((s.charge n q a.d).admitted n q b mv)
      | .inr w => .inr w := by
  unfold State.accept
  dsimp only
  rw [if_neg (by rw [h, hs]; exact Bool.false_ne_true)]
  rfl

theorem Entered.admitted {a b : Acc} {before : List Acc} {k : Nat} {mv : Bool} (h : s.sunDecide n q { a with id := s.nextId } before k = .inl (b, mv)) :
    Entered n q a s (s.admitted n q b mv) := by
  obtain ⟨term, safe, anchored, anchor, deadline, hb⟩ := State.sunDecide_inl h
  have hp : Entered n q a s (s.putLast n q (if (s.que n q).st == .halted then { b with deadline := none } else b)) := by
    rw [hb]
    split
    · exact .putLast s n q rfl rfl rfl rfl rfl
    · exact .putLast s n q rfl rfl rfl rfl rfl
  unfold State.admitted
  dsimp only
  split
  · exact hp.touchF b
  · exact hp

theorem Entered.accept {a : Acc} (hs : a.subst = false) (h : s.accept n q a none = .inl t) : Entered n q a s t := by
  cases hp : a.pre with
  | some r =>
    rw [s.accept_failed n q (by rw [hp]; rfl)] at h
    cases h
    exact .putLast s n q rfl rfl rfl rfl rfl
  | none =>
    rw [s.accept_checked n q hp hs] at h
    split at h
    · next b mv hr =>
      cases h
      exact (Entered.admitted hr).charge
    · cases h

/-- Acceptance answers a refusal's wait (R415). -/
theorem State.accept_refused (s : State) {a : Acc} (hp : a.pre = none) (hs : a.subst = false) (hres : 0 < (s.que n q).cfg.res)
    (hu : a.unbooked (s.earlier n q a) = false) (hf : s.aclk < (s.que n q).f) : s.accept n q a none = .inr ((s.que n q).f - s.aclk) := by
  rw [s.accept_checked n q hp hs, State.sunDecide_refuses (s.charge n q a.d) n q { a with id := s.nextId } _ _ hres hu hf]
  rfl

/-- What it always accepts (R162, R414). -/
theorem State.accept_admitted (s : State) {a : Acc} (hs : a.subst = false)
    (h : a.pre.isSome = true ∨ (s.que n q).cfg.res = 0 ∨ a.unbooked (s.earlier n q a) = true ∨ (s.que n q).f ≤ s.aclk) : ∃ t, s.accept n q a none = .inl t := by
  cases hp : a.pre with
  | some r => exact ⟨_, s.accept_failed n q (by rw [hp]; rfl)⟩
  | none =>
    rw [hp] at h
    obtain ⟨r, hr⟩ := State.sunDecide_admits (s.charge n q a.d) n q { a with id := s.nextId } (s.earlier n q a) ((s.que n q).recNo (s.earlier n q a).length)
      (h.resolve_left Bool.false_ne_true)
    rw [s.accept_checked n q hp hs, hr]
    exact ⟨_, rfl⟩

/-! ## The entry of a CMD -/

/-- A CMD's entry names the CMD (R68). -/
theorem cmdAcc_eq (u : Que) (c : CmdPkt) (pay : List LEnt) (a : Acc) : ∃ payload pre tagF, cmdAcc u c pay a = { a with bytes := c.desc, have_ := true, payload, pre, tagF } := by
  unfold cmdAcc checked
  dsimp only
  split <;> split <;> exact ⟨_, _, _, rfl⟩

/-- It has failed the checks of R161 when they fail. -/
theorem cmdAcc_pre (u : Que) (c : CmdPkt) (pay : List LEnt) (a : Acc) (ha : a.pre = none) :
    (cmdAcc u c pay a).pre.isSome = (descFail c.desc c.descPsn (u.dctx c.payload.length true (anyGap pay))).isSome := by
  unfold cmdAcc checked
  dsimp only
  cases h : descFail c.desc c.descPsn (u.dctx c.payload.length true (anyGap pay)) with
  | none => simp [ha]
  | some r => rfl

theorem Paid.leads (h : Paid n q p s t) : ((t.que n q).acc.any Acc.leads) = (s.que n q).acc.any Acc.leads := by
  obtain ⟨g, _, _, _, _, hg, hq⟩ := h.queue
  rw [hq, List.any_map]
  congr 1
  funext x
  obtain ⟨payload, e⟩ := hg x
  rw [Function.comp, e, Acc.leads_payload]

/-- The entry of a CMD as the Sundial sees it. -/
theorem State.cmdEntry_eq (z : State) (n : Log) (p : Phys) (c : CmdPkt) : (z.cmdEntry n p c).seq = c.seq.toNat ∧ (z.cmdEntry n p c).bytes = c.desc
    ∧ (z.cmdEntry n p c).origin = .cmd ∧ (z.cmdEntry n p c).stage = .accepted ∧ (z.cmdEntry n p c).subst = false := by
  obtain ⟨_, _, _, h⟩ := cmdAcc_eq (z.que n c.queue) c (z.takePayload n p c.queue c).2 { seq := c.seq.toNat, origin := .cmd }
  unfold State.cmdEntry
  rw [h]
  exact ⟨rfl, rfl, rfl, rfl, rfl⟩

theorem State.cmdEntry_pre (z : State) (n : Log) (p : Phys) (c : CmdPkt) : (z.cmdEntry n p c).pre.isSome
    = (descFail c.desc c.descPsn ((z.que n c.queue).dctx c.payload.length true (anyGap (z.takePayload n p c.queue c).2))).isSome :=
  cmdAcc_pre _ c _ _ rfl

/-- A CMD that R414 does not admit behind its queue's horizon. -/
theorem State.decided_refused (z : State) (p : Phys) (c : CmdPkt) (hpre : (z.cmdEntry n p c).pre = none) (hres : 0 < (z.que n c.queue).cfg.res)
    (hu : (z.cmdEntry n p c).unbooked [] = false) (hl : (z.que n c.queue).acc.any Acc.leads = false) (hf : z.aclk < (z.que n c.queue).f) :
    z.decided n p c = z.cmdRefused n p c ((z.que n c.queue).f - z.aclk) := by
  obtain ⟨_, _, _, _, hsub⟩ := z.cmdEntry_eq n p c
  have hp := Paid.takePayload (n := n) z p c.queue c
  have hl' := hp.leads.trans hl
  have ha := hp.onQueue.aclk
  obtain ⟨_, _, _, _, _, _, hq⟩ := hp.queue
  have hw : (z.takePayload n p c.queue c).1.accept n c.queue (z.cmdEntry n p c) none
      = .inr (((z.takePayload n p c.queue c).1.que n c.queue).f - (z.takePayload n p c.queue c).1.aclk) := by
    refine State.accept_refused _ hpre hsub (by rw [hq]; exact hres) ?_ (by rw [hq, ha]; exact hf)
    have hb : ((z.takePayload n p c.queue c).1.earlier n c.queue (z.cmdEntry n p c)).any Acc.leads = false :=
      List.any_eq_false.mpr fun x hx => List.any_eq_false.mp hl' x (State.mem_earlier hx)
    simpa only [Acc.unbooked, hb, List.any_nil] using hu
  rw [hq, ha] at hw
  unfold State.decided
  rw [hw]

/-! ## The command -/

/-- What a CMD at a linked port finds. -/
theorem exec_cmd_rows (hs : s.linked n p = true) (c : CmdPkt) (h : (s.que n c.queue).drops c.seq.toNat = false) : ∃ z, Met n p s z
    ∧ exec (.cmd n c) s = .next (match nakRow (s.que n c.queue) (framing c) c.seq.toNat (ceilDiv c.payload.length 64) with
      | some r => ((z.framed n p (framing c)).nak n c.queue c.seq.toNat r 0).dropPayload n p c.queue (ceilDiv c.payload.length 64)
      | none => if seqAfter c.seq.toNat (s.que n c.queue).lastAcc = false then z.oldCmd n p c.queue c else z.decided n p c) := by
  obtain ⟨z, hz, he⟩ := exec_cmd hs c
  have hr := z.command_rows (n := n) p c (by rw [hz.que]; exact h)
  rw [hz.que] at hr
  exact ⟨z, hz, he.trans (congrArg _ hr)⟩

/-- A NAK of a CMD, whose payload words are returned: `w` has counted what it counts. -/
theorem State.nak_dropPayload {w : State} (hr : w.runP n = some p) (ht : w.tap.drives = false) (q : Qn) (seq reason after k : Nat) :
    (n, .nak q seq reason (min after 65535) (((w.que n q).lastAcc + 1) % 65536)) ∈ ((w.nak n q seq reason after).dropPayload n p q k).linkOut
      ∧ ((w.nak n q seq reason after).dropPayload n p q k).sun = w.sun
      ∧ (∃ wordCr owed, ((w.nak n q seq reason after).dropPayload n p q k).que n q = { w.que n q with discard := some seq, wordCr, owed })
      ∧ OnQueue n q p w ((w.nak n q seq reason after).dropPayload n p q k) := by
  have hn := OnQueue.nak n q p w seq reason after
  have hd := Returned.dropPayload (w.nak n q seq reason after) ((hn.runP n).trans hr) q k
  have hm : (n, .nak q seq reason (min after 65535) (((w.que n q).lastAcc + 1) % 65536)) ∈ (w.nak n q seq reason after).linkOut := by
    rw [State.nak_linkOut _ _ _ _ _ _ ht]
    exact List.mem_append_right _ (List.mem_singleton_self _)
  obtain ⟨wc, ow, hq⟩ := hd.queue
  refine ⟨hd.onQueue.sent.subset hm, hd.sun.trans ?_, ⟨wc, ow, ?_⟩, hn.trans hd.onQueue⟩
  · rw [State.nak, (FlowFrame.send n q _ _).state]
    rfl
  · rw [hq, State.nak_que]

end Sys2Proof.Machine
end

section
namespace Sys2Proof.Machine

/-- Settles O29: the rows by `State.command_rows`, the Sundial's refusal by `State.decided_refused`; what a NAK returns of the payload moves word credit alone (`Returned`). -/
theorem refusedCommandsAreAnswered : Obligations.RefusedCommandsAreAnswered := by
  intro s n p c hs
  refine ⟨fun reason hd hr => ?_, fun hd => ?_, fun hd hr ha hres hchk hop hhold hfence hpart hrec hlead hf => ?_⟩
  · obtain ⟨z, hz, he⟩ := exec_cmd_rows hs c hd
    rw [hr] at he
    have ht := Tallied.framed n p z (framing c)
    have hzw := (hz.onQueue c.queue).trans (ht.onQueue c.queue)
    obtain ⟨hm, _, ⟨wc, ow, hq⟩, hn⟩ := State.nak_dropPayload (((ht.onQueue 0).runP n).trans hz.run) (by rw [(ht.onQueue 0).tap, hz.pins]) c.queue c.seq.toNat reason 0
      (ceilDiv c.payload.length 64)
    rw [ht.que, hz.que] at hm hq
    exact ⟨_, he, hm, by rw [hq], by rw [hq], by rw [hq], by rw [hq], (hzw.trans hn).frame⟩
  · obtain ⟨z, hz, he⟩ := exec_cmd hs c
    rw [z.command_dropped p c (by rw [hz.que]; exact hd)] at he
    have ht := Tallied.framed n p z (framing c)
    have hdr := Returned.dropPayload _ (((ht.onQueue 0).runP n).trans hz.run) c.queue (ceilDiv c.payload.length 64)
    obtain ⟨wc, ow, hq⟩ := hdr.queue
    rw [ht.que, hz.que] at hq
    have hsent := hdr.sent
    rw [ht.linkOut, hz.linkOut] at hsent
    exact ⟨_, he, by rw [hq], by rw [hq], by rw [hq], hsent, (((hz.onQueue c.queue).trans (ht.onQueue c.queue)).trans hdr.onQueue).frame⟩
  · obtain ⟨z, hz, he⟩ := exec_cmd_rows hs c hd
    rw [hr] at he
    dsimp only at he
    rw [if_neg (by rw [ha]; exact Bool.noConfusion)] at he
    obtain ⟨_, eb, _, _, _⟩ := z.cmdEntry_eq n p c
    have hpre : (z.cmdEntry n p c).pre = none := by
      rw [← Option.isNone_iff_eq_none, ← Option.not_isSome, z.cmdEntry_pre n p c, hz.que, hchk _ ((z.takePayload_gap p c).imp_right fun e => by rw [← hz.que]; exact e)]
      rfl
    have hu : (z.cmdEntry n p c).unbooked [] = false := by
      simp only [Acc.unbooked, Acc.isWait, Acc.startKind, Acc.d, eb, hhold, hfence, hpart, hrec, List.any_nil, Bool.or_false, beq_eq_false_iff_ne]
      exact hop
    have hl : (z.que n c.queue).acc.any Acc.leads = false := by
      rw [hz.que]
      refine List.any_eq_false.mpr fun x hx => ?_
      simp only [Acc.leads, Bool.and_eq_true, Bool.not_eq_true']
      exact fun ⟨⟨h1, h2⟩, h3⟩ => Bool.false_ne_true ((hlead x hx h1 h2).symm.trans h3)
    rw [z.decided_refused p c hpre (by rw [hz.que]; exact hres) hu hl (by rw [hz.que, hz.aclk]; exact hf), hz.que, hz.aclk, State.cmdRefused] at he
    have hf' : OnQueue n c.queue p z (z.refuse n c.queue (z.cmdEntry n p c).d) := .sun n c.queue p z _
    obtain ⟨hm, hsun, ⟨wc, ow, hq⟩, hn⟩ := State.nak_dropPayload ((hf'.runP n).trans hz.run) (by rw [hf'.tap, hz.pins]) c.queue c.seq.toNat 1
      ((s.que n c.queue).f - s.aclk) (ceilDiv c.payload.length 64)
    have hqz : (z.refuse n c.queue (z.cmdEntry n p c).d).que n c.queue = s.que n c.queue := (State.que_congr rfl n c.queue).trans (hz.que n c.queue)
    rw [hqz] at hm hq
    refine ⟨_, he, hm, hsun.trans ?_, by rw [hq], by rw [hq], by rw [hq], by rw [hq], (((hz.onQueue c.queue).trans hf').trans hn).frame⟩
    simp only [State.refuse, State.charge, hz.que, hz.sun, Acc.d, eb, satAdd, gt_iff_lt, hres, decide_true, Bool.true_and]

end Sys2Proof.Machine
end

section
/-! SUPPORT. A CMD that is accepted (R68, R414, R705). -/

namespace Sys2Proof.Machine

variable {n : Log} {q : Qn} {p : Phys} {s t : State}

/-- An admission whatever the horizon is, from what stands before the descriptor (R414). -/
theorem Acc.unbooked_of {a : Acc} {before : List Acc} (h : Desc.op a.d = 0x38 ∨ Desc.hold a.d = true ∨ Desc.fence a.d = true ∨ Desc.isParterre a.d = true
    ∨ recordOnly a.d none = true ∨ before.any Acc.leads = true) : a.unbooked before = true := by
  unfold Acc.unbooked Acc.isWait Acc.startKind
  rcases h with h | h | h | h | h | h <;> simp [h]

/-- The queue and the port after an acceptance, before the data path runs. -/
theorem State.cmdAccepted_facts {a : Acc} (z : State) (p : Phys) (c : CmdPkt) (h : Entered n c.queue a s t) (ht : s.tap.drives = false) :
    OnQueue n c.queue p s ((z.cmdAccepted n p c t).send n (.ack c.queue c.seq.toNat 0))
      ∧ (n, .ack c.queue c.seq.toNat 0) ∈ ((z.cmdAccepted n p c t).send n (.ack c.queue c.seq.toNat 0)).linkOut
      ∧ ∃ b f lastB owed, ((z.cmdAccepted n p c t).send n (.ack c.queue c.seq.toNat 0)).que n c.queue
          = { s.que n c.queue with acc := (s.que n c.queue).acc ++ [b], f, lastB, owed, lastAcc := c.seq.toNat, discard := none }
        ∧ b.id = s.nextId ∧ b.seq = a.seq ∧ b.bytes = a.bytes ∧ b.origin = a.origin ∧ b.stage = a.stage := by
  have hack : ∀ v : State, v.tap = s.tap → (n, .ack c.queue c.seq.toNat 0) ∈ (v.send n (.ack c.queue c.seq.toNat 0)).linkOut := fun v hv => by
    rw [State.send_pins v n _ (by rw [hv]; exact ht)]
    exact List.mem_append_right _ (List.mem_singleton_self _)
  obtain ⟨ho, b, f, l, hq, hb⟩ := h
  have hm := (ho p).trans (.modQ n c.queue p t fun u => { u with lastAcc := c.seq.toNat, discard := none })
  have hmq := t.modQ_que n c.queue fun u => { u with lastAcc := c.seq.toNat, discard := none }
  unfold State.cmdAccepted
  dsimp only
  generalize (t.modQ n c.queue fun u => { u with lastAcc := c.seq.toNat, discard := none }) = w at hm hmq ⊢
  rw [hq] at hmq
  rw [State.send_que]
  split
  · obtain ⟨ow, hw⟩ := (w.que n c.queue).freeWords_eq (ceilDiv c.payload.length 64)
    have hv := hm.trans (.modQ n c.queue p w fun u => u.freeWords (ceilDiv c.payload.length 64))
    refine ⟨hv.trans (.send n c.queue p _ _), hack _ hv.tap, b, f, l, ow, ?_, hb⟩
    rw [State.modQ_que, hw, hmq]
  · exact ⟨hm.trans (.send n c.queue p _ _), hack _ hm.tap, b, f, l, _, hmq, hb⟩

/-- The payload's way into the FIFO leaves identities fresh. -/
theorem Paid.fresh (h : Paid n q p s t) (hs : ∀ x ∈ (s.que n q).acc, x.id < s.nextId) : ∀ x ∈ (t.que n q).acc, x.id < t.nextId := by
  obtain ⟨g, _, _, _, _, hg, hq⟩ := h.queue
  intro x hx
  rw [hq] at hx
  obtain ⟨y, hy, rfl⟩ := List.mem_map.mp hx
  obtain ⟨_, e⟩ := hg y
  have hn := h.nextId
  have hl := hs y hy
  rw [e]
  show y.id < t.nextId
  omega

/-- What admits a CMD whatever the horizon is: its descriptor, or one of fresh identity that it follows (R411, R414). -/
theorem Paid.unbooked (h : Paid n q p s t) {a : Acc} (ha : Desc.op a.d = 0x38 ∨ Desc.hold a.d = true ∨ Desc.fence a.d = true ∨ Desc.isParterre a.d = true
    ∨ recordOnly a.d none = true ∨ ((∀ x ∈ (s.que n q).acc, x.id < s.nextId) ∧ (s.que n q).acc.any Acc.leads = true)) : a.unbooked (t.earlier n q a) = true := by
  refine Acc.unbooked_of (ha.imp_right (Or.imp_right (Or.imp_right (Or.imp_right (Or.imp_right fun ⟨hf, hl⟩ => ?_)))))
  rw [State.earlier_all a (h.fresh hf), h.leads, hl]

end Sys2Proof.Machine
end

section
namespace Sys2Proof.Machine

/-- Settles O30: the Sundial admits the entry (`State.accept_admitted`), which stands at the end of its queue (`Entered`); the data path keeps it there. -/
theorem admittedCommandsAreAccepted : Obligations.AdmittedCommandsAreAccepted := by
  intro s n p c hs q u hd hr ha hadm
  obtain ⟨z, hz, he⟩ := exec_cmd_rows hs c hd
  rw [hr] at he
  dsimp only at he
  rw [if_neg (by rw [ha]; exact Bool.noConfusion)] at he
  have hp := Paid.takePayload (n := n) z p c.queue c
  obtain ⟨eseq, eb, eorig, estage, hsub⟩ := z.cmdEntry_eq n p c
  obtain ⟨g, link, halt, mark, wc, hg, hq⟩ := hp.queue
  have hacc : ∃ t, (z.takePayload n p c.queue c).1.accept n c.queue (z.cmdEntry n p c) none = .inl t := by
    have hu : (z.que n c.queue) = u := hz.que n c.queue
    refine State.accept_admitted _ hsub ?_
    rw [hq, hp.onQueue.aclk, hz.aclk, hu]
    rcases hadm with h | ⟨h, hstr⟩ | h | h
    · exact .inr (.inl h)
    · left
      rw [z.cmdEntry_pre n p c, hu, (z.takePayload_gap p c).resolve_right (by rw [hu, hstr]; exact Bool.false_ne_true)]
      exact h
    · exact .inr (.inr (.inr h))
    · refine .inr (.inr (.inl (hp.unbooked ?_)))
      rw [hu, hz.nextId, Acc.d, eb]
      exact h
  obtain ⟨t, ht⟩ := hacc
  have hent := Entered.accept hsub ht
  obtain ⟨hf, hack, b, f, l, ow, hbq, bid, bseq, bb, bo, bst⟩ := State.cmdAccepted_facts z p c hent (by rw [hp.onQueue.tap, hz.pins])
  have hzf := (hp.onQueue).trans hf
  rw [State.decided, ht] at he
  have hfl := FlowFrame.flow n c.queue ((z.cmdAccepted n p c t).send n (.ack c.queue c.seq.toNat 0))
  obtain ⟨fq, fa⟩ := hfl.queue
  obtain ⟨b', hb', hbb⟩ := fa.mem (a := b) (by rw [hbq]; exact List.mem_append_right _ (List.mem_singleton_self _))
  have hlen := fa.length
  unfold sameQueue at fq
  rw [hbq, hq, hz.que] at fq
  rw [hbq, hq, hz.que] at hlen
  refine ⟨_, he, by rw [fq], by rw [fq], ⟨b', hb', ?_, ?_, ?_, ?_, ?_⟩, ?_, by rw [fq], by rw [fq], hfl.sent.subset hack,
    ((hz.onQueue c.queue).trans (hzf.trans (hfl.onQueue ((hzf.runP n).trans hz.run)))).frame⟩
  · rw [hbb.1]; exact bseq.trans eseq
  · rw [hbb.1]; exact bb.trans eb
  · rw [hbb.1]; exact bo.trans eorig
  · rw [hbb.1]; exact bst.trans estage
  · rw [hbb.1]
    refine bid.trans (hp.nextId.trans ?_)
    rw [hz.nextId, hz.que]
  · rw [hlen, List.length_append, List.length_map]
    rfl

end Sys2Proof.Machine
end

section
/-! SUPPORT. FLUSH and LK_WAKE (R93, R94, R315 to R317, R323 to R325, R624). -/

namespace Sys2Proof.Machine

variable {n : Log} {q : Qn} {p : Phys} {s t u : State}

/-! ## What a FLUSH drops from the host-out FIFO -/

theorem map_updFirst {α β : Type} (p : α → Bool) (f : α → α) (g : α → β) (hf : ∀ a, g (f a) = g a) (l : List α) : (updFirst p f l).map g = l.map g := by
  induction l with
  | nil => rfl
  | cons a l ih =>
    unfold updFirst
    split
    · simp only [List.map_cons, hf]
    · simp only [List.map_cons, ih]

/-- What a descriptor is to its queue's order and its link FIFO. -/
def Acc.place (a : Acc) : Nat × List LEnt := (a.id, a.inFifo)

/-- An entry of the pending queue that is no data write and shares its tag with none. -/
def Txn.spared (e : Txn) (l : List Txn) : Prop := (∀ id k, e.own ≠ .wr id k) ∧ ∀ f ∈ l, e.isEntry f = true → f = e

/-- What dropping host-out words leaves: execution state, the host-out FIFO and pending writes go alone. -/
structure Lost (n : Log) (q : Qn) (p : Phys) (s t : State) : Prop where
  onQueue : OnQueue n q p s t
  linkOut : t.linkOut = s.linkOut
  nextId : t.nextId = s.nextId
  queue : ∃ acc hout houtR, t.que n q = { s.que n q with acc, hout, houtR } ∧ acc.map Acc.place = (s.que n q).acc.map Acc.place
  page : ∃ pend, t.phys[p] = { s.phys[p] with pend } ∧ (∀ e ∈ pend, e ∈ s.phys[p].pend) ∧ ∀ e ∈ s.phys[p].pend, e.spared s.phys[p].pend → e ∈ pend

theorem Lost.refl (n : Log) (q : Qn) (p : Phys) (s : State) : Lost n q p s s :=
  ⟨.refl n q p s, rfl, rfl, ⟨_, _, _, rfl, rfl⟩, _, rfl, fun _ h => h, fun _ h _ => h⟩

theorem Lost.trans (h : Lost n q p s t) (k : Lost n q p t u) : Lost n q p s u := by
  obtain ⟨a, _, _, hq, ha⟩ := h.queue
  obtain ⟨b, o, r, kq, kb⟩ := k.queue
  obtain ⟨d, hp, hd, hs⟩ := h.page
  obtain ⟨e, kp, ke, ks⟩ := k.page
  rw [hq] at kq kb
  rw [hp] at kp ke ks
  exact ⟨h.onQueue.trans k.onQueue, k.linkOut.trans h.linkOut, k.nextId.trans h.nextId, ⟨b, o, r, kq, kb.trans ha⟩, e, kp, fun x hx => hd x (ke x hx),
    fun x hx hsp => ks x (hs x hx hsp) ⟨hsp.1, fun f hf => hsp.2 f (hd f hf)⟩⟩

theorem Lost.modQ (n : Log) (q : Qn) (p : Phys) (s : State) {f : Que → Que}
    (hf : ∃ acc hout houtR, f (s.que n q) = { s.que n q with acc, hout, houtR } ∧ acc.map Acc.place = (s.que n q).acc.map Acc.place) : Lost n q p s (s.modQ n q f) :=
  ⟨.modQ n q p s f, rfl, rfl, by rw [State.modQ_que]; exact hf, _, rfl, fun _ h => h, fun _ h _ => h⟩

theorem Lost.modA (n : Log) (q : Qn) (p : Phys) (s : State) (id : Nat) {f : Acc → Acc} (hf : ∀ a, (f a).place = a.place) : Lost n q p s (s.modA n q id f) :=
  .modQ n q p s ⟨_, _, _, rfl, map_updFirst _ f Acc.place hf _⟩

/-- Pending data writes go. -/
theorem Lost.drop (n : Log) (q : Qn) (p : Phys) (s : State) {gone : List Txn} (hg : ∀ t ∈ gone, t ∈ s.phys[p].pend ∧ ∃ id k, t.own = .wr id k) :
    Lost n q p s (s.modP p fun c => { c with pend := c.pend.filter fun e => !(gone.any fun t => e.isEntry t) }) := by
  refine ⟨.modP n q s fun _ => rfl, rfl, rfl, ⟨_, _, _, rfl, rfl⟩, _, by rw [State.modP_phys, if_pos rfl], fun e he => List.mem_of_mem_filter he, fun e he hsp => ?_⟩
  refine List.mem_filter.mpr ⟨he, ?_⟩
  rw [Bool.not_eq_true']
  refine List.any_eq_false.mpr fun t ht hi => ?_
  obtain ⟨hm, id, k, ho⟩ := hg t ht
  rw [hsp.2 t hm hi] at ho
  exact hsp.1 id k ho

theorem Lost.flushOut (s : State) (n : Log) (p : Phys) (q : Qn) (a : Acc) : Lost n q p s (s.flushOut n p q a) := by
  unfold State.flushOut
  dsimp only
  split
  · exact .refl n q p s
  · refine ((Lost.drop n q p s fun t ht => ?_).trans (.modQ n q p _ ⟨_, _, _, rfl, rfl⟩)).trans (.modA n q p _ _ fun _ => rfl)
    obtain ⟨hm, hc⟩ := List.mem_filter.mp ht
    refine ⟨hm, ?_⟩
    cases ho : t.own with
    | wr id k => exact ⟨id, k, rfl⟩
    | _ => simp [ho] at hc

theorem Lost.foldl {α : Type} (f : State → α → State) (hf : ∀ s a, Lost n q p s (f s a)) (l : List α) (s : State) : Lost n q p s (l.foldl f s) := by
  induction l generalizing s with
  | nil => exact .refl n q p s
  | cons a l ih => exact (hf s a).trans (ih _)

/-- The host-out words of a queue's started descriptors are dropped (R315, R323). -/
def State.emptyOut (z : State) (n : Log) (p : Phys) (q : Qn) : State :=
  (z.que n q).acc.foldl (fun t a => if a.stage == .started then t.flushOut n p q a else t) z

theorem Lost.emptyOut (z : State) (n : Log) (p : Phys) (q : Qn) : Lost n q p z (z.emptyOut n p q) := by
  refine .foldl _ (fun w a => ?_) _ z
  split
  · exact .flushOut w n p q a
  · exact .refl n q p w

/-! ## The link FIFO under its one marker -/

theorem length_distinct_le_one {l : List Nat} {m : Nat} (h : ∀ x ∈ l, x = m) : (columnTx.distinct l).length ≤ 1 := by
  have hk : ∀ (l acc : List Nat), (∀ x ∈ l, x = m) → acc = [] ∨ acc = [m] → (l.foldl (fun acc x => if acc.contains x then acc else acc ++ [x]) acc).length ≤ 1 := by
    intro l
    induction l with
    | nil => rintro acc _ (rfl | rfl) <;> simp
    | cons x l ih =>
      intro acc hl ha
      obtain rfl := hl x List.mem_cons_self
      refine ih _ (fun y hy => hl y (List.mem_cons_of_mem _ hy)) (.inr ?_)
      rcases ha with rfl | rfl <;> simp
  exact hk l [] h (.inl rfl)

/-- One marker takes one store word at most. -/
theorem entryWords_flushLink (m : Nat) (bad : Bool) (l : List LEnt) : entryWords (flushLink m bad l) ≤ 1 := by
  unfold entryWords markersOf flushLink
  rw [List.countP_eq_zero.mpr, Nat.zero_add]
  · refine length_distinct_le_one (m := m) fun x hx => ?_
    obtain ⟨e, he, hxe⟩ := List.mem_filterMap.mp hx
    obtain ⟨e', _, rfl⟩ := List.mem_map.mp he
    cases e' with
    | word | gap => exact (Option.some.inj hxe).symm
    | eop | last => exact absurd hxe nofun
  · intro e he
    obtain ⟨e', _, rfl⟩ := List.mem_map.mp he
    cases e' <;> exact Bool.false_ne_true

/-- It counts every word where it stood (R323). -/
theorem inputWords_flushLink (m : Nat) (bad : Bool) (l : List LEnt) : inputWords (flushLink m bad l) = inputWords l := by
  unfold inputWords flushLink
  rw [List.map_map]
  congr 1
  refine List.map_congr_left fun e _ => ?_
  cases e <;> rfl

/-! ## The queue after a FLUSH -/

/-- The data of read `k` is dropped (R323). -/
def Acc.dropsIn (k : Nat) (a : Acc) : Acc := { a with x := { a.x with
  reads := updAt k (fun r => { r with st := if r.st == .posted then .flushed else .taken, data := [] }) a.x.reads
  dropped := a.x.dropped + ((a.x.reads[k]?).map RTx.words).getD 0, gapSeen := true } }

theorem dropsIn_foldl (l : List (Nat × Nat)) (u : Que) :
    ∃ acc, l.foldl (fun u x => u.modA x.1 (Acc.dropsIn x.2)) u = { u with acc } ∧ acc.map Acc.place = u.acc.map Acc.place := by
  induction l generalizing u with
  | nil => exact ⟨_, rfl, rfl⟩
  | cons x l ih =>
    obtain ⟨acc, he, ha⟩ := ih (u.modA x.1 (Acc.dropsIn x.2))
    exact ⟨acc, he, ha.trans (map_updFirst _ (Acc.dropsIn x.2) Acc.place (fun _ => rfl) _)⟩

/-- The host-in FIFO is empty; nothing else moves but execution state (R323). -/
theorem flushIn_eq (u : Que) : ∃ acc hinR, flushIn u = { u with acc, hin := [], hinR } ∧ acc.map Acc.place = u.acc.map Acc.place := by
  obtain ⟨acc, he, ha⟩ := dropsIn_foldl u.hin u
  have h : flushIn u = { (u.hin.foldl (fun u x => u.modA x.1 (Acc.dropsIn x.2)) u) with hin := [], hinR := u.hinR + u.hinWords .landed } := rfl
  rw [h, he]
  exact ⟨acc, _, rfl, ha⟩

/-- Words released from the link FIFO are owed under CREDITED flow (R63, R318). -/
theorem Que.freedTo_owed (u v : Que) : ∃ linkR, u.freedTo v = { v with linkR, owed := v.owed + if v.cfg.stream then 0 else u.occ - v.occ } := by
  unfold Que.freedTo Que.freeWords
  dsimp only
  split
  · exact ⟨_, rfl⟩
  · exact ⟨_, rfl⟩

/-- A queue's occupancy is that of its descriptors' payloads, its data and the payload held for its halt. -/
theorem Que.occ_congr {u v : Que} (ha : v.acc.map Acc.place = u.acc.map Acc.place) (hl : v.link = u.link) (hh : v.halt = u.halt) : v.occ = u.occ := by
  have hf : ∀ w : Que, w.acc.flatMap Acc.inFifo = (w.acc.map Acc.place).flatMap Prod.snd := fun w => by rw [List.flatMap_map]; rfl
  unfold Que.occ Que.fifo Que.heldPay
  rw [hf, hf, ha, hl, hh]

theorem ids_of_place {l m : List Acc} (h : l.map Acc.place = m.map Acc.place) : l.map Acc.id = m.map Acc.id := by
  have hf : ∀ k : List Acc, k.map Acc.id = (k.map Acc.place).map Prod.fst := fun k => by rw [List.map_map]; rfl
  rw [hf, hf, h]

/-- FLUSH's update of the queue. -/
def Que.flushAll (u : Que) (m : Nat) (op bad : Bool) : Que := flushIn { (u.freedTo (u.flushed m bad)) with dropPkt := op }

theorem Que.flushAll_facts (u : Que) (m : Nat) (op bad : Bool) : (u.flushAll m op bad).hin = [] ∧ (u.flushAll m op bad).dropPkt = op
    ∧ (u.flushAll m op bad).link = flushLink m bad u.link ∧ (u.flushAll m op bad).st = u.st ∧ (u.flushAll m op bad).acc.map Acc.id = u.acc.map Acc.id
    ∧ (u.flushAll m op bad).owed = u.owed + if u.cfg.stream then 0 else u.occ - (u.flushAll m op bad).occ := by
  obtain ⟨lr, hf⟩ := u.freedTo_owed (u.flushed m bad)
  obtain ⟨acc, hinR, he, ha⟩ := flushIn_eq { (u.freedTo (u.flushed m bad)) with dropPkt := op }
  have hw : (u.flushAll m op bad) = { (u.freedTo (u.flushed m bad)) with dropPkt := op, acc, hin := [], hinR } := he
  rw [hf] at hw ha
  have ho : (u.flushAll m op bad).occ = (u.flushed m bad).occ := Que.occ_congr (by rw [hw]; exact ha) (by rw [hw]) (by rw [hw])
  have hids : (u.flushed m bad).acc.map Acc.id = u.acc.map Acc.id := by
    unfold Que.flushed Que.mapFifo
    rw [List.map_map, List.map_map]
    refine List.map_congr_left fun a _ => ?_
    dsimp only [Function.comp, Acc.gapped]
    split <;> split <;> rfl
  rw [ho, hw]
  exact ⟨rfl, rfl, rfl, rfl, (ids_of_place ha).trans hids, rfl⟩

/-! ## FLUSH -/

/-- FLUSH's update of queue, port and flag, with marker `m` (R323, R324). -/
def State.flushHere (w : State) (n : Log) (p : Phys) (q : Qn) (m : Nat) (op bad : Bool) : State :=
  let t : State := { w.modQ n q fun u => u.flushAll m op bad with nextId := m }
  (t.modL n fun l => { l with reqs := [] }).modC p fun c => { c with flushed := c.flushed ||| (1#4 <<< q.val) }

/-- What a FLUSH does before it clears marks and returns credit. -/
def State.flushHead (z : State) (n : Log) (p : Phys) (q : Qn) (op bad : Bool) : State := (z.emptyOut n p q).flushHere n p q (z.nextId + 1) op bad

/-- All words owed return as one CREDIT (R324). -/
def State.creditAll (t : State) (n : Log) (q : Qn) : State :=
  let k := (t.que n q).owed
  if k = 0 then t else (t.modQ n q fun u => { u with owed := 0, wordCr := u.wordCr + k }).send n (.credit q k)

theorem exec_flush (h : s.linked n p = true) (hq : s.lch[n].port.reqQ = some q) (op bad : Bool) : ∃ z, Met n p s z
    ∧ exec (.flush n ⟨op, bad⟩) s = .next ((((z.flushHead n p q op bad).unmark n p q).creditAll n q).flow n q) := by
  refine ⟨s.demand p, .demand h, congrArg Host.Outcome.next ((s.onPulse_linked n p _ h).trans ?_)⟩
  have hz := Met.demand h
  generalize s.demand p = z at hz ⊢
  rw [hz.lch, hq]
  rfl

theorem State.flushHere_facts (w : State) (n : Log) (p : Phys) (q : Qn) (m : Nat) (op bad : Bool) :
    OnQueue n q p w (w.flushHere n p q m op bad) ∧ (w.flushHere n p q m op bad).linkOut = w.linkOut ∧ (w.flushHere n p q m op bad).lch[n].reqs = []
      ∧ (w.flushHere n p q m op bad).que n q = (w.que n q).flushAll m op bad
      ∧ (w.flushHere n p q m op bad).phys[p] = { w.phys[p] with c := { w.phys[p].c with flushed := w.phys[p].c.flushed ||| (1#4 <<< q.val) } } := by
  have hm := (OnQueue.modQ n q p w fun u => u.flushAll m op bad).trans (.nextId n q p _ m)
  have hq : ({ w.modQ n q (fun u => u.flushAll m op bad) with nextId := m } : State).que n q = (w.que n q).flushAll m op bad := w.modQ_que n q _
  have hp : ({ w.modQ n q (fun u => u.flushAll m op bad) with nextId := m } : State).phys = w.phys := rfl
  have ho : ({ w.modQ n q (fun u => u.flushAll m op bad) with nextId := m } : State).linkOut = w.linkOut := rfl
  unfold State.flushHere
  dsimp only
  generalize ({ w.modQ n q (fun u => u.flushAll m op bad) with nextId := m } : State) = v at hm hq hp ho ⊢
  refine ⟨(hm.trans (.modL q p v (f := fun l => { l with reqs := [] }) (fun _ => rfl) (fun _ => rfl) fun _ => rfl)).trans (.modC n q p _ _), ho, ?_, ?_, ?_⟩
  · rw [State.modC, State.modP_lch, State.modL_lch, if_pos rfl]
  · rw [State.modC, State.que_congr (State.modP_lch _ p _), State.modL_que_kept v n (fun l => { l with reqs := [] }) fun _ => rfl, hq]
  · rw [State.modC, State.modP_phys, if_pos rfl, State.modL_phys, hp]

theorem State.flushHead_facts (z : State) (n : Log) (p : Phys) (q : Qn) (op bad : Bool) :
    OnQueue n q p z (z.flushHead n p q op bad) ∧ (z.flushHead n p q op bad).linkOut = z.linkOut ∧ (z.flushHead n p q op bad).lch[n].reqs = []
      ∧ (∃ acc hout houtR, (z.flushHead n p q op bad).que n q = Que.flushAll { z.que n q with acc, hout, houtR } (z.nextId + 1) op bad
        ∧ acc.map Acc.place = (z.que n q).acc.map Acc.place)
      ∧ (z.flushHead n p q op bad).phys[p].c.flushed = z.phys[p].c.flushed ||| (1#4 <<< q.val)
      ∧ ∀ e ∈ z.phys[p].pend, e.spared z.phys[p].pend → e ∈ (z.flushHead n p q op bad).phys[p].pend := by
  have hl := Lost.emptyOut z n p q
  obtain ⟨acc, hout, houtR, hq, ha⟩ := hl.queue
  obtain ⟨pend, hp, _, hsp⟩ := hl.page
  obtain ⟨ho, hs, hr, hw, hc⟩ := (z.emptyOut n p q).flushHere_facts n p q (z.nextId + 1) op bad
  unfold State.flushHead
  generalize (z.emptyOut n p q).flushHere n p q (z.nextId + 1) op bad = v at ho hs hr hw hc ⊢
  rw [hq] at hw
  rw [hp] at hc
  exact ⟨hl.onQueue.trans ho, hs.trans hl.linkOut, hr, ⟨acc, hout, houtR, hw, ha⟩, by rw [hc], fun e he hsp' => by rw [hc]; exact hsp e he hsp'⟩

/-- The host-out writes of `q` whose beats are in progress (R317). -/
def State.inHout (w : State) (n : Log) (p : Phys) (q : Qn) (e : Txn) : Bool :=
  e.phys == p && e.q == q && e.granted && e.kind == .write && (match e.own with
    | .wr id _ => (w.acc n q id).any fun a => a.d.viaHout
    | _ => false)

theorem OnQueue.slices (n : Log) (q : Qn) (p : Phys) (s : State) (x : Vector Slice 16) : OnQueue n q p s { s with slices := x } :=
  ⟨⟨rfl, fun _ _ => rfl, fun _ _ => rfl, rfl, List.prefix_rfl⟩, .refl n q _⟩

/-- Their marks clear in the pending queue (R317). -/
def State.cleared (w : State) (n : Log) (p : Phys) (q : Qn) (c : PCh) : PCh :=
  { c with pend := c.pend.map fun e => if w.inHout n p q e then { e with noMark := true } else e }

/-- Clearing marks moves pending entries and the slices' held beats alone (R317). -/
theorem State.unmark_eq (w : State) (n : Log) (p : Phys) (q : Qn) : ∃ slices, w.unmark n p q = { w.modP p (w.cleared n p q) with slices } := ⟨_, rfl⟩

theorem State.unmark_pend (w : State) (n : Log) (p : Phys) (q : Qn) :
    (w.unmark n p q).phys[p] = w.cleared n p q w.phys[p] := by
  obtain ⟨_, h⟩ := w.unmark_eq n p q
  rw [h, State.modP_phys, if_pos rfl]

theorem OnQueue.unmark (w : State) (n : Log) (p : Phys) (q : Qn) : OnQueue n q p w (w.unmark n p q) := by
  obtain ⟨_, h⟩ := w.unmark_eq n p q
  rw [h]
  exact (OnQueue.modP n q w (f := w.cleared n p q) fun _ => rfl).trans (.slices n q p _ _)

theorem State.unmark_lch (w : State) (n : Log) (p : Phys) (q : Qn) : (w.unmark n p q).lch = w.lch ∧ (w.unmark n p q).linkOut = w.linkOut := by
  obtain ⟨_, h⟩ := w.unmark_eq n p q
  rw [h]
  exact ⟨rfl, rfl⟩

/-- The marks of host-out writes in progress clear (R317, R323). -/
theorem State.unmark_clears {w : State} {e : Txn} (he : e ∈ (w.unmark n p q).phys[p].pend) (hp : e.phys = p) (hq : e.q = q) (hg : e.granted = true) (hk : e.kind = .write)
    (ho : ∃ id k a, e.own = .wr id k ∧ w.acc n q id = some a ∧ a.d.viaHout = true) : e.noMark = true := by
  rw [State.unmark_pend] at he
  obtain ⟨f, _, rfl⟩ := List.mem_map.mp he
  by_cases hm : w.inHout n p q f = true
  · rw [if_pos hm]
  · rw [if_neg hm] at hp hq hg hk ho
    obtain ⟨id, k, a, ho, ha, hv⟩ := ho
    refine absurd ?_ hm
    simp [State.inHout, hp, hq, hg, hk, ho, ha, hv]

/-- Those of the others stay. -/
theorem State.unmark_keeps {w : State} {e : Txn} (he : e ∈ w.phys[p].pend) (ho : ∀ id k, e.own ≠ .wr id k) : e ∈ (w.unmark n p q).phys[p].pend := by
  have hm : w.inHout n p q e = false := by
    unfold State.inHout
    split
    · next id k h => exact absurd h (ho id k)
    · exact Bool.and_false _
  rw [State.unmark_pend]
  exact List.mem_map.mpr ⟨e, he, by rw [hm]; rfl⟩

theorem State.creditAll_facts (w : State) (n : Log) (p : Phys) (q : Qn) (ht : w.tap.drives = false) : OnQueue n q p w (w.creditAll n q) ∧ (w.creditAll n q).phys = w.phys
    ∧ (∃ wordCr owed, (w.creditAll n q).que n q = { w.que n q with wordCr, owed }) ∧ (w.creditAll n q).lch[n].reqs = w.lch[n].reqs
    ∧ ((w.que n q).owed = 0 → (w.creditAll n q).linkOut = w.linkOut)
    ∧ (0 < (w.que n q).owed → (w.creditAll n q).linkOut = w.linkOut ++ [(n, .credit q (w.que n q).owed)]) := by
  by_cases h0 : (w.que n q).owed = 0
  · have h : w.creditAll n q = w := if_pos h0
    rw [h]
    exact ⟨.refl n q p w, rfl, ⟨_, _, rfl⟩, rfl, fun _ => rfl, fun h => absurd h0 (Nat.ne_of_gt h)⟩
  · have h : w.creditAll n q = (w.modQ n q fun u => { u with owed := 0, wordCr := u.wordCr + (w.que n q).owed }).send n (.credit q (w.que n q).owed) := if_neg h0
    rw [h]
    refine ⟨(OnQueue.modQ n q p w _).trans (.send n q p _ _), State.send_phys _ n _, ?_, ?_, fun h => absurd h h0, fun _ => State.send_pins _ n _ ht⟩
    · rw [State.send_que, State.modQ_que]
      exact ⟨_, _, rfl⟩
    · rw [State.send_lch, (w.modQ_sameButQueues n q _ : (w.modQ n q _).lch[n] = _)]

/-! ## LK_WAKE -/

/-- The level of the port's wake line (R93). -/
def State.wakeLine (s : State) (n : Log) (level : Bool) : State := s.modL n fun l => { l with lkWake := level }

theorem exec_lkWake (ht : s.tap.drives = false) (n : Log) (level : Bool) : exec (.lkWake n level) s
    = .next (if level && !s.lch[n].lkWake && s.hrstN && s.vddCore then (s.wakeLine n level).wake n else s.wakeLine n level) := by
  refine congrArg Host.Outcome.next (if_neg ?_)
  rw [ht]
  exact Bool.false_ne_true

theorem State.wake_lch (s : State) (n : Log) : (s.wake n).lch = s.lch := by
  unfold State.wake
  split
  · exact s.demand_lch _
  · rfl

/-- The line's rise is a demand at the port's DORMANT channel (R94, R624). -/
theorem State.wakeLine_wake {level : Bool} (hm : s.map[n] = some p) (hst : s.phys[p].st = .dormant) :
    (s.wakeLine n level).wake n = (s.wakeLine n level).demand p := by
  have hsv : (s.wakeLine n level).servP n = some p := State.servP_eq hm (by rw [State.wakeLine, State.modL_phys, hst]; rfl)
  unfold State.wake
  rw [hsv]

/-- A demand at a DORMANT channel begins its wake in its running terrace (R624, R625, R629). -/
theorem State.demand_dormant (s : State) (p : Phys) (h : s.phys[p].st = .dormant) : (s.demand p).phys[p].st = .waking ∧ (s.demand p).phys[p].wakeA = some s.aclk
    ∧ (s.demand p).phys[p].missed = 0 ∧ (s.demand p).ters[terP p].stopped = false ∧ samePhys p s (s.demand p) := by
  have hd : s.demand p = s.beginWake p := by
    unfold State.demand
    simp only [h]
  rw [hd]
  refine ⟨?_, ?_, ?_, ?_, (AtChan.beginWake 0 p s).chans⟩
  · rw [State.beginWake, State.modP_phys, if_pos rfl]
  · rw [State.beginWake, State.modP_phys, if_pos rfl]
  · rw [State.beginWake, State.modP_phys, if_pos rfl]
  · rw [State.beginWake, State.modP_ters, State.restartTree, State.modT_ters, if_pos rfl]

end Sys2Proof.Machine
end

section
namespace Sys2Proof.Machine

/-- Settles O40: FLUSH by the lemmas of its three steps, LK_WAKE by `State.demand_dormant`. -/
theorem flushAndWakeLine : Obligations.FlushAndWakeLine := by
  refine ⟨fun s n p q op bad hs hq => ?_, fun s n level ht => ?_, fun s n level ht => ?_⟩
  · obtain ⟨z, hz, he⟩ := exec_flush hs hq op bad
    obtain ⟨hf, hfo, hr, ⟨acc, hout, houtR, hqf, ha⟩, hfl, hsp⟩ := z.flushHead_facts n p q op bad
    generalize z.flushHead n p q op bad = w at he hf hfo hr hqf hfl hsp
    have hu := OnQueue.unmark w n p q
    obtain ⟨hul, huo⟩ := w.unmark_lch n p q
    have huq : (w.unmark n p q).que n q = w.que n q := State.que_congr hul n q
    have hup := w.unmark_pend n p q
    obtain ⟨hc, hcp, ⟨wc, ow, hcq⟩, hcr, hc0, hc1⟩ := (w.unmark n p q).creditAll_facts n p q (by rw [hu.tap, hf.tap, hz.pins])
    rw [hz.que] at hqf ha
    obtain ⟨eh, ed, el, est, eid, eo⟩ := Que.flushAll_facts { s.que n q with acc, hout, houtR } (z.nextId + 1) op bad
    rw [← hqf] at eh ed el est eid eo
    have hocc : ({ s.que n q with acc, hout, houtR } : Que).occ = (s.que n q).occ := Que.occ_congr ha rfl rfl
    rw [huq] at hcq hc0 hc1
    generalize (w.unmark n p q).creditAll n q = v at he hc hcp hcq hcr hc0 hc1
    have hfr := ((hz.onQueue q).trans hf).trans (hu.trans hc)
    rw [hz.nextId] at el
    have hlink : (v.que n q).link = flushLink (s.nextId + 1) bad (s.que n q).link := by rw [hcq]; exact el
    have hacc : ∀ id, v.acc n q id = w.acc n q id := fun id => by unfold State.acc; rw [hcq]
    have howed : (w.que n q).owed = (s.que n q).owed + if (s.que n q).cfg.stream then 0 else (s.que n q).occ - (v.que n q).occ := by
      rw [eo, hocc, Que.occ_congr (u := w.que n q) (v := v.que n q) (by rw [hcq]) (by rw [hcq]) (by rw [hcq])]
    refine ⟨v, he, by rw [hcr, hul, hr], by rw [hcq, eh], by rw [hcq, ed], hlink, by rw [hlink]; exact entryWords_flushLink .., by rw [hlink]; exact inputWords_flushLink ..,
      ?_, fun e hm hp' hq' hg hk ho => ?_, fun e hm ho hi => ?_, ⟨fun hk => ?_, fun hk => ?_⟩, by rw [hcq, est], by rw [hcq]; exact eid.trans (ids_of_place ha),
      hfr.others, hfr.siblings, hfr.chans⟩
    · rw [hcp, hup]
      exact hfl.trans (by rw [hz.c])
    · rw [hcp] at hm
      simp only [hacc] at ho
      exact State.unmark_clears hm hp' hq' hg hk ho
    · rw [hcp]
      rw [← hz.pend] at hm hi
      exact State.unmark_keeps (hsp e hm ⟨ho, hi⟩) ho
    · rw [hc0 (howed.trans hk), huo, hfo, hz.linkOut]
    · rw [hc1 (by rw [howed]; exact hk), huo, hfo, hz.linkOut, howed]
  · exact congrArg Host.Outcome.next (if_pos ht)
  · have he := exec_lkWake ht n level
    have hl : (s.wakeLine n level).lch[n] = { s.lch[n] with lkWake := level } := by
      rw [State.wakeLine, State.modL_lch, if_pos rfl]
    have ho : sameOthers n s (s.wakeLine n level) := (AtLog.modL n s _).others
    by_cases hc : (level && !s.lch[n].lkWake && s.hrstN && s.vddCore) = true
    · rw [if_pos hc] at he
      have hwl := (s.wakeLine n level).wake_lch n
      simp only [Bool.and_eq_true, Bool.not_eq_true'] at hc
      obtain ⟨⟨⟨hlv, hlk⟩, hh⟩, hv⟩ := hc
      refine ⟨_, he, by rw [hwl, hl], fun m hm => by rw [hwl]; exact ho m hm, fun p hon hle hlk' hm hst => ?_, fun h => ?_⟩
      · rw [State.wakeLine_wake hm hst]
        exact State.demand_dormant (s.wakeLine n level) p hst
      · rcases h with h | h | h
        · rw [hlv] at h; cases h
        · rw [hlk] at h; cases h
        · rw [State.on, hh, hv] at h; cases h
    · rw [if_neg hc] at he
      refine ⟨_, he, hl, ho, fun p hon hle hlk hm hst => absurd ?_ hc, fun _ => ⟨rfl, rfl⟩⟩
      simp only [State.on, Bool.and_eq_true] at hon
      rw [hle, hlk, hon.1, hon.2]
      rfl

end Sys2Proof.Machine
end

section
/-! SUPPORT. The fall of hrst_n (R143, R356, R360, R362, R371): what is still owed is posted, locks break, slices empty, and what serving channels held goes back to the journal. -/

namespace Sys2Proof.Machine

variable {s t : State}

/-- A fold of steps that each keep a relation keeps it. -/
theorem foldl_related {σ α : Type} {R : σ → σ → Prop} (hr : ∀ s, R s s) (ht : ∀ {s t u}, R s t → R t u → R s u) (f : σ → α → σ) (hf : ∀ s a, R s (f s a))
    (l : List α) (s : σ) : R s (l.foldl f s) := by
  induction l generalizing s with
  | nil => exact hr s
  | cons a l ih => exact ht (hf s a) (ih _)

/-! ## FENCE_DRAIN records that are owed -/

/-- Nothing but logical channels and the ledger changes, and no queue. -/
def sameButDrains (s t : State) : Prop := t = { s with lch := t.lch, ldg := t.ldg } ∧ ∀ (n : Log) (q : Qn), t.que n q = s.que n q

theorem sameButDrains.refl (s : State) : sameButDrains s s := ⟨rfl, fun _ _ => rfl⟩

theorem sameButDrains.trans {u : State} (h : sameButDrains s t) (k : sameButDrains t u) : sameButDrains s u :=
  ⟨by rw [k.1, h.1], fun n q => (k.2 n q).trans (h.2 n q)⟩

theorem sameButDrains.post (s : State) (kind plane src : Nat) (arg : List Byte) (q : Nat) : sameButDrains s (s.post kind plane src arg q) := by
  rw [State.post_frame]
  exact ⟨rfl, fun _ _ => rfl⟩

/-- The records that an end of an incarnation owes. -/
theorem State.endDrain_eq (s : State) (n : Log) : ∃ ldg, s.endDrain n = { (s.modL n fun l => { l with fdrain := [], fleft := 0 }) with ldg } := by
  have h := foldl_related (R := fun s t : State => t = { s with ldg := t.ldg }) (fun _ => rfl) (fun h k => by rw [k, h])
    (fun (t : State) (x : Nat × Nat) => t.fenceDrained n x.1 x.2) (fun t x => t.post_frame _ _ _ _ _) s.lch[n].fdrain
    (s.modL n fun l => { l with fdrain := [], fleft := 0 })
  exact ⟨_, h⟩

theorem State.endDrain_fleft (s : State) (n m : Log) : (s.endDrain n).lch[m].fleft = if n = m then 0 else s.lch[m].fleft := by
  obtain ⟨ldg, h⟩ := s.endDrain_eq n
  rw [h]
  dsimp only
  rw [State.modL_lch]
  split <;> rfl

theorem sameButDrains.endDrain (s : State) (n : Log) : sameButDrains s (s.endDrain n) := by
  obtain ⟨ldg, h⟩ := s.endDrain_eq n
  rw [h]
  exact ⟨rfl, fun m q => s.modL_que_kept n (fun l => { l with fdrain := [], fleft := 0 }) (fun _ => rfl) m q⟩

/-- Every record that is owed is posted. -/
def State.endDrains (s : State) : State := (fins 128).foldl (fun t n => t.endDrain n) s

theorem State.endDrains_frame (s : State) : sameButDrains s s.endDrains :=
  foldl_related .refl .trans _ (fun t n => .endDrain t n) _ s

theorem State.endDrains_fleft (s : State) (n : Log) : s.endDrains.lch[n].fleft = 0 := by
  obtain ⟨w, -, -, h⟩ := foldl_visit (fun t n => State.endDrain t n) (fun _ => True) (fun t : State => t.lch[n].fleft) n (fun _ _ _ => trivial)
    (fun t m _ hm => by rw [State.endDrain_fleft, if_neg hm]) (fins 128) (fins_nodup 128) (mem_fins n) s trivial
  exact h.trans (by rw [State.endDrain_fleft, if_pos rfl])

/-! ## Slices -/

/-- A slice's lock breaks for hrst_n, and the slice is emptied (R360, R362). -/
def State.stopSlice (s : State) (sl : SliceN) : State := (s.lockBreak sl 3).modS sl Slice.cleared

theorem State.lockBreak_slices (s : State) (sl x : SliceN) (cause : Nat) :
    (s.lockBreak sl cause).slices[x] = if sl = x ∧ s.slices[sl].lock.held = true then { s.slices[sl] with lock := { broken := true, cause } } else s.slices[x] := by
  unfold State.lockBreak
  dsimp only
  split
  · next h =>
    rw [State.post_frame]
    dsimp only
    rw [State.modS_slices]
    by_cases hx : sl = x
    · rw [if_pos hx, if_pos ⟨hx, h⟩]
    · rw [if_neg hx, if_neg fun k => hx k.1]
  · next h => exact (if_neg fun k => h k.2).symm

/-- What the fall of hrst_n leaves of a slice. -/
def Slice.stopped (x : Slice) : Slice := Slice.cleared (if x.lock.held = true then { x with lock := { broken := true, cause := 3 } } else x)

theorem State.stopSlice_slices (s : State) (sl x : SliceN) : (s.stopSlice sl).slices[x] = if sl = x then s.slices[x].stopped else s.slices[x] := by
  unfold State.stopSlice
  rw [State.modS_slices, State.lockBreak_slices, State.lockBreak_slices]
  by_cases hx : sl = x
  · subst hx
    simp only [if_pos, true_and]
    rfl
  · simp only [hx, false_and, if_false]

theorem sameButLocks.stopSlice (s : State) (sl : SliceN) : sameButLocks s (s.stopSlice sl) := (sameButLocks.lockBreak s sl 3).trans rfl

def State.stopSlices (s : State) : State := (fins 16).foldl (fun t sl => t.stopSlice sl) s

theorem State.stopSlices_frame (s : State) : sameButLocks s s.stopSlices :=
  foldl_related .refl .trans _ (fun t sl => .stopSlice t sl) _ s

theorem State.stopSlices_slices (s : State) (sl : SliceN) : s.stopSlices.slices[sl] = s.slices[sl].stopped := by
  obtain ⟨w, -, hv, h⟩ := foldl_visit (fun t n => State.stopSlice t n) (fun _ => True) (fun t : State => t.slices[sl]) sl (fun _ _ _ => trivial)
    (fun t x _ hx => by rw [State.stopSlice_slices, if_neg hx]) (fins 16) (fins_nodup 16) (mem_fins sl) s trivial
  exact h.trans (by rw [State.stopSlice_slices, if_pos rfl, hv])

theorem Slice.stopped_empty (x : Slice) : x.stopped.issue = [] ∧ x.stopped.hold = none ∧ x.stopped.out = [] ∧ x.stopped.lock.held = false
    ∧ (x.lock.held = true → x.stopped.lock.broken = true ∧ x.stopped.lock.cause = 3) := by
  unfold Slice.stopped
  split
  · exact ⟨rfl, rfl, rfl, rfl, fun _ => ⟨rfl, rfl⟩⟩
  · next h => exact ⟨rfl, rfl, rfl, Bool.eq_false_of_not_eq_true h, fun k => absurd k h⟩

/-! ## The journal -/

/-- What a restore from the journal keeps of a queue (R137, R516). -/
def Que.kept (u : Que) : QS × QCfg × Nat × Nat × Nat × Nat × Nat := (u.st, u.cfg, u.lastAcc, u.lastRet, u.kicks, u.fidx, u.rcnt)

theorem Que.restore_kept (u : Que) (now : Nat) : (u.restore now).kept = u.kept := by
  unfold Que.restore
  dsimp only
  exact Que.giveCredits_kept Que.kept (fun _ _ => by unfold Que.giveCredit Que.kept; rfl) (fun x : Acc × Acc × Bool => x.2.2) (fun x => x.1.drawn) _ u

/-- The logical channels that are served go back to their journal entries. -/
def State.restoreServed (s : State) : State := (fins 128).foldl (fun t n => if (t.servP n).isSome then t.restoreL n else t) s

/-- Nothing but logical channels changes, and of each what a restore keeps stays. -/
def restoredFrom (s t : State) : Prop :=
  t = { s with lch := t.lch } ∧ ∀ n : Log, t.lch[n].fleft = s.lch[n].fleft ∧ ∀ q : Qn, (t.que n q).kept = (s.que n q).kept

theorem restoredFrom.refl (s : State) : restoredFrom s s := ⟨rfl, fun _ => ⟨rfl, fun _ => rfl⟩⟩

theorem restoredFrom.trans {u : State} (h : restoredFrom s t) (k : restoredFrom t u) : restoredFrom s u :=
  ⟨by rw [k.1, h.1], fun n => ⟨(k.2 n).1.trans (h.2 n).1, fun q => ((k.2 n).2 q).trans ((h.2 n).2 q)⟩⟩

theorem restoredFrom.restoreL (s : State) (n : Log) : restoredFrom s (s.restoreL n) := by
  refine ⟨rfl, fun m => ?_⟩
  by_cases hm : m = n
  · subst hm
    exact ⟨by rw [State.restoreL, State.modL_lch, if_pos rfl], fun q => by rw [State.restoreL_que, Que.restore_kept]⟩
  · have hl : (s.restoreL n).lch[m] = s.lch[m] := (AtLog.restoreL n s).others m hm
    exact ⟨by rw [hl], fun q => by rw [State.que, hl, State.que]⟩

theorem State.restoreServed_frame (s : State) : restoredFrom s s.restoreServed :=
  foldl_related .refl .trans _ (fun t n => by split; exacts [.restoreL t n, .refl t]) _ s

/-! ## The command -/

/-- A physical channel when hrst_n falls. -/
def PCh.stopped (c : PCh) : PCh := { c with pend := [], locked := none, entry := 0, latched := false, quiet := 0 }

/-- Every physical channel stops. -/
def State.stopChannels (s : State) : State :=
  let t := s.allP fun _ c => c.stopped
  { t with rdPorts := mapV t.rdPorts fun _ r => { r with rin := [] } }

theorem State.stopChannels_phys (s : State) (p : Phys) : s.stopChannels.phys[p] = s.phys[p].stopped := by
  unfold State.stopChannels State.allP
  dsimp only
  exact mapV_get s.phys (fun _ c => c.stopped) p

theorem State.stopChannels_frame (s : State) : s.stopChannels = { s with phys := s.stopChannels.phys, rdPorts := s.stopChannels.rdPorts } := by
  unfold State.stopChannels State.allP
  rfl

theorem exec_hrstAssert (h : s.hrstN = true) : exec .hrstAssert s = .next ({ s with hrstN := false } : State).endDrains.stopSlices.stopChannels.restoreServed := by
  refine (if_neg (by rw [h]; exact Bool.false_ne_true)).trans ?_
  unfold State.restoreServed State.stopChannels State.stopSlices State.endDrains State.stopSlice PCh.stopped
  dsimp only

end Sys2Proof.Machine
end

section
namespace Sys2Proof.Machine

/-- Settles O9: what is owed is posted, the slices stop, the channels stop, and what was served is restored, each with its own frame. -/
theorem hrstAssertStopsDataPlane : Obligations.HrstAssertStopsDataPlane := by
  unfold Obligations.HrstAssertStopsDataPlane
  intro s hs
  refine ⟨_, exec_hrstAssert hs, ?_⟩
  generalize hz : ({ s with hrstN := false } : State) = z
  have hd := z.endDrains_frame
  have hf := z.endDrains_fleft
  generalize z.endDrains = d at hd hf ⊢
  have hb := d.stopSlices_frame
  have hsl := d.stopSlices_slices
  generalize d.stopSlices = b at hb hsl ⊢
  have hr := b.stopChannels.restoreServed_frame
  have hp := b.stopChannels_phys
  have hc := b.stopChannels_frame
  generalize b.stopChannels = c at hr hp hc ⊢
  generalize c.restoreServed = t at hr ⊢
  obtain ⟨hd, hdq⟩ := hd
  obtain ⟨hr, hrl⟩ := hr
  unfold sameButLocks at hb
  have hds : d.slices = s.slices := by rw [hd, ← hz]
  have hts : t.slices = b.slices := by rw [hr, hc]
  have htp : t.phys = c.phys := by rw [hr]
  have hbp : b.phys = s.phys := by rw [hb, hd, ← hz]
  have hcl : c.lch = d.lch := by rw [hc, hb]
  refine ⟨by rw [hr, hc, hb, hd, ← hz], fun sl => ?_, fun p => ?_, fun n => ?_, fun n q => ?_, ?_⟩
  · rw [hts, hsl, hds]
    exact s.slices[sl].stopped_empty
  · rw [htp, hp, hbp]
    exact ⟨rfl, rfl⟩
  · rw [(hrl n).1, hcl]
    exact hf n
  · have hk := (hrl n).2 q
    rw [State.que_congr hcl, hdq, ← hz] at hk
    simp only [Que.kept, Prod.mk.injEq] at hk
    obtain ⟨h1, h2, h3, h4, h5, h6, h7⟩ := hk
    exact ⟨h1, h2, h3, h4, h5, h6, h7⟩
  · rw [hr, hc, hb, hd, ← hz]
    exact ⟨rfl, rfl, rfl, rfl, rfl, rfl, rfl⟩

end Sys2Proof.Machine
end

section
/-! SUPPORT. The return of a producer index and of what a ring, a chain or a re-fetch brought (R115, R116, R119, R122, R161, R493), each as one update of its queue. -/

namespace Sys2Proof.Machine

variable {n : Log} {q : Qn} {p : Phys} {s t u : State}

/-- A state whose logical channels are those of an update of one queue. -/
theorem State.parts_of_modQ {f : Que → Que} (h : t.lch = (s.modQ n q f).lch) : t.que n q = f (s.que n q) ∧ sameOthers n s t ∧ sameSiblings n q s t := by
  obtain ⟨h1, h2, h3⟩ := (sameSiblings.refl n q s).modQ f
  refine ⟨(State.que_congr h n q).trans (s.modQ_que n q f), fun m hm => ?_, fun r hr => (State.que_congr h n r).trans (h1 r hr), by rw [h]; exact h2, by rw [h]; exact h3⟩
  rw [h]
  exact (AtLog.modQ n q s f).others m hm

/-! ## The producer index -/

theorem Que.off_fidx (u : Que) : u.off u.fidx = 0 := by
  unfold Que.off
  rw [Nat.add_sub_cancel_left, Nat.mod_self]

/-- A valid index is what governs afterwards (R115). -/
theorem Que.show_shown (u : Que) (v dg : Nat) : (u.show v dg).shown = u.off v := by
  by_cases h : v = u.fidx
  · subst h
    rw [Que.off_fidx]
    unfold Que.show Que.shown
    dsimp only
    rw [if_pos rfl]
    rfl
  · unfold Que.show Que.shown
    dsimp only
    rw [if_neg h, List.getLast?_append, List.getLast?_singleton]
    rfl

theorem Que.show_fetches (u : Que) (v dg : Nat) {f : Fetch} (h : f ∈ (u.show v dg).fetches) : f ∈ u.fetches ∧ u.off f.idx < u.off v := by
  simpa only [Que.show, List.mem_filter, decide_eq_true_eq] using h

/-- The queue whose PIDX read has returned a valid index. -/
def Que.indexed (u : Que) (v : Nat) : Que := ({ u with prd := u.prd.next } : Que).show v u.prd.dg

/-- The queue whose PIDX read has returned any other, or failed (R116). -/
def Que.ringFailed (u : Que) : Que := { u with prd := u.prd.next, ringErr := true, found := [], fetches := [] }

section
variable (hl : s.live n p = true) {r : Option Nat} (hr : (s.que n q).prd.data = some r)
include hl hr

theorem exec_pidxReturn_valid {v : Nat} (hv : r = some v) (ho : (s.que n q).off v ≤ 2 ^ (s.que n q).cfg.ringLog) :
    exec (.pidxReturn n q) s = .next (s.modQ n q fun u => u.indexed v) := by
  refine congrArg Host.Outcome.next ((s.withAwake_live n p _ hl).trans ?_)
  dsimp only
  rw [hr]
  dsimp only
  subst hv
  rw [if_pos (by simpa using ho), State.modQ_modQ]
  exact s.modQ_eq n q rfl

theorem exec_pidxReturn_invalid (h : ∀ v, r = some v → 2 ^ (s.que n q).cfg.ringLog < (s.que n q).off v) :
    exec (.pidxReturn n q) s = .next ((s.modQ n q Que.ringFailed).post 0x23 1 n (leBytes 4 (r.getD 0xFFFFFFFF) ++ leBytes 4 (s.que n q).fidx) q) := by
  refine congrArg Host.Outcome.next ((s.withAwake_live n p _ hl).trans ?_)
  dsimp only
  rw [hr]
  dsimp only
  rw [if_neg, State.modQ_modQ]
  · rfl
  · cases r with
    | none => simp
    | some v => simpa using h v rfl

end

/-! ## What a fetch brought -/

/-- What the checks of a fetched entry leave as it is (R122, R161). -/
theorem fetched_new (u : Que) (seq member dg : Nat) (o : Origin) (d : Option RWord × Nat) :
    let a := fetched u seq member dg o d
    a.seq = seq ∧ a.member = member ∧ a.stage = .accepted ∧ a.notRun = false ∧ a.deadline = none := by
  unfold fetched substitute checked
  dsimp only
  split
  · exact ⟨rfl, rfl, rfl, rfl, rfl⟩
  · split
    · exact ⟨rfl, rfl, rfl, rfl, rfl⟩
    · split <;> exact ⟨rfl, rfl, rfl, rfl, rfl⟩

/-! ## Bytes that were fetched again -/

/-- The bytes of a retry that would take inbound DELIVER data (R493). -/
def Acc.barred (a new : Acc) : Bool := a.retry && !new.tagF && new.d.takesDeliver

/-- An entry with bytes that came again: it runs them in its place, or is not run (R492, R493, R520). -/
theorem refilled_runs (u : Que) (a : Acc) (d : Option RWord × Nat) :
    let b := refilled u a d
    let new := fetched u a.seq a.member a.dg a.origin d
    b.id = a.id ∧ b.seq = a.seq ∧ b.have_ = true ∧ (a.barred new = false → b.bytes = new.bytes ∧ b.pre = new.pre ∧ b.notRun = a.notRun)
      ∧ (a.barred new = true → b.bytes = a.bytes ∧ b.notRun = true) := by
  unfold refilled Acc.rerun Acc.noInput Acc.barred Acc.d
  dsimp only
  rw [Bool.and_assoc]
  split
  · next h => exact ⟨rfl, rfl, rfl, fun k => (by rw [h] at k; cases k), fun _ => ⟨rfl, rfl⟩⟩
  · next h => exact ⟨rfl, rfl, rfl, fun _ => ⟨rfl, rfl, rfl⟩, fun k => absurd k h⟩

/-- The queue in which fetch `f` has brought `d` again. -/
def Que.refilledBy (u : Que) (f : Fetch) (d : Option RWord × Nat) : Que :=
  ({ u with refills := u.refills.filter fun g => g.id ≠ f.id } : Que).modA f.after fun a => refilled u a d

/-- A re-fetch that has returned is for an entry of its queue. -/
def Que.returns (u : Que) (ok : Origin → Bool) (f : Fetch) : Bool := f.data.isSome && u.acc.any fun a => a.id == f.after && ok a.origin

theorem State.refill_some {ok : Origin → Bool} {f : Fetch} {d : Option RWord × Nat} (hf : (s.que n q).refills.find? ((s.que n q).returns ok) = some f)
    (hd : f.data = some d) : s.refill n q ok = some ((s.modQ n q fun u => u.refilledBy f d).flow n q) := by
  have h : s.refill n q ok = ((s.que n q).refills.find? ((s.que n q).returns ok)).map fun f =>
    (s.modQ n q fun u => u.refilledBy f (f.data.getD (none, 2))).flow n q := rfl
  rw [h, hf, Option.map_some, hd]
  rfl

theorem Que.refilledBy_facts (u : Que) {ok : Origin → Bool} {f : Fetch} (d : Option RWord × Nat) (h : u.returns ok f = true) :
    ∃ a ∈ u.acc, a.id = f.after ∧ refilled u a d ∈ (u.refilledBy f d).acc ∧ (u.refilledBy f d).acc.map Acc.id = u.acc.map Acc.id := by
  obtain ⟨y, hy, hid⟩ : ∃ y ∈ u.acc, y.id = f.after := by
    simp only [Que.returns, Bool.and_eq_true, List.any_eq_true, beq_iff_eq] at h
    obtain ⟨_, y, hy, hid, _⟩ := h
    exact ⟨y, hy, hid⟩
  obtain ⟨a, ha, hai, hm⟩ := updFirst_mem hy fun a => refilled u a d
  rw [hid] at hai hm
  exact ⟨a, ha, hai, hm, updFirst_ids _ _ (fun b => (refilled_runs u b d).1) _⟩

/-- The command that runs on the queue's re-fetches of its kind first. -/
theorem exec_return_refill (hl : s.live n p = true) {c : Instr} {ok : Origin → Bool}
    (hc : (c = .ringEntryReturn n q ∧ ok = Origin.isRing) ∨ (c = .chainMemberReturn n q ∧ ok = Origin.isChain)) {t : State} (h : s.refill n q ok = some t) :
    exec c s = .next t := by
  rcases hc with ⟨rfl, rfl⟩ | ⟨rfl, rfl⟩ <;>
    exact congrArg Host.Outcome.next ((s.withAwake_live n p _ hl).trans (by rw [h]))

/-! ## Acceptance behind a predecessor -/

/-- A later-accepted descriptor retires unrun behind a fault that drains its queue (R137). -/
def Que.lateRun (u : Que) (a : Acc) : Bool := decide (u.st = .draining) && u.fltDet && a.pre.isNone

theorem Que.late_lateRun (u : Que) (a : Acc) : u.late a = if u.lateRun a then { a with notRun := true, deadline := none } else a := rfl

/-- The new entry stands in its queue's order behind `pred`, and its identity is used. -/
def State.putAfter (s : State) (n : Log) (q : Qn) (pred : Option Nat) (b : Acc) : State :=
  { s.modQ n q fun u => { u with acc := insertAcc (u.late b) pred u.acc } with nextId := s.nextId + 1 }

/-- What the Sundial never refuses (R162, R414). -/
theorem State.charge_unpromised (s : State) (n : Log) (q : Qn) (d : Desc) (h : (s.que n q).cfg.res = 0) : s.charge n q d = s := by
  unfold State.charge
  rw [h]
  simp

theorem State.accept_unpromised (s : State) {a : Acc} (pred : Option Nat) (hdl : a.deadline = none) (h : (s.que n q).cfg.res = 0 ∨ a.pre.isSome = true ∨ a.subst = true) :
    s.accept n q a pred = .inl (s.putAfter n q pred { a with id := s.nextId }) := by
  by_cases hf : (a.pre.isSome || a.subst) = true
  · unfold State.accept
    dsimp only
    rw [if_pos hf]
    rfl
  · have hres : (s.que n q).cfg.res = 0 := h.resolve_right fun k => hf (by simpa using k)
    unfold State.accept
    dsimp only
    rw [if_neg hf, s.charge_unpromised n q _ hres]
    unfold State.sunDecide
    rw [if_pos hres]
    dsimp only
    rw [if_neg Bool.false_ne_true]
    congr 2
    split
    · rw [← hdl]
    · rfl

/-- The Sundial's answer to an entry that it decides on (R414, R415). -/
inductive Decided (n : Log) (q : Qn) (a : Acc) (pred : Option Nat) (s : State) : State ⊕ Nat → Prop
  | admitted {t : State} (b : Acc) (f : Nat) (lastB : Option Nat) (sun : Sun)
      (entry : ∃ term safe anchored anchor deadline, b = { a with id := s.nextId, term, safe, anchored, anchor, deadline })
      (state : t = { s.modQ n q fun u => { u with acc := insertAcc (u.late b) pred u.acc, f, lastB } with nextId := s.nextId + 1, sun })
      (refuse : sun.refuse = s.sun.refuse) : Decided n q a pred s (.inl t)
  | refused {w : Nat} (horizon : (s.que n q).f = s.aclk + w) (waits : 0 < w) (promised : 0 < (s.que n q).cfg.res) : Decided n q a pred s (.inr w)

/-- A refusal waits for the queue's horizon, which is to come (R415). -/
theorem State.sunDecide_inr {a : Acc} {before : List Acc} {k w : Nat} (h : s.sunDecide n q a before k = .inr w) :
    (s.que n q).f = s.aclk + w ∧ 0 < w ∧ 0 < (s.que n q).cfg.res := by
  unfold State.sunDecide at h
  dsimp only at h
  split at h
  · cases h
  · next hres =>
    split at h
    · cases h
    · split at h
      · cases h
      · split at h
        · cases h
        · split at h
          · next hf =>
            cases h
            omega
          · cases h

theorem State.accept_decided (s : State) (n : Log) (q : Qn) (a : Acc) (pred : Option Nat) : Decided n q a pred s (s.accept n q a pred) := by
  unfold State.accept
  dsimp only
  split
  · exact .admitted { a with id := s.nextId } (s.que n q).f (s.que n q).lastB s.sun ⟨_, _, _, _, _, rfl⟩ (congrArg (fun x : State => { x with nextId := s.nextId + 1 }) (s.modQ_eq n q rfl)) rfl
  · split
    · next b mv hd =>
      obtain ⟨term, safe, anchored, anchor, deadline, hb⟩ := State.sunDecide_inl hd
      obtain ⟨c, hc, hce⟩ : ∃ c, c = (if ((s.que n q).st == .halted) = true then { b with deadline := none } else b)
          ∧ ∃ term safe anchored anchor deadline, c = { a with id := s.nextId, term, safe, anchored, anchor, deadline } := by
        refine ⟨_, rfl, ?_⟩
        rw [hb]
        split <;> exact ⟨_, _, _, _, _, rfl⟩
      rw [← hc]
      cases mv with
      | true =>
        rw [if_pos rfl]
        exact .admitted c (b.anchor.getD 0 + b.term) (some b.id) (s.charge n q a.d).sun hce
            (congrArg (fun x : State => { x with nextId := s.nextId + 1, sun := (s.charge n q a.d).sun }) (s.modQ_modQ n q _ _)) rfl
      | false =>
        rw [if_neg Bool.false_ne_true]
        exact .admitted c (s.que n q).f (s.que n q).lastB (s.charge n q a.d).sun hce
            (congrArg (fun x : State => { x with nextId := s.nextId + 1, sun := (s.charge n q a.d).sun }) (s.modQ_eq n q rfl)) rfl
    · next w hd =>
      obtain ⟨h1, h2, h3⟩ := State.sunDecide_inr hd
      exact .refused h1 h2 h3

end Sys2Proof.Machine
end

section
/-! SUPPORT. RING_ENTRY_RETURN, CHAIN_MEMBER_RETURN and REFETCH_EXPIRY behind the re-fetches (R115, R117, R119, R137, R415, R502). -/

namespace Sys2Proof.Machine

variable {n : Log} {q : Qn} {p : Phys} {s t u : State}

/-! ## Places -/

/-- A new entry stands behind the last one that `ok` accepts. -/
theorem insertAfter_split {ok : Acc → Bool} {l r : List Acc} (hl : l = [] ∨ l.getLast?.any ok = true) (hr : ∀ y ∈ r, ok y = false) (a : Acc) :
    insertAfter ok a (l ++ r) = l ++ a :: r := by
  induction l with
  | nil =>
    cases r with
    | nil => rfl
    | cons y ys =>
      have h : (y :: ys).any ok = false := by rw [List.any_eq_false]; exact fun x hx => by rw [hr x hx]; exact Bool.false_ne_true
      rw [List.nil_append, insertAfter, if_neg (by rw [h]; exact Bool.false_ne_true), List.nil_append]
  | cons x l ih =>
    have hlast : (x :: l).getLast?.any ok = true := hl.resolve_left (List.cons_ne_nil x l)
    have hany : (x :: l ++ r).any ok = true := by
      rw [List.getLast?_eq_some_getLast (List.cons_ne_nil x l), Option.any_some] at hlast
      exact List.any_eq_true.mpr ⟨_, List.mem_append_left r (List.getLast_mem (List.cons_ne_nil x l)), hlast⟩
    rw [List.cons_append] at hany ⊢
    rw [insertAfter, if_pos hany, ih]
    · rfl
    · cases l with
      | nil => exact .inl rfl
      | cons y l => exact .inr hlast

/-! ## A refusal -/

/-- A refusal on a queue with a promise is counted, and notes a bound STRIDE side (R405, R415). -/
theorem State.refuse_promised (s : State) (n : Log) (q : Qn) (d : Desc) (h : 0 < (s.que n q).cfg.res) : s.refuse n q d = { s with sun := { s.sun with
    refuse := min 0xFFFFFFFF (s.sun.refuse + 1), strideBound := s.sun.strideBound || strideBound d } } := by
  unfold State.refuse State.charge satAdd
  rw [decide_eq_true h, Bool.true_and]

/-- The state after a refusal: what was fetched is fetched again after the wait. -/
theorem State.refused_parts (s : State) (n : Log) (q : Qn) (d : Desc) (h : 0 < (s.que n q).cfg.res) (g : Que → Que) :
    let t := (s.refuse n q d).modQ n q g
    t.que n q = g (s.que n q) ∧ t.sun = { s.sun with refuse := min 0xFFFFFFFF (s.sun.refuse + 1), strideBound := s.sun.strideBound || strideBound d }
      ∧ t = { s with lch := t.lch, sun := t.sun } ∧ sameOthers n s t ∧ sameSiblings n q s t := by
  rw [s.refuse_promised n q d h]
  obtain ⟨h1, h2, h3⟩ := State.parts_of_modQ (s := s) (n := n) (q := q) (f := g)
    (t := ({ s with sun := { s.sun with refuse := min 0xFFFFFFFF (s.sun.refuse + 1), strideBound := s.sun.strideBound || strideBound d } } : State).modQ n q g) rfl
  exact ⟨h1, rfl, rfl, h2, h3⟩

/-! ## An acceptance -/

/-- What an entry is once queue `u` has accepted it as `b` (R137, R162). -/
def Acc.acceptedAs (a : Acc) (u : Que) (id : Nat) (b : Acc) : Prop :=
  b.id = id ∧ b.seq = a.seq ∧ b.member = a.member ∧ b.bytes = a.bytes ∧ b.pre = a.pre ∧ b.stage = a.stage ∧ b.notRun = (u.lateRun a || a.notRun)

theorem Que.late_acceptedAs (u : Que) {a b : Acc} {id : Nat}
    (h : ∃ term safe anchored anchor deadline, b = { a with id, term, safe, anchored, anchor, deadline }) : a.acceptedAs u id (u.late b) := by
  obtain ⟨_, _, _, _, _, rfl⟩ := h
  rw [Que.late_lateRun]
  split
  · next k =>
    have k : u.lateRun a = true := k
    exact ⟨rfl, rfl, rfl, rfl, rfl, rfl, by rw [k]; rfl⟩
  · next k =>
    have k : u.lateRun a = false := Bool.eq_false_of_not_eq_true k
    exact ⟨rfl, rfl, rfl, rfl, rfl, rfl, by rw [k]; rfl⟩

/-- An accepted entry stands in its queue's order; `g` is what the queue does then. -/
theorem State.accepted_parts {a : Acc} {pred : Option Nat} (h : s.accept n q a pred = .inl t) (g : Que → Que) :
    ∃ b f lastB, a.acceptedAs (s.que n q) s.nextId b ∧ (t.modQ n q g).que n q = g { s.que n q with acc := insertAcc b pred (s.que n q).acc, f, lastB }
      ∧ (t.modQ n q g).sun.refuse = s.sun.refuse ∧ t.modQ n q g = { s with lch := (t.modQ n q g).lch, nextId := s.nextId + 1, sun := (t.modQ n q g).sun }
      ∧ sameOthers n s (t.modQ n q g) ∧ sameSiblings n q s (t.modQ n q g) := by
  have hd := s.accept_decided n q a pred
  rw [h] at hd
  obtain ⟨b, f, lastB, sun, hb, ht, hr⟩ := hd
  obtain ⟨hq, ho, hs⟩ := State.parts_of_modQ (s := s) (t := t.modQ n q g) (f := fun u => g { u with acc := insertAcc (u.late b) pred u.acc, f, lastB })
    (by
      have e := congrArg State.lch (s.modQ_modQ n q (fun u => { u with acc := insertAcc (u.late b) pred u.acc, f, lastB }) g)
      rw [ht]
      exact e)
  exact ⟨_, f, lastB, (s.que n q).late_acceptedAs hb, hq, by rw [ht]; exact hr, by rw [ht]; rfl, ho, hs⟩

/-- What the Sundial has no say in moves its queue and uses an identity, and nothing else (R162, R414). -/
theorem State.unpromised_parts (s : State) {a : Acc} (pred : Option Nat) (hdl : a.deadline = none)
    (h : (s.que n q).cfg.res = 0 ∨ a.pre.isSome = true ∨ a.subst = true) (g : Que → Que) :
    ∃ t, s.accept n q a pred = .inl t ∧ (t.modQ n q g).que n q = g { s.que n q with acc := insertAcc ((s.que n q).late { a with id := s.nextId }) pred (s.que n q).acc }
      ∧ (t.modQ n q g).nextId = s.nextId + 1 ∧ t.modQ n q g = { s with lch := (t.modQ n q g).lch, nextId := (t.modQ n q g).nextId }
      ∧ sameOthers n s (t.modQ n q g) ∧ sameSiblings n q s (t.modQ n q g) := by
  have e := congrArg State.lch (s.modQ_modQ n q (fun u => { u with acc := insertAcc (u.late { a with id := s.nextId }) pred u.acc }) g)
  obtain ⟨hq, ho, hs⟩ := State.parts_of_modQ (s := s) (t := (s.putAfter n q pred { a with id := s.nextId }).modQ n q g)
    (f := fun u => g { u with acc := insertAcc (u.late { a with id := s.nextId }) pred u.acc }) e
  exact ⟨_, s.accept_unpromised pred hdl h, hq, rfl, rfl, ho, hs⟩

/-- Behind its horizon a queue accepts (R414). -/
theorem State.accept_due (s : State) (a : Acc) (pred : Option Nat) (h : (s.que n q).f ≤ s.aclk ∨ ∃ t, s.accept n q a pred = .inl t) :
    ∃ t, s.accept n q a pred = .inl t := by
  rcases h with h | h
  · have hd := s.accept_decided n q a pred
    cases he : s.accept n q a pred with
    | inl t => exact ⟨t, rfl⟩
    | inr w =>
      rw [he] at hd
      cases hd with
      | refused horizon waits => omega
  · exact h

/-- A refusal's wait ends at its queue's horizon, and its queue has a promise (R415). -/
theorem State.accept_waits (s : State) {a : Acc} {pred : Option Nat} {w : Nat} (h : s.accept n q a pred = .inr w) :
    (s.que n q).f = s.aclk + w ∧ 0 < w ∧ 0 < (s.que n q).cfg.res := by
  have hd := s.accept_decided n q a pred
  rw [h] at hd
  cases hd with
  | refused horizon waits promised => exact ⟨horizon, waits, promised⟩

theorem Que.lateRun_active {u : Que} (hst : u.st = .active) (a : Acc) : u.lateRun a = false := by
  unfold Que.lateRun
  rw [hst]
  rfl

/-- A fetched ring entry at the end of its queue (R115). -/
theorem Que.accepts_last {u : Que} (hst : u.st = .active) (a : Acc) : u.late a = a := by
  rw [Que.late_lateRun, Que.lateRun_active hst, if_neg Bool.false_ne_true]

/-! ## Ring entries -/

/-- What fetch `f` of a ring entry brought as `d`. -/
def ringEntry (u : Que) (f : Fetch) (d : Option RWord × Nat) : Acc := fetched u (f.idx % 65536) 0 f.dg (.ring f.idx) d

section
variable (hl : s.live n p = true) (hn : s.refill n q Origin.isRing = none)
include hl hn

theorem exec_ringEntry_idle (h : (s.que n q).st ≠ .active ∨ (s.que n q).refetch.isSome = true) : exec (.ringEntryReturn n q) s = .next s := by
  refine congrArg Host.Outcome.next ((s.withAwake_live n p _ hl).trans ?_)
  dsimp only
  rw [hn]
  dsimp only
  split
  · rfl
  · split
    · rfl
    · rw [if_pos (by simpa using h)]

variable {f : Fetch} {fs : List Fetch} {d : Option RWord × Nat} (hf : (s.que n q).fetches = f :: fs) (hd : f.data = some d)
  (hst : (s.que n q).st = .active) (hr : (s.que n q).refetch = none)
include hf hd hst hr

theorem exec_ringEntry_accepted (h : s.accept n q (ringEntry (s.que n q) f d) none = .inl t) :
    exec (.ringEntryReturn n q) s = .next ((t.modQ n q fun u => u.passEntry (ringEntry (s.que n q) f d).seq).flow n q) := by
  refine congrArg Host.Outcome.next ((s.withAwake_live n p _ hl).trans ?_)
  dsimp only
  rw [hn, hf]
  dsimp only
  rw [hd]
  dsimp only
  rw [hst, hr, if_neg (by simp)]
  unfold ringEntry at h
  rw [h]
  rfl

theorem exec_ringEntry_refused {w : Nat} (h : s.accept n q (ringEntry (s.que n q) f d) none = .inr w) :
    exec (.ringEntryReturn n q) s = .next ((s.refuse n q (ringEntry (s.que n q) f d).d).modQ n q fun u =>
      { u with fetches := f.again :: fs, refetch := some (s.aclk + w) }) := by
  refine congrArg Host.Outcome.next ((s.withAwake_live n p _ hl).trans ?_)
  dsimp only
  rw [hn, hf]
  dsimp only
  rw [hd]
  dsimp only
  rw [hst, hr, if_neg (by simp)]
  unfold ringEntry at h
  rw [h]
  rfl

end

/-! ## Chain members -/

/-- What fetch `f` of a chain member brought as `d`. -/
def chainMember (u : Que) (f : Fetch) (d : Option RWord × Nat) : Acc := { fetched u f.seq f.member f.dg (.chain f.addr) d with exempt := f.exempt }

section
variable (hl : s.live n p = true) (hn : s.refill n q Origin.isChain = none)
  {f : Fetch} {d : Option RWord × Nat} (hf : (s.que n q).chain = some f) (hd : f.data = some d) (hr : (s.que n q).rechain = none)
include hl hn hf hd hr

theorem exec_chainMember_accepted (h : s.accept n q (chainMember (s.que n q) f d) (some f.after) = .inl t) :
    exec (.chainMemberReturn n q) s = .next ((t.modQ n q fun u => { u with chain := none }).flow n q) := by
  refine congrArg Host.Outcome.next ((s.withAwake_live n p _ hl).trans ?_)
  dsimp only
  rw [hn, hf]
  dsimp only
  rw [hd]
  dsimp only
  rw [hr, if_neg (by simp)]
  unfold chainMember at h
  rw [h]

theorem exec_chainMember_refused {w : Nat} (h : s.accept n q (chainMember (s.que n q) f d) (some f.after) = .inr w) :
    exec (.chainMemberReturn n q) s = .next ((s.refuse n q (chainMember (s.que n q) f d).d).modQ n q fun u =>
      { u with chain := some f.again, rechain := some (s.aclk + w) }) := by
  refine congrArg Host.Outcome.next ((s.withAwake_live n p _ hl).trans ?_)
  dsimp only
  rw [hn, hf]
  dsimp only
  rw [hd]
  dsimp only
  rw [hr, if_neg (by simp)]
  unfold chainMember at h
  rw [h]
  rfl

end

/-! ## The end of a wait -/

theorem State.wake_serves (h : s.servP n = some p) : s.wake n = s.demand p := by
  unfold State.wake
  rw [h]

/-- The queue whose waits of the past are over. -/
def Que.waited (u : Que) (now : Nat) : Que := { u with refetch := u.refetch.filter (now < ·), rechain := u.rechain.filter (now < ·) }

theorem exec_refetchExpiry (hl : s.live n p = true) {t0 : Nat} (h : (s.que n q).refetch = some t0 ∨ (s.que n q).rechain = some t0) (h0 : t0 ≤ s.aclk) :
    ∃ quiet stirA, exec (.refetchExpiry n q) s = .next ((s.modQ n q fun u => u.waited s.aclk).modP p fun c => { c with quiet, stirA, entry := 0 }) := by
  have hp : s.servP n = some p := s.runP_servP n p ((s.live_iff n p).mp hl).2.2.1
  have hw : (s.modQ n q fun u => u.waited s.aclk).servP n = some p := hp
  obtain ⟨k, z, hk⟩ := (s.modQ n q fun u => u.waited s.aclk).demand_live n p hl
  refine ⟨k, z, congrArg Host.Outcome.next ((if_pos ?_).trans ((State.wake_serves hw).trans hk))⟩
  rw [hp]
  rcases h with h | h <;> rw [h] <;> simp [h0]

end Sys2Proof.Machine
end

section
namespace Sys2Proof.Machine

variable {n : Log} {q : Qn} {p : Phys} {s : State}

/-- Settles O42: each return is one update of its queue, behind the Sundial's answer (`State.accept_decided`); a chain member's place is `insertAfter_split`. -/
theorem ringsAndChainsFeedTheQueue : Obligations.RingsAndChainsFeedTheQueue := by
  unfold Obligations.RingsAndChainsFeedTheQueue
  intro s n p q hl
  refine ⟨fun r hr => ⟨fun v hv ho => ?_, fun h => ?_⟩, fun f fs d hn hf hd hst hr => ?_, fun hn h => exec_ringEntry_idle hl hn h, fun c isO hc f d hf hd => ?_,
    fun f d l r hn hf hd hr hacc hlast hbehind => ?_, fun t0 h h0 => ?_⟩
  · obtain ⟨hq, hos, hs⟩ := State.parts_of_modQ (s := s) (t := s.modQ n q fun u => u.indexed v) rfl
    refine ⟨_, exec_pidxReturn_valid hl hr hv ho, ?_⟩
    rw [hq]
    exact ⟨Que.show_shown _ v _, rfl, fun f h => Que.show_fetches _ v (s.que n q).prd.dg h, rfl, rfl, rfl, hos, hs⟩
  · obtain ⟨hq, hos, hs⟩ := State.parts_of_modQ (s := s) (t := s.modQ n q Que.ringFailed) rfl
    refine ⟨_, exec_pidxReturn_invalid hl hr h, ?_⟩
    rw [hq]
    exact ⟨rfl, rfl, rfl, rfl, rfl, hos, hs⟩
  · obtain ⟨hseq, -, hstage, hnr, hdl⟩ := fetched_new (s.que n q) (f.idx % 65536) 0 f.dg (.ring f.idx) d
    let a := ringEntry (s.que n q) f d
    have hfs : (s.que n q).fetches.drop 1 = fs := by rw [hf, List.drop_one, List.tail_cons]
    refine ⟨fun h => ?_, fun h => ?_, fun w h => ?_⟩
    · obtain ⟨t, ht, hq, hid, hv, ho, hs⟩ := s.unpromised_parts none (a := a) hdl h fun u => u.passEntry a.seq
      refine ⟨_, exec_ringEntry_accepted hl hn hf hd hst hr ht, ?_⟩
      rw [hq, Que.accepts_last hst]
      exact ⟨rfl, rfl, hseq, hfs, hid, hv, ho, hs⟩
    · obtain ⟨t, ht⟩ := s.accept_due a none h
      obtain ⟨b, f', lastB, ⟨hid, hbs, -, hbb, hbp, hbst, hbn⟩, hq, hrf, hv, ho, hs⟩ := State.accepted_parts ht fun u => u.passEntry a.seq
      refine ⟨_, b, exec_ringEntry_accepted hl hn hf hd hst hr ht, ?_⟩
      rw [hq]
      exact ⟨rfl, hid, hbs.trans hseq, hbb, hbp, hbst.trans hstage, hbn.trans (by rw [Que.lateRun_active hst]; exact hnr), rfl, hseq, hfs, hrf, hv, ho, hs⟩
    · obtain ⟨hw, h0, hres⟩ := s.accept_waits h
      exact ⟨hw, h0, _, exec_ringEntry_refused hl hn hf hd hst hr h, State.refused_parts s n q a.d hres fun u => { u with fetches := f.again :: fs, refetch := some (s.aclk + w) }⟩
  · have hret : (s.que n q).returns isO f = true := List.find?_some hf
    obtain ⟨a, ha, hid, hm, hids⟩ := (s.que n q).refilledBy_facts d hret
    obtain ⟨hb1, hb2, hb3, hb4, hb5⟩ := refilled_runs (s.que n q) a d
    obtain ⟨hq, hos, hs⟩ := State.parts_of_modQ (s := s) (t := s.modQ n q fun u => u.refilledBy f d) rfl
    refine ⟨_, a, refilled (s.que n q) a d, exec_return_refill hl hc (State.refill_some hf hd), ha, ?_⟩
    rw [hq]
    exact ⟨hm, hid, hb1.trans hid, hb2, hb3, ⟨hb4, hb5⟩, rfl, hids, rfl, hos, hs⟩
  · obtain ⟨hseq, hmem, hstage, hnr, hdl⟩ := fetched_new (s.que n q) f.seq f.member f.dg (.chain f.addr) d
    have hplace : ∀ b, insertAcc b (some f.after) (s.que n q).acc = l ++ b :: r := fun b => by
      have h := insertAfter_split hlast hbehind b
      rw [← hacc] at h
      exact h
    let a := chainMember (s.que n q) f d
    refine ⟨fun h => ?_, fun h => ?_, fun w h => ?_⟩
    · obtain ⟨t, ht, hq, hid, hv, ho, hs⟩ := s.unpromised_parts (some f.after) (a := a) hdl h fun u => { u with chain := none }
      refine ⟨_, exec_chainMember_accepted hl hn hf hd hr ht, ?_⟩
      rw [hq, hplace]
      exact ⟨rfl, rfl, rfl, rfl, hv, ho, hs⟩
    · obtain ⟨t, ht⟩ := s.accept_due a (some f.after) h
      obtain ⟨b, f', lastB, ⟨hid, hbs, hbm, hbb, hbp, hbst, hbn⟩, hq, hrf, hv, ho, hs⟩ := State.accepted_parts ht fun u => { u with chain := none }
      refine ⟨_, b, exec_chainMember_accepted hl hn hf hd hr ht, ?_⟩
      rw [hq, hplace]
      exact ⟨rfl, hid, hbs.trans hseq, hbm.trans hmem, hbb, hbp, hbst.trans hstage, hbn.trans (by rw [show a.notRun = false from hnr, Bool.or_false]; rfl),
        rfl, rfl, rfl, hrf, hv, ho, hs⟩
    · obtain ⟨hw, h0, hres⟩ := s.accept_waits h
      exact ⟨hw, h0, _, exec_chainMember_refused hl hn hf hd hr h, State.refused_parts s n q a.d hres fun u => { u with chain := some f.again, rechain := some (s.aclk + w) }⟩
  · obtain ⟨quiet, stirA, he⟩ := exec_refetchExpiry hl h h0
    obtain ⟨hq, hos, hs⟩ := State.parts_of_modQ (s := s) (n := n) (q := q) (f := fun u => u.waited s.aclk)
      (t := (s.modQ n q fun u => u.waited s.aclk).modP p fun c => { c with quiet, stirA, entry := 0 }) rfl
    exact ⟨_, he, hq, rfl, hos, hs, fun r hr => by rw [State.modP_phys, if_neg (Ne.symm hr)]; rfl⟩

end Sys2Proof.Machine
end

section
/-! SUPPORT. DESCRIPTOR_START: the slot, and what the start of a chain, a bed set, a LOCKED or a WAIT leaves (R119, R127, R128, R283, R326, R462, R469). -/

namespace Sys2Proof.Machine

variable {n : Log} {q : Qn} {p : Phys} {s t u : State} {wait vec : Bool} {P : Acc → Prop}

/-- What stands beside the entry of a descriptor that starts: `wait` for one that may take a task input's latch, `vec` for one whose staging buffer is read; `P` is what stays true of some entry. -/
structure StartFrame (n : Log) (q : Qn) (p : Phys) (wait vec : Bool) (P : Acc → Prop) (s t : State) : Prop where
  entry : (∃ b ∈ (s.que n q).acc, P b) → ∃ b ∈ (t.que n q).acc, P b
  kicks : (t.que n q).kicks = (s.que n q).kicks
  st : (t.que n q).st = (s.que n q).st
  lastAcc : (t.que n q).lastAcc = (s.que n q).lastAcc
  recs : (t.que n q).recs = (s.que n q).recs
  link : (t.que n q).link = (s.que n q).link
  queues : ∀ r : Qn, r ≠ q → t.que n r = s.que n r
  port : t.lch[n].port = s.lch[n].port
  ins : wait = false → t.lch[n].ins = s.lch[n].ins
  chans : samePhys p s t
  phys : vec = false → t.phys = s.phys
  sent : t.linkOut = s.linkOut
  others : sameOthers n s t
  control : sameControl s t

namespace StartFrame

/-- Nothing of the queues, of the port and of the inputs moves. -/
theorem of_lch (hl : t.lch = s.lch) (hp : t.phys = s.phys) (hs : t.linkOut = s.linkOut) (hc : sameControl s t) : StartFrame n q p wait vec P s t := by
  have hq : ∀ r, t.que n r = s.que n r := State.que_congr hl n
  exact ⟨fun h => by rw [hq]; exact h, by rw [hq], by rw [hq], by rw [hq], by rw [hq], by rw [hq], fun r _ => hq r, by rw [hl], fun _ => by rw [hl],
    fun r _ => by rw [hp], fun _ => hp, hs, fun m _ => by rw [hl], hc⟩

theorem refl (n : Log) (q : Qn) (p : Phys) (wait vec : Bool) (P : Acc → Prop) (s : State) : StartFrame n q p wait vec P s s := of_lch rfl rfl rfl rfl

theorem trans (h : StartFrame n q p wait vec P s t) (k : StartFrame n q p wait vec P t u) : StartFrame n q p wait vec P s u where
  entry hb := k.entry (h.entry hb)
  kicks := k.kicks.trans h.kicks
  st := k.st.trans h.st
  lastAcc := k.lastAcc.trans h.lastAcc
  recs := k.recs.trans h.recs
  link := k.link.trans h.link
  queues r hr := (k.queues r hr).trans (h.queues r hr)
  port := k.port.trans h.port
  ins hw := (k.ins hw).trans (h.ins hw)
  chans r hr := (k.chans r hr).trans (h.chans r hr)
  phys hv := (k.phys hv).trans (h.phys hv)
  sent := k.sent.trans h.sent
  others m hm := (k.others m hm).trans (h.others m hm)
  control := h.control.trans k.control

/-- An update of the entries, and of the queue's chain, that keeps `P` of some entry. -/
theorem modAcc (s : State) {f : Que → Que} (hf : ∀ u, ∃ acc chain, f u = { u with acc, chain } ∧ ((∃ b ∈ u.acc, P b) → ∃ b ∈ acc, P b)) :
    StartFrame n q p wait vec P s (s.modQ n q f) := by
  obtain ⟨acc, chain, he, hb⟩ := hf (s.que n q)
  obtain ⟨hq, ho, hr, hport, hi⟩ := State.parts_of_modQ (s := s) (t := s.modQ n q f) rfl
  rw [he] at hq
  exact ⟨fun h => by rw [hq]; exact hb h, by rw [hq], by rw [hq], by rw [hq], by rw [hq], by rw [hq], hr, hport, fun _ => hi, fun _ _ => rfl, fun _ => rfl, rfl, ho, rfl⟩

theorem modA (s : State) (id : Nat) {f : Acc → Acc} (hf : ∀ b, P b → P (f b)) : StartFrame n q p wait vec P s (s.modA n q id f) := by
  refine modAcc s fun u => ⟨_, u.chain, rfl, fun ⟨b, hb, hP⟩ => ?_⟩
  generalize u.acc = l at hb
  induction l with
  | nil => cases hb
  | cons x l ih =>
    unfold updFirst
    split
    · rcases List.mem_cons.mp hb with rfl | hb
      · exact ⟨_, List.mem_cons_self, hf _ hP⟩
      · exact ⟨b, List.mem_cons_of_mem _ hb, hP⟩
    · rcases List.mem_cons.mp hb with rfl | hb
      · exact ⟨_, List.mem_cons_self, hP⟩
      · obtain ⟨c, hc, hPc⟩ := ih hb
        exact ⟨c, List.mem_cons_of_mem _ hc, hPc⟩

theorem modL (s : State) {f : LCh → LCh} (hq : ∀ l, (f l).qs = l.qs) (hp : ∀ l, (f l).port = l.port) (hi : wait = false → ∀ l, (f l).ins = l.ins) :
    StartFrame n q p wait vec P s (s.modL n f) := by
  have h : ∀ r, (s.modL n f).que n r = s.que n r := s.modL_que_kept n f hq n
  exact ⟨fun hb => by rw [h]; exact hb, by rw [h], by rw [h], by rw [h], by rw [h], by rw [h], fun r _ => h r, by rw [State.modL_lch, if_pos rfl, hp],
    fun hw => by rw [State.modL_lch, if_pos rfl, hi hw], fun _ _ => rfl, fun _ => rfl, rfl, (AtLog.modL n s f).others, rfl⟩

theorem modI (s : State) (x : Fin 4) (f : TIn → TIn) : StartFrame n q p true vec P s (s.modI n x f) :=
  modL s (fun _ => rfl) (fun _ => rfl) nofun

theorem nextId (s : State) (k : Nat) : StartFrame n q p wait vec P s { s with nextId := k } := of_lch rfl rfl rfl rfl

theorem regionFail (s : State) (k : Kind) (i : Nat) : StartFrame n q p wait vec P s (s.regionFail n q k i) := of_lch rfl rfl rfl rfl

end StartFrame

theorem mem_insertAfter_of_mem {b : Acc} (ok : Acc → Bool) (r : Acc) {l : List Acc} (h : b ∈ l) : b ∈ insertAfter ok r l := by
  induction l with
  | nil => cases h
  | cons a l ih =>
    unfold insertAfter
    split
    · rcases List.mem_cons.mp h with rfl | h
      · exact List.mem_cons_self
      · exact List.mem_cons_of_mem a (ih h)
    · exact List.mem_cons_of_mem r h

theorem mem_insertAcc_of_mem {b : Acc} (r : Acc) (pred : Option Nat) {l : List Acc} (h : b ∈ l) : b ∈ insertAcc r pred l := by
  cases pred with
  | none => exact List.mem_append_left _ h
  | some i => exact mem_insertAfter_of_mem _ r h

/-! ## What a start is -/

/-- `b` is `a` once it has started (R127); a WAIT may be satisfied in the same aclk (R469). -/
def Acc.startedAs (a : Acc) (own : Bool) (now : Nat) (b : Acc) : Prop :=
  b.id = a.id ∧ b.seq = a.seq ∧ b.bytes = a.bytes ∧ b.stage ≠ .accepted ∧ (a.isWait = false → b.stage = .started) ∧ b.own2 = own ∧ b.startA = now

section
variable {a b : Acc} {own : Bool} {now : Nat}

/-- The chain's next member (R119, R121). -/
theorem StartFrame.startChain (s : State) (b : Acc) : StartFrame n q p wait vec (a.startedAs own now) s (s.startChain n q b) := by
  unfold State.startChain
  dsimp only
  split
  · exact .refl ..
  · split
    · refine (StartFrame.modAcc s fun u => ⟨_, u.chain, rfl, fun ⟨c, hc, hP⟩ => ⟨_, mem_insertAcc_of_mem _ _ (List.mem_map_of_mem hc), ?_⟩⟩).trans
        (.nextId _ _)
      split
      · exact hP
      · exact hP
    · refine ((StartFrame.modAcc s fun u => ⟨u.acc, _, rfl, id⟩).trans (.modA _ _ ?_)).trans (.nextId _ _)
      exact fun _ h => h

/-- A parity error of channel `p` is noted there. -/
theorem StartFrame.parErr (s : State) (area k : Nat) : StartFrame n q p wait true P s (s.parErr p area k) :=
  ⟨id, rfl, rfl, rfl, rfl, rfl, fun _ _ => rfl, rfl, fun _ => rfl, fun _ hr => (State.modP_phys ..).trans (if_neg (Ne.symm hr)), nofun, rfl, fun _ _ => rfl, rfl⟩

/-- Elements of the staging buffer that a start finds in error (R238, R326). -/
theorem StartFrame.groupUpset (s : State) (b : Acc) (bad : List (Fin 16)) :
    StartFrame n q p wait (!bad.isEmpty && b.d.isVec) (a.startedAs own now) s (s.groupUpset n p q b bad) := by
  unfold State.groupUpset
  split
  · exact .refl ..
  · next h =>
    simp only [Bool.or_eq_true, not_or, Bool.not_eq_true, Bool.not_eq_false'] at h
    rw [h.1.1, h.1.2]
    exact (StartFrame.parErr s 3 bad.length).trans (.modA _ _ fun _ h => h)

/-- The bed set that a PARTITION opens or a BEDCLOSE closes (R283, R291). -/
theorem StartFrame.startBed (s : State) (b : Acc) : StartFrame n q p wait vec (a.startedAs own now) s (s.startBed n q b) := by
  unfold State.startBed
  dsimp only
  split
  · exact .modA _ _ fun _ h => h
  · split
    · split
      · refine (StartFrame.modL s ?_ ?_ ?_).trans (.modA _ _ ?_)
        · exact fun _ => rfl
        · exact fun _ => rfl
        · exact fun _ _ => rfl
        · exact fun _ h => h
      · split
        · exact .refl ..
        · exact .modL s (fun _ => rfl) (fun _ => rfl) fun _ _ => rfl
    · exact .refl ..

/-- The end of a LOCKED before its transactions (R460, R462). -/
theorem StartFrame.startLocked (s : State) (b : Acc) : StartFrame n q p wait vec (a.startedAs own now) s (s.startLocked n q b) := by
  unfold State.startLocked
  dsimp only
  split
  · exact .refl ..
  · split
    · exact .modA _ _ fun _ h => h
    · split
      · exact .refl ..
      · exact (StartFrame.regionFail s _ _).trans (.modA _ _ fun _ h => h)

/-- A WAIT that is satisfied (R469). -/
theorem StartFrame.satisfy (hw : a.isWait = true) (s : State) (id g : Nat) : StartFrame n q p wait vec (a.startedAs own now) s (s.satisfy n q id g) := by
  refine .modA s id fun c ⟨hid, hseq, hb, _, _, ho, hn⟩ => ?_
  dsimp only
  have visible : ∀ {c : Acc}, c.stage ≠ .accepted → c.stage ≠ .accepted ∧ (a.isWait = false → c.stage = .started) := fun h => ⟨h, fun k => by rw [hw] at k; cases k⟩
  split
  · obtain ⟨h1, h2⟩ := visible (c := s.bookAcc n { c with satA := some s.aclk, satGen := g, dg := max c.dg (g + 1), stage := .visible, visA := s.aclk } s.aclk) nofun
    exact ⟨hid, hseq, hb, h1, h2, ho, hn⟩
  · exact ⟨hid, hseq, hb, nofun, fun k => (by rw [hw] at k; cases k), ho, hn⟩

/-- The start of a WAIT takes a latch or meets what another took in its aclk (R469). -/
theorem StartFrame.startWait (hw : a.isWait = true) (s : State) (b : Acc) : StartFrame n q p true vec (a.startedAs own now) s (s.startWait n q b) := by
  unfold State.startWait
  dsimp only
  split
  · exact .modI s _ _
  · split
    · exact (StartFrame.modI s _ _).trans (.satisfy hw _ _ _)
    · split
      · split
        · exact .satisfy hw s _ _
        · exact .refl ..
      · exact .refl ..

/-- What the operation finds at its start. -/
def State.startOp (s : State) (n : Log) (p : Phys) (q : Qn) (bad : List (Fin 16)) (b : Acc) : State :=
  let t := (s.startChain n q b).groupUpset n p q b bad
  match b.d.op with
  | 0x28 | 0x29 => t.startBed n q b
  | 0x31 => t.startLocked n q b
  | 0x38 => t.startWait n q b
  | _ => t

theorem StartFrame.startOp (hb : b.bytes = a.bytes) (s : State) (bad : List (Fin 16)) :
    StartFrame n q p a.isWait (!bad.isEmpty && a.d.isVec) (a.startedAs own now) s (s.startOp n p q bad b) := by
  have hd : b.d = a.d := hb
  have hg := (StartFrame.startChain (n := n) (q := q) (p := p) (wait := a.isWait) (vec := !bad.isEmpty && b.d.isVec) (a := a) (own := own) (now := now) s b).trans
    (.groupUpset _ b bad)
  rw [hd] at hg
  unfold State.startOp
  split
  · exact hg.trans (.startBed _ b)
  · exact hg.trans (.startBed _ b)
  · exact hg.trans (.startLocked _ b)
  · next h =>
    have hw : a.isWait = true := by
      unfold Acc.isWait
      rw [← hd, h]
      rfl
    rw [hw] at hg ⊢
    exact hg.trans (.startWait hw _ b)
  · exact hg

end

/-! ## The slot -/

/-- The queue in which the entry `a` has taken its slot as `b` (R127, R128, R131). -/
def Que.slotTaken (u : Que) (a b : Acc) (touch : Bool) : Que :=
  let u := u.freedTo (u.modA a.id fun _ => b)
  let u := { u with kicks := if a.d.hold && !a.replayed then u.kicks - 1 else u.kicks }
  if touch then u.touchF b else u

theorem State.takeSlot_eq (s : State) (n : Log) (q : Qn) (a : Acc) (own : Bool) : ∃ b touch sun g, a.startedAs own s.aclk b ∧ (∀ l : LCh, ∃ rrSlot, g l = { l with rrSlot })
    ∧ s.takeSlot n q a own = { (({ s with sun } : State).modQ n q fun u => u.slotTaken a b touch).modL n g with free := s.free + 1 } := by
  unfold State.takeSlot
  extract_lets u fresh k a1 book touch booked a2 b t w
  have h1 : ∃ term safe, a1 = { a with term, safe } := by
    unfold a1
    split <;> exact ⟨_, _, rfl⟩
  have h2 : ∃ term safe anchor deadline anchored, a2 = { a with term, safe, anchor, deadline, anchored } := by
    obtain ⟨term, safe, h1⟩ := h1
    unfold a2
    split
    · unfold booked
      rw [h1]
      exact ⟨_, _, _, _, _, rfl⟩
    · rw [h1]
      exact ⟨_, _, _, _, _, rfl⟩
  obtain ⟨term, safe, anchor, deadline, anchored, h2⟩ := h2
  have ht : ∃ sun, t = ({ s with sun } : State).modQ n q fun u => u.slotTaken a b touch := by
    unfold t Que.slotTaken
    rw [h2]
    split <;> exact ⟨_, rfl⟩
  obtain ⟨sun, ht⟩ := ht
  refine ⟨b, touch, sun, if own then id else fun l => { l with rrSlot := (q + 1) % 4 }, ?_, fun l => by cases own <;> exact ⟨_, rfl⟩, ?_⟩
  · unfold b
    rw [h2]
    exact ⟨rfl, rfl, rfl, nofun, fun _ => rfl, rfl, rfl⟩
  · unfold w
    rw [ht]
    cases own with
    | false => rfl
    | true => rw [if_pos rfl, if_pos rfl, State.modL_self _ n rfl]

/-- A descriptor that takes its slot is its entry, started; its queue's kicks are those it leaves (R128, R131). -/
theorem Que.slotTaken_eq (u : Que) (a b : Acc) (touch : Bool) : ∃ linkR owed f lastB, u.slotTaken a b touch
    = { u.modA a.id fun _ => b with linkR, owed, f, lastB, kicks := if a.d.hold && !a.replayed then u.kicks - 1 else u.kicks } := by
  obtain ⟨linkR, owed, h⟩ := u.freedTo_eq (u.modA a.id fun _ => b)
  unfold Que.slotTaken
  rw [h]
  cases touch <;> exact ⟨_, _, _, _, rfl⟩

/-- What the slot leaves (R128, R131). -/
theorem State.takeSlot_parts (s : State) {a : Acc} (ha : a ∈ (s.que n q).acc) (p : Phys) (own : Bool) :
    ∃ b linkR owed f lastB, a.startedAs own s.aclk b ∧ (s.takeSlot n q a own).acc n q a.id = some b
      ∧ (s.takeSlot n q a own).que n q = { (s.que n q).modA a.id fun _ => b with
          linkR, owed, f, lastB, kicks := if a.d.hold && !a.replayed then (s.que n q).kicks - 1 else (s.que n q).kicks }
      ∧ OnQueue n q p s (s.takeSlot n q a own) ∧ (s.takeSlot n q a own).phys = s.phys ∧ (s.takeSlot n q a own).linkOut = s.linkOut := by
  obtain ⟨b, touch, sun, g, hb, hg, he⟩ := s.takeSlot_eq n q a own
  obtain ⟨linkR, owed, f, lastB, hu⟩ := (s.que n q).slotTaken_eq a b touch
  have hk : ∀ l, (g l).qs = l.qs ∧ (g l).port = l.port ∧ (g l).ins = l.ins := fun l => by
    obtain ⟨rr, h⟩ := hg l
    rw [h]
    exact ⟨rfl, rfl, rfl⟩
  have hq : (s.takeSlot n q a own).que n q = (s.que n q).slotTaken a b touch := by
    rw [he]
    exact (State.modL_que_kept _ n g (fun l => (hk l).1) n q).trans (State.modQ_que _ n q _)
  rw [hu] at hq
  refine ⟨b, linkR, owed, f, lastB, hb, ?_, hq, ?_, by rw [he]; rfl, by rw [he]; rfl⟩
  · unfold State.acc
    rw [hq]
    refine (find?_updFirst (fun x => x.id == a.id) (fun _ => b) (s.que n q).acc fun _ _ => beq_iff_eq.mpr hb.1).trans ?_
    obtain ⟨x, hx⟩ : ∃ x, (s.que n q).acc.find? (fun x => x.id == a.id) = some x := by
      cases h : (s.que n q).acc.find? fun x => x.id == a.id with
      | some x => exact ⟨x, rfl⟩
      | none => exact absurd (beq_self_eq_true a.id) (List.find?_eq_none.mp h a ha)
    rw [hx]
    rfl
  · have hfree : ∀ w : State, OnQueue n q p w { w with free := s.free + 1 } := fun w => ⟨⟨rfl, fun _ _ => rfl, fun _ _ => rfl, rfl, List.prefix_rfl⟩, .refl n q _⟩
    rw [he]
    exact (((OnQueue.sun n q p s sun).trans (.modQ n q p _ _)).trans (.modL q p _ (fun l => (hk l).1) (fun l => (hk l).2.1) fun l => (hk l).2.2)).trans (hfree _)

/-! ## The command -/

section
variable {a : Acc} {own : Bool} {bad : List (Fin 16)} (hl : s.live n p = true) (ha : (s.que n q).head = some a) (ho : s.slotFor n q = some own)
  (hr : s.ready n q a = true)
include hl ha ho hr

theorem exec_descriptorStart {b : Acc} (hb : (s.takeSlot n q a own).acc n q a.id = some b) :
    exec (.descriptorStart n q ⟨false, bad⟩) s = .next (((s.takeSlot n q a own).startOp n p q bad b).flow n q) := by
  refine congrArg Host.Outcome.next ((s.withAwake_live n p _ hl).trans ?_)
  dsimp only
  rw [ha, ho]
  dsimp only
  unfold State.startOp
  rw [hr, Bool.not_true, if_neg Bool.false_ne_true, if_neg Bool.false_ne_true, hb] <;> exact congrArg (State.flow · n q) rfl

theorem exec_descriptorStart_upset : exec (.descriptorStart n q ⟨true, bad⟩) s = .next (s.areaUpset n p q a.id) := by
  refine congrArg Host.Outcome.next ((s.withAwake_live n p _ hl).trans ?_)
  dsimp only
  rw [ha, ho]
  dsimp only
  rw [hr]
  rfl

end

end Sys2Proof.Machine
end

section
namespace Sys2Proof.Machine

/-- Settles O43: the slot by `State.takeSlot_parts`, and what its operation finds behind it by `StartFrame.startOp`. -/
theorem descriptorsStart : Obligations.DescriptorsStart := by
  unfold Obligations.DescriptorsStart
  intro s n p q a own bad hl ha ho hr
  have hm : a ∈ (s.que n q).acc := List.mem_of_find?_eq_some ha
  constructor
  · obtain ⟨b, linkR, owed, f, lastB, hb, hacc, hq, hon, hphys, hout⟩ := s.takeSlot_parts (n := n) (q := q) hm p own
    have hf := StartFrame.startOp (n := n) (q := q) (p := p) (own := own) (now := s.aclk) hb.2.2.1 (s.takeSlot n q a own) bad
    have hm' : b ∈ ((s.takeSlot n q a own).que n q).acc := List.mem_of_find?_eq_some hacc
    refine ⟨_, exec_descriptorStart hl ha ho hr hacc, hf.entry ⟨b, hm', hb⟩, ?_, ?_, ?_, ?_, ?_, fun r h => (hf.queues r h).trans (hon.siblings.1 r h),
      hf.port.trans hon.siblings.2.1, fun hw => (hf.ins hw).trans hon.siblings.2.2, fun r h => (hf.chans r h).trans (hon.chans r h), fun hv => ?_, hf.sent.trans hout,
      fun m h => (hf.others m h).trans (hon.others m h), hon.control.trans hf.control⟩
    · rw [hf.kicks, hq]
    · rw [hf.st, hq]; rfl
    · rw [hf.lastAcc, hq]; rfl
    · rw [hf.recs, hq]; rfl
    · rw [hf.link, hq]; rfl
    · refine (hf.phys ?_).trans hphys
      rcases hv with h | h <;> rw [h]
      · rfl
      · exact Bool.and_false _
  · let f : Acc → Acc := fun a => { a with pre := some (0x0B, 0xFFFF), tagF := true, deadline := none }
    obtain ⟨b, -, hid, hb⟩ := updFirst_mem hm f
    have hq : (s.areaUpset n p q a.id).que n q = { s.que n q with acc := updFirst (fun x => x.id == a.id) f (s.que n q).acc } := State.modA_que _ n q a.id f
    refine ⟨_, exec_descriptorStart_upset hl ha ho hr, ⟨f b, by rw [hq]; exact hb, hid, rfl, rfl, rfl⟩, by rw [hq], by rw [hq]; exact length_updFirst _ _ _, ?_,
      ((OnQueue.modC n q p s _).trans (.modA n q p _ _ _)).frame, rfl⟩
    rw [show (s.areaUpset n p q a.id).phys = (s.parErr p 4 1).phys from rfl, State.parErr, State.modC, State.modP_phys, if_pos rfl]
    rfl

end Sys2Proof.Machine
end

section
/-! SUPPORT. DESCRIPTOR_VISIBLE and DESCRIPTOR_RETIRE: what the head of a queue leaves when it retires, the fault policy, and what the scrub of its part of the store meets (R120, R130, R137, R326, R333, R489). -/

namespace Sys2Proof.Machine

variable {n : Log} {q : Qn} {p : Phys} {s t : State}

/-! ## Visible -/

/-- The horizon falls when the last one booked is visible or retires before it (R416). -/
theorem Que.release_eq (u : Que) (id now : Nat) : u.release id now = { u with f := if u.lastB = some id then min u.f now else u.f } := by
  unfold Que.release
  split <;> rfl

/-- The queue in which `id` has become visible (R125). -/
def Que.shownAt (u : Que) (id now : Nat) : Que := (u.modA id fun a => { a with stage := .visible, visA := now }).release id now

theorem Que.shownAt_eq (u : Que) (id now : Nat) : u.shownAt id now = { u with
    acc := updFirst (fun a => a.id == id) (fun a => { a with stage := .visible, visA := now }) u.acc, f := if u.lastB = some id then min u.f now else u.f } :=
  Que.release_eq _ id now

theorem exec_descriptorVisible (hl : s.live n p = true) {id : Nat} {a : Acc} (ha : s.acc n q id = some a) (hs : a.stage = .started) (hb : a.settled s.lch[n].bed = true) :
    exec (.descriptorVisible n q id) s = .next (s.modQ n q fun u => u.shownAt id s.aclk) := by
  refine congrArg Host.Outcome.next ((s.withAwake_live n p _ hl).trans ?_)
  rw [ha]
  exact if_pos (by rw [hs, hb]; rfl)

/-! ## What the verification of a scrub meets -/

/-- `k` parity errors are noted on channel `p` and nowhere else (R326). -/
structure Upset (p : Phys) (k : Nat) (s t : State) : Prop where
  state : t = { s with phys := t.phys }
  chans : samePhys p s t
  count : 0 < k → t.phys[p].c.parErr = min 0xFFFF (s.phys[p].c.parErr + k)
  st : t.phys[p].st = s.phys[p].st
  comb : t.phys[p].partComb = s.phys[p].partComb

theorem Upset.modC (s : State) (k : Nat) {f : CCnt → CCnt} (hf : ∀ c, (f c).parErr = satAdd 0xFFFF c.parErr k) : Upset p k s (s.modC p f) :=
  ⟨rfl, fun _ hr => (State.modP_phys ..).trans (if_neg (Ne.symm hr)), fun _ => by rw [State.modC, State.modP_phys, if_pos rfl, hf]; rfl,
    by rw [State.modC, State.modP_phys, if_pos rfl], by rw [State.modC, State.modP_phys, if_pos rfl]⟩

theorem Upset.parErrs (s : State) (l : List (BitVec 11)) : Upset p l.length s (l.foldl (fun t w => t.parErr p (areaOf w.toNat) 1) s) := by
  induction l generalizing s with
  | nil => exact ⟨rfl, fun _ _ => rfl, fun h => absurd h (Nat.lt_irrefl 0), rfl, rfl⟩
  | cons w l ih =>
    have h1 : Upset p 1 s (s.parErr p (areaOf w.toNat) 1) := .modC s 1 fun _ => rfl
    have h2 := ih (s.parErr p (areaOf w.toNat) 1)
    rw [List.foldl_cons]
    refine ⟨by rw [h2.state, h1.state], fun r hr => (h2.chans r hr).trans (h1.chans r hr), fun _ => ?_, h2.st.trans h1.st, h2.comb.trans h1.comb⟩
    have hc := h1.count Nat.one_pos
    by_cases hl : 0 < l.length
    · rw [h2.count hl, hc, List.length_cons]
      omega
    · have hn : l = [] := List.length_eq_zero_iff.mp (by omega)
      rw [hn]
      exact hc

theorem Upset.ctlError {k : Nat} (h : Upset p k s t) : Upset p k s (t.ctlError p) := by
  obtain ⟨-, -, -, -, hr, hs⟩ := t.ctlError_notes p
  obtain ⟨dieA, hd, -⟩ := t.phys[p].ctlErr_eq t.aclk
  have hp : (t.ctlError p).phys[p] = { t.phys[p] with parity := true, dieA } := by rw [State.ctlError_eq, State.modP_phys, if_pos rfl, hd]
  exact ⟨by rw [hs, h.state], fun r e => (hr r e).trans (h.chans r e), fun hk => by rw [hp, h.count hk], by rw [hp, h.st], by rw [hp, h.comb]⟩

theorem Upset.scrubUpset (s : State) (p : Phys) (l : List (BitVec 11)) : Upset p l.length s (s.scrubUpset p l) := by
  unfold State.scrubUpset
  dsimp only
  split
  · exact (Upset.parErrs s l).ctlError
  · exact .parErrs s l

theorem State.scrubUpset_nil (s : State) (p : Phys) : s.scrubUpset p [] = s := rfl

/-! ## The head leaves its queue -/

/-- The queue that its head `a` has left (R120, R130). -/
theorem Que.retired_eq (u : Que) (a : Acc) (o : Outc) (now ord : Nat) : ∃ linkR owed f members dataAcks,
    u.retired a o now ord = { u with
      linkR, owed, f, members, dataAcks, acc := u.acc.drop 1
      recs := u.recs ++ [u.mkRec a o (!a.retry && seqAfter a.seq u.lastRet && !a.goesOn && !u.cfg.ring) ord], rcnt := (u.rcnt + 1) % 2 ^ 32
      lastRet := if !a.retry && seqAfter a.seq u.lastRet && !a.goesOn then a.seq else u.lastRet
      halt := if a.retry then none else u.halt
      qSeq := if o.isFault then a.seq else u.qSeq
      qCause := if o.isFault then o.cause else u.qCause
      qIndet := if o.isFault then o.status == 0x11 else u.qIndet
      hin := u.hin.filter fun h => h.1 ≠ a.id
      toDrop := u.toDrop ++ a.leftover o } := by
  unfold Que.retired
  extract_lets fresh last v freed
  have hv : ∃ f, v = { u with f } := by
    unfold v
    split
    · exact ⟨_, rfl⟩
    · exact ⟨_, u.release_eq a.id now⟩
  obtain ⟨f, hv⟩ := hv
  obtain ⟨linkR, owed, h⟩ := v.freedTo_eq { v with acc := v.acc.drop 1 }
  unfold freed
  rw [h, hv]
  exact ⟨_, _, _, _, _, rfl⟩

/-- A part of the store of `n`'s channel is scrubbed: its page and its queues stay (R332). -/
theorem State.scrubPart_parts (hp : s.servP n = some p) (q : Qn) (words : Nat) (comb : Bool) :
    OnQueue n q p s (s.scrubPart n words comb) ∧ s.scrubPart n words comb = { s with phys := (s.scrubPart n words comb).phys }
      ∧ ∃ partEnd partComb, (s.scrubPart n words comb).phys[p] = { s.phys[p] with partEnd, partComb } ∧ (comb = true → partComb = true) := by
  unfold State.scrubPart
  rw [hp]
  exact ⟨.modP n q s fun _ => rfl, rfl, _, _, (State.modP_phys ..).trans (if_pos rfl), fun h => by rw [h]; rfl⟩

/-- The channel once the head `a` has left its queue, before the fault policy (R130). -/
def State.headLeft (s : State) (n : Log) (p : Phys) (q : Qn) (a : Acc) (o : Outc) : State :=
  let t := s.modL n fun l => { l with bed := bedAfter a o l.bed, retN := l.retN + 1 }
  let t := if a.d.isVec && a.stage ≠ .accepted then t.scrubPart n 4 false else t
  let t := if s.lch[n].bed.isSome && (bedAfter a o s.lch[n].bed).isNone then t.scrubPart n 320 true else t
  let t := t.modQ n q fun u => u.retired a o s.aclk s.lch[n].retN
  if o.isFault then t.modC p fun c => { c with faults := satAdd 0xFFFF c.faults 1 } else t

theorem State.retireCore_eq (s : State) (n : Log) (p : Phys) (q : Qn) (a : Acc) (o : Outc) : s.retireCore n p q a o = (s.headLeft n p q a o).policy n q a o := rfl

/-- What a scrub before a retirement leaves as it is. -/
structure Scrubbed (n : Log) (q : Qn) (p : Phys) (s t : State) : Prop where
  on : OnQueue n q p s t
  state : t = { s with phys := t.phys }
  page : t.phys[p].c = s.phys[p].c

theorem Scrubbed.part (h : Scrubbed n q p s t) (hp : s.runP n = some p) (b : Bool) (words : Nat) (comb : Bool) :
    Scrubbed n q p s (if b then t.scrubPart n words comb else t) := by
  cases b with
  | false => exact h
  | true =>
    obtain ⟨h1, h2, _, _, h3, -⟩ := State.scrubPart_parts (t.runP_servP n p ((h.on.runP n).trans hp)) q words comb
    exact ⟨h.on.trans h1, h2.trans (congrArg (fun x : State => { x with phys := (t.scrubPart n words comb).phys }) h.state), (congrArg PCh.c h3).trans h.page⟩

/-- What the head's leaving changes (R120, R130). -/
theorem State.headLeft_parts (hp : s.runP n = some p) (q : Qn) (a : Acc) (o : Outc) :
    OnQueue n q p s (s.headLeft n p q a o) ∧ (s.headLeft n p q a o).que n q = (s.que n q).retired a o s.aclk s.lch[n].retN
      ∧ (s.headLeft n p q a o).lch[n].bed = bedAfter a o s.lch[n].bed ∧ (s.headLeft n p q a o).linkOut = s.linkOut
      ∧ (s.headLeft n p q a o).phys[p].c = if o.isFault then { s.phys[p].c with faults := min 0xFFFF (s.phys[p].c.faults + 1) } else s.phys[p].c := by
  unfold State.headLeft
  extract_lets t1 t2 t3 t4
  have h1 : OnQueue n q p s t1 := .modL q p s (fun _ => rfl) (fun _ => rfl) fun _ => rfl
  have hs : Scrubbed n q p t1 t3 := by
    unfold t3 t2
    have hp1 := (h1.runP n).trans hp
    exact Scrubbed.part (Scrubbed.part ⟨.refl n q p t1, rfl, rfl⟩ hp1 _ 4 false) hp1 _ 320 true
  have h4 : OnQueue n q p s t4 := (h1.trans hs.on).trans (.modQ n q p t3 _)
  have hlch : t3.lch = t1.lch := by rw [hs.state]
  have hq : t4.que n q = (s.que n q).retired a o s.aclk s.lch[n].retN := by
    unfold t4
    rw [State.modQ_que, State.que_congr hlch]
    exact congrArg (Que.retired · a o s.aclk s.lch[n].retN) (s.modL_que_kept n (fun l => { l with bed := bedAfter a o l.bed, retN := l.retN + 1 }) (fun _ => rfl) n q)
  have hb : t4.lch[n].bed = bedAfter a o s.lch[n].bed := by
    unfold t4
    rw [State.modQ, State.modL_lch, if_pos rfl, hlch]
    unfold t1
    rw [State.modL_lch, if_pos rfl]
    rfl
  have hc : t4.phys[p].c = s.phys[p].c := hs.page
  have ho : t4.linkOut = s.linkOut := by
    show t3.linkOut = s.linkOut
    rw [hs.state]
    rfl
  split
  · refine ⟨h4.trans (.modC n q p t4 _), hq, hb, ho, ?_⟩
    rw [State.modC, State.modP_phys, if_pos rfl, hc]
    rfl
  · exact ⟨h4, hq, hb, ho, hc⟩

/-! ## The fault policy -/

/-- What the fault policy and the acknowledgements behind it leave as they are. -/
structure Policy (n : Log) (q : Qn) (p : Phys) (s t : State) : Prop where
  on : OnQueue n q p s t
  phys : t.phys = s.phys
  bed : t.lch[n].bed = s.lch[n].bed
  ids : (t.que n q).acc.map Acc.id = (s.que n q).acc.map Acc.id
  queue : ∃ st halt fetches acc fltDet dataAcks, t.que n q = { s.que n q with st, halt, fetches, acc, fltDet, dataAcks }

theorem Policy.refl (n : Log) (q : Qn) (p : Phys) (s : State) : Policy n q p s s := ⟨.refl n q p s, rfl, rfl, rfl, _, _, _, _, _, _, rfl⟩

theorem Policy.trans {u : State} (h : Policy n q p s t) (k : Policy n q p t u) : Policy n q p s u := by
  obtain ⟨_, _, _, _, _, _, h5⟩ := h.queue
  obtain ⟨_, _, _, _, _, _, k5⟩ := k.queue
  exact ⟨h.on.trans k.on, k.phys.trans h.phys, k.bed.trans h.bed, k.ids.trans h.ids, _, _, _, _, _, _, by rw [k5, h5]⟩

theorem Policy.modQ (p : Phys) (s : State) {f : Que → Que} {st : QS} {halt : Option Halt} {fetches : List Fetch} {acc : List Acc} {fltDet : Bool} {dataAcks : List (Nat × Nat)}
    (h : f (s.que n q) = { s.que n q with st, halt, fetches, acc, fltDet, dataAcks }) (hid : acc.map Acc.id = (s.que n q).acc.map Acc.id) :
    Policy n q p s (s.modQ n q f) := by
  have hq : (s.modQ n q f).que n q = _ := (s.modQ_que n q f).trans h
  exact ⟨.modQ n q p s f, rfl, by rw [State.modQ, State.modL_lch, if_pos rfl]; rfl, by rw [hq]; exact hid, _, _, _, _, _, _, hq⟩

theorem Policy.send (n : Log) (q : Qn) (p : Phys) (s : State) (k : Pkt) : Policy n q p s (s.send n k) := by
  have hq := s.send_que n n k q
  exact ⟨.send n q p s k, s.send_phys n k, by rw [s.send_lch], by rw [hq], _, _, _, _, _, _, hq⟩

theorem map_id_ite {c : Acc → Bool} {f : Acc → Acc} (hf : ∀ a, (f a).id = a.id) (l : List Acc) : (l.map fun a => if c a then a else f a).map Acc.id = l.map Acc.id := by
  rw [List.map_map]
  refine List.map_congr_left fun a _ => ?_
  show (if c a then a else f a).id = a.id
  split
  · rfl
  · exact hf a

/-- A halt (R140, R489 to R491). -/
theorem Policy.halt (p : Phys) (s : State) (a : Acc) (o : Outc) : Policy n q p s (s.halt n q a o) := by
  unfold State.halt
  refine Policy.trans ?_ (.send n q p _ _)
  exact .modQ p s (dataAcks := (s.que n q).dataAcks) (fltDet := (s.que n q).fltDet) rfl (map_id_ite (f := fun y => { y with deadline := none }) (fun _ => rfl) _)

theorem Policy.policy (p : Phys) (s : State) (a : Acc) (o : Outc) : Policy n q p s (s.policy n q a o) := by
  unfold State.policy
  dsimp only
  split
  · exact .refl n q p s
  · split
    · split
      · exact .halt p s a o
      · exact .refl n q p s
    · exact .modQ p s (st := (s.que n q).st) (halt := (s.que n q).halt) (fetches := (s.que n q).fetches) (dataAcks := (s.que n q).dataAcks) rfl
        (map_id_ite (f := fun y => { y with notRun := true, deadline := none }) (fun _ => rfl) _)
    · exact .refl n q p s
    · exact .refl n q p s

theorem State.policy_none {a : Acc} {o : Outc} (h : o.isFault = false ∨ (s.que n q).cfg.skip = true) : s.policy n q a o = s := by
  unfold State.policy
  dsimp only
  rcases h with h | h <;> rw [h] <;> simp

theorem State.policy_halt {a : Acc} {o : Outc} (hf : o.isFault = true) (hk : (s.que n q).cfg.skip = false) (ha : (s.que n q).st = .active) (hh : (s.que n q).halt = none) :
    s.policy n q a o = s.halt n q a o := by
  unfold State.policy
  dsimp only
  rw [hf, hk, ha, hh]
  rfl

/-- A halted queue (R140, R489). -/
theorem State.halt_que (s : State) (n : Log) (q : Qn) (a : Acc) (o : Outc) : (s.halt n q a o).que n q = { s.que n q with
    st := .halted, halt := some (haltOf a o), fetches := [], acc := (s.que n q).acc.map fun y => if y.begun then y else { y with deadline := none } } :=
  (State.send_que _ n n _ q).trans (s.modQ_que n q _)

/-- IDLE is raised when nothing is left (R136). -/
def State.idleRaised (s : State) (n : Log) (a : Acc) : State :=
  if s.lch[n].drained then s.modL n fun l => { l with outs := l.outs.set 3 (insertEvt ⟨a.dg, s.aclk, l.retN⟩ l.outs[3]) } else s

theorem Policy.modL (q : Qn) (p : Phys) (s : State) {f : LCh → LCh} (hq : ∀ l, (f l).qs = l.qs) (hp : ∀ l, (f l).port = l.port) (hi : ∀ l, (f l).ins = l.ins)
    (hb : ∀ l, (f l).bed = l.bed) : Policy n q p s (s.modL n f) := by
  have h := s.modL_que_kept n f hq n q
  exact ⟨.modL q p s hq hp hi, rfl, by rw [State.modL_lch, if_pos rfl, hb], by rw [h], _, _, _, _, _, _, h⟩

theorem Policy.idleRaised (q : Qn) (p : Phys) (s : State) (a : Acc) : Policy n q p s (s.idleRaised n a) := by
  unfold State.idleRaised
  split
  · exact .modL q p s (fun _ => rfl) (fun _ => rfl) (fun _ => rfl) fun _ => rfl
  · exact .refl n q p s

theorem State.idleRaised_que (s : State) (n : Log) (a : Acc) (q : Qn) : (s.idleRaised n a).que n q = s.que n q := by
  unfold State.idleRaised
  split
  · refine s.modL_que_kept n _ ?_ n q
    exact fun _ => rfl
  · rfl

theorem Policy.foldl {α : Type} {f : State → α → State} (hf : ∀ s a, Policy n q p s (f s a)) (l : List α) (s : State) : Policy n q p s (l.foldl f s) := by
  induction l generalizing s with
  | nil => exact .refl n q p s
  | cons a l ih => exact (hf s a).trans (ih _)

/-- The acknowledgements move none of the queue's state (R104). -/
theorem State.dataRetired_que (s : State) (n : Log) (q : Qn) : ∃ dataAcks, (s.dataRetired n q).que n q = { s.que n q with dataAcks } := by
  unfold State.dataRetired
  dsimp only
  split
  · exact ⟨_, rfl⟩
  · refine ⟨[], ?_⟩
    have h : ∀ (l : List (Nat × Nat)) (t : State), (t.over l fun s k => s.send n (.ack q k.1 2)).que n q = t.que n q := fun l => by
      induction l with
      | nil => exact fun _ => rfl
      | cons k l ih => exact fun t => (ih _).trans (State.send_que _ n n _ q)
    exact (h _ _).trans (s.modQ_que n q _)

theorem Policy.dataRetired (n : Log) (q : Qn) (p : Phys) (s : State) : Policy n q p s (s.dataRetired n q) := by
  unfold State.dataRetired
  dsimp only
  split
  · exact .refl n q p s
  · exact (Policy.modQ p s (st := (s.que n q).st) (halt := (s.que n q).halt) (fetches := (s.que n q).fetches) (fltDet := (s.que n q).fltDet) rfl rfl).trans
      (.foldl (fun t _ => .send n q p t _) _ _)

/-- A record is 16 bytes (R173). -/
theorem leBytes_length (k x : Nat) : (leBytes k x).length = k := by
  induction k generalizing x with
  | zero => rfl
  | succ k ih => exact congrArg (· + 1) (ih _)

theorem recordBytes_length (a : Acc) (o : Outc) : (recordBytes a o).length = 16 := by
  unfold recordBytes
  simp only [List.length_append, leBytes_length]

/-- The channel once the head has left, the fault policy has acted, and IDLE and the acknowledgements have been raised. -/
def State.headGone (s : State) (n : Log) (p : Phys) (q : Qn) (a : Acc) (o : Outc) : State := ((s.retireCore n p q a o).idleRaised n a).dataRetired n q

theorem Policy.headGone (s : State) (n : Log) (p : Phys) (q : Qn) (a : Acc) (o : Outc) : Policy n q p (s.headLeft n p q a o) (s.headGone n p q a o) :=
  ((Policy.policy p _ a o).trans (.idleRaised q p _ a)).trans (.dataRetired n q p _)

/-- What comes behind the fault policy moves acknowledgements alone. -/
theorem State.headGone_que (s : State) (n : Log) (p : Phys) (q : Qn) (a : Acc) (o : Outc) : ∃ dataAcks,
    (s.headGone n p q a o).que n q = { ((s.headLeft n p q a o).policy n q a o).que n q with dataAcks } := by
  obtain ⟨dataAcks, h⟩ := State.dataRetired_que ((s.retireCore n p q a o).idleRaised n a) n q
  rw [State.idleRaised_que, s.retireCore_eq] at h
  exact ⟨dataAcks, h⟩

/-! ## The command -/

theorem exec_descriptorRetire (hl : s.live n p = true) {a : Acc} {rest : List Acc} (ha : (s.que n q).acc = a :: rest) (hm : (s.que n q).mayRetire a = true)
    (upset : List (BitVec 11)) {o : Outc} (ho : outcome a s.lch[n].bed = o) (hr : s.roomToRetire n a o (s.retireCore n p q a o) = true) :
    exec (.descriptorRetire n ⟨q, upset⟩) s = .next (((s.headGone n p q a o).flow n q).partUpset p (a.d.isVec && a.stage ≠ .accepted)
      (s.lch[n].bed.isSome && (s.retireCore n p q a o).lch[n].bed.isNone) upset) := by
  refine congrArg Host.Outcome.next ((s.withAwake_live n p _ hl).trans ?_)
  dsimp only
  rw [ha, List.head?_cons]
  dsimp only
  rw [ho, hm, hr, Bool.and_true, if_pos rfl]
  rfl

end Sys2Proof.Machine
end

section
namespace Sys2Proof.Machine

/-- Settles O44: the head leaves by `State.headLeft_parts` and `Que.retired_eq`, and the fault policy moves the halt alone (`Policy`). -/
theorem descriptorsRetireInOrder : Obligations.DescriptorsRetireInOrder := by
  unfold Obligations.DescriptorsRetireInOrder
  intro s n p q a upset hl
  refine ⟨fun id ha hs hb => ?_, fun rest ha hm => ?_, fun w group bed => ?_⟩
  · obtain ⟨hq, ho, hsib⟩ := State.parts_of_modQ (s := s) (t := s.modQ n q fun u => u.shownAt id s.aclk) rfl
    rw [Que.shownAt_eq] at hq
    refine ⟨_, exec_descriptorVisible hl ha hs hb, ?_, by rw [hq], by rw [hq], by rw [hq]; exact length_updFirst _ _ _, rfl, ho, hsib⟩
    unfold State.acc at ha ⊢
    rw [hq, find?_updFirst (fun x => x.id == id) (fun a => { a with stage := .visible, visA := s.aclk }) (s.que n q).acc fun _ h => h, ha]
    rfl
  · dsimp only
    generalize ho : outcome a s.lch[n].bed = o
    intro hroom
    obtain ⟨-, -, hrun, -⟩ := (s.live_iff n p).mp hl
    obtain ⟨hon, hleft, hbed, hout, hpage⟩ := State.headLeft_parts hrun q a o
    obtain ⟨linkR, owed, f, members, acks, hr⟩ := (s.que n q).retired_eq a o s.aclk s.lch[n].retN
    rw [hr] at hleft
    have hP := Policy.headGone s n p q a o
    obtain ⟨st, halt, fetches, acc, fltDet, dataAcks, hv⟩ := hP.queue
    obtain ⟨dataAcks', hv'⟩ := s.headGone_que n p q a o
    have hids := hP.ids
    rw [hleft] at hv
    refine ⟨s.headGone n p q a o, ?_, ⟨(s.que n q).mkRec a o (!a.retry && seqAfter a.seq (s.que n q).lastRet && !a.goesOn && !(s.que n q).cfg.ring) s.lch[n].retN, ?_, rfl, rfl, recordBytes_length a o, rfl, rfl, rfl, rfl, rfl⟩, ?_, ?_, ?_, ?_, ?_, fun h => ?_, fun h => ?_, fun h => ?_,
      fun hf hk hst hh => ?_, (hon.trans hP.on).frame⟩
    · rw [exec_descriptorRetire hl ha hm upset ho hroom, s.retireCore_eq, (Policy.policy p _ a o).bed, hbed]
    · rw [hv]
    · rw [hids, hleft, ha]; rfl
    · rw [hv]
    · rw [hv]
    · rw [hv]
    · rw [hv]
    · rw [hv', State.policy_none (by rw [hleft]; exact h), hleft]
    · rw [hP.phys, hpage, h, if_neg Bool.false_ne_true]
    · rw [hP.phys, hpage, hv, h]
      exact ⟨rfl, rfl, rfl⟩
    · have hnone : (if a.retry then none else (s.que n q).halt) = none := by
        rw [hh]
        exact ite_self none
      have hhalt := State.policy_halt (s := s.headLeft n p q a o) (n := n) (q := q) (a := a) hf (by rw [hleft]; exact hk) (by rw [hleft]; exact hst) (by rw [hleft]; exact hnone)
      refine ⟨?_, ?_, ?_, fun ht => ?_⟩
      · rw [hv', hhalt, State.halt_que]
      · rw [hv', hhalt, State.halt_que]; rfl
      · rw [hv', hhalt, State.halt_que]
      · have hmem : (n, Pkt.status q 2 a.seq o.cause) ∈ ((s.headLeft n p q a o).policy n q a o).linkOut := by
          rw [hhalt, State.halt, State.send_pins _ _ _ (hon.tap ▸ ht)]
          exact List.mem_append_right _ (List.mem_singleton_self _)
        exact ((Policy.idleRaised q p _ a).trans (.dataRetired n q p _)).on.sent.subset hmem
  · have hu := Upset.scrubUpset w p (upset.filter fun i => (group && areaOf i.toNat = 3) || (bed && (areaOf i.toNat = 1 || areaOf i.toNat = 2)))
    rw [← List.countP_eq_length_filter] at hu
    refine ⟨hu.state, hu.chans, fun h => ?_, hu.count⟩
    rw [List.countP_eq_length_filter, List.length_eq_zero_iff] at h
    unfold State.partUpset
    rw [h, State.scrubUpset_nil]

end Sys2Proof.Machine
end

section
/-! SUPPORT. QUEUE_DRAIN_COMPLETE and CHANNEL_DRAIN_COMPLETE (R131, R138, R139, R145, R295, R643, R679). -/

namespace Sys2Proof.Machine

variable {n : Log} {q : Qn} {p : Phys} {s t : State}

/-! ## The end of a queue's drain -/

theorem OnQueue.post (n : Log) (q : Qn) (p : Phys) (s : State) (kind plane src : Nat) (arg : List Byte) (i : Nat) : OnQueue n q p s (s.post kind plane src arg i) := by
  rw [State.post_frame]
  exact ⟨⟨rfl, fun _ _ => rfl, fun _ _ => rfl, rfl, List.prefix_rfl⟩, .refl n q _⟩

/-- The words that a verification meets are noted on their channel alone (R326). -/
theorem Upset.onQueue {k : Nat} (h : Upset p k s t) (n : Log) (q : Qn) : OnQueue n q p s t := by
  have hl : t.lch = s.lch := by rw [h.state]
  exact ⟨⟨by unfold sameControl; rw [h.state], fun m _ => by rw [hl], h.chans, h.st, by rw [h.state]⟩, fun r _ => State.que_congr hl n r, by rw [hl], by rw [hl]⟩

/-- The queue that has entered DISABLED (R131). -/
def Que.disabledNow (u : Que) : Que := { u with st := .disabled, enp := false, enDg := 0, kicks := 0, fltDet := false }

/-- What a queue leaves behind that has entered DISABLED; `f` is what it becomes, `own` when it held the open bed set (R131, R295). -/
structure Disabled (n : Log) (q : Qn) (p : Phys) (f : Que → Que) (s t : State) : Prop where
  on : OnQueue n q p s t
  que : t.que n q = f (s.que n q)
  sent : t.linkOut = s.linkOut
  own : s.lch[n].bed.map Bed.q = some q → t.lch[n].bed = none ∧ ∃ partEnd, t.phys[p] = { s.phys[p] with partEnd, partComb := true }
  other : s.lch[n].bed.map Bed.q ≠ some q → t.lch[n].bed = s.lch[n].bed ∧ t.phys = s.phys

theorem Disabled.disable (hp : s.servP n = some p) (q : Qn) : Disabled n q p Que.disabledNow s (s.disable n q) := by
  have hb : (s.modQ n q Que.disabledNow).lch[n].bed = s.lch[n].bed := by
    rw [State.modQ, State.modL_lch, if_pos rfl]
    rfl
  have h1 : OnQueue n q p s (s.modQ n q Que.disabledNow) := .modQ n q p s _
  have e : s.disable n q = if (s.modQ n q Que.disabledNow).lch[n].bed.map Bed.q = some q then (s.modQ n q Que.disabledNow).abandonBed n else s.modQ n q Que.disabledNow := rfl
  rw [e, hb]
  by_cases hq : s.lch[n].bed.map Bed.q = some q
  · rw [if_pos hq]
    obtain ⟨b, hs, -⟩ := Option.map_eq_some_iff.mp hq
    unfold State.abandonBed
    rw [hb, hs]
    dsimp only
    have hp1 : (s.modQ n q Que.disabledNow).servP n = some p := hp
    obtain ⟨h2, h3, partEnd, partComb, h4, h5⟩ := State.scrubPart_parts hp1 q 320 true
    have hl : ((s.modQ n q Que.disabledNow).scrubPart n 320 true).lch = (s.modQ n q Que.disabledNow).lch := by rw [h3]
    rw [State.post_frame]
    refine ⟨((h1.trans h2).trans (.modL q p _ (f := fun l => { l with bed := none }) ?_ ?_ ?_)).trans ?_, ?_, ?_, fun _ => ⟨?_, partEnd, ?_⟩, fun h => absurd hq h⟩
    · exact fun _ => rfl
    · exact fun _ => rfl
    · exact fun _ => rfl
    · exact ⟨⟨rfl, fun _ _ => rfl, fun _ _ => rfl, rfl, List.prefix_rfl⟩, .refl n q _⟩
    · refine (State.modL_que_kept _ n (fun l => { l with bed := none }) (fun _ => rfl) n q).trans ((State.que_congr hl n q).trans (s.modQ_que n q _))
    · show ((s.modQ n q Que.disabledNow).scrubPart n 320 true).linkOut = s.linkOut
      rw [h3]
      rfl
    · have h6 : (((s.modQ n q Que.disabledNow).scrubPart n 320 true).modL n fun l => { l with bed := none }).lch[n].bed = none := by rw [State.modL_lch, if_pos rfl]
      exact h6
    · have h6 : ((s.modQ n q Que.disabledNow).scrubPart n 320 true).phys[p] = { s.phys[p] with partEnd, partComb := true } := by
        rw [h4, h5 rfl]
        rfl
      exact h6
  · rw [if_neg hq]
    exact ⟨h1, s.modQ_que n q _, rfl, fun h => absurd h hq, fun _ => ⟨hb, rfl⟩⟩

/-- The queue's own registers move once more. -/
theorem Disabled.modQ {f : Que → Que} (h : Disabled n q p f s t) (g : Que → Que) : Disabled n q p (fun u => g (f u)) s (t.modQ n q g) := by
  have hb : (t.modQ n q g).lch[n].bed = t.lch[n].bed := by
    rw [State.modQ, State.modL_lch, if_pos rfl]
    rfl
  exact ⟨h.on.trans (.modQ n q p t g), (t.modQ_que n q g).trans (congrArg g h.que), h.sent, fun k => ⟨hb.trans (h.own k).1, (h.own k).2⟩,
    fun k => ⟨hb.trans (h.other k).1, (h.other k).2⟩⟩

/-- What the verification of the scrub of a bed set meets behind a drain (R326, R333). -/
def State.bedUpset (s t : State) (n : Log) (p : Phys) (upset : List (BitVec 11)) : State := t.partUpset p false (s.lch[n].bed.isSome && t.lch[n].bed.isNone) upset

theorem Upset.bedUpset (s t : State) (n : Log) (p : Phys) (upset : List (BitVec 11)) : ∃ k, Upset p k t (s.bedUpset t n p upset) := ⟨_, .scrubUpset t p _⟩

theorem State.bedUpset_nil (s t : State) (n : Log) (p : Phys) : s.bedUpset t n p [] = t := rfl

theorem State.bedUpset_kept (n : Log) (p : Phys) (upset : List (BitVec 11)) (h : t.lch[n].bed = s.lch[n].bed) : s.bedUpset t n p upset = t := by
  unfold State.bedUpset State.partUpset
  rw [h, show (s.lch[n].bed.isSome && s.lch[n].bed.isNone) = false by cases s.lch[n].bed <;> rfl]
  simp only [Bool.false_and, Bool.or_false, List.filter_false]
  exact t.scrubUpset_nil p

/-- A disabled queue behind the verification of what it left. -/
theorem Disabled.upset {f : Que → Que} (h : Disabled n q p f s t) (upset : List (BitVec 11)) :
    let w := s.bedUpset t n p upset
    w.que n q = f (s.que n q) ∧ w.linkOut = s.linkOut ∧ (upset = [] → w.phys[p] = { s.phys[p] with partEnd := w.phys[p].partEnd, partComb := w.phys[p].partComb })
      ∧ (s.lch[n].bed.map Bed.q ≠ some q → w.phys = s.phys) ∧ (s.lch[n].bed.map Bed.q = some q → w.lch[n].bed = none ∧ w.phys[p].partComb = true)
      ∧ OnQueue n q p s w := by
  intro w
  obtain ⟨k, hu⟩ := Upset.bedUpset s t n p upset
  have hl : w.lch = t.lch := (congrArg State.lch hu.state).trans rfl
  refine ⟨(State.que_congr hl n q).trans h.que, (congrArg State.linkOut hu.state).trans h.sent, fun he => ?_, fun ho => ?_, fun ho => ?_, h.on.trans (hu.onQueue n q)⟩
  · have hw : w = t := by
      unfold w
      rw [he, State.bedUpset_nil]
    rw [hw]
    by_cases ho : s.lch[n].bed.map Bed.q = some q
    · obtain ⟨-, _, hp⟩ := h.own ho
      rw [hp]
    · rw [(h.other ho).2]
  · exact (congrArg State.phys (State.bedUpset_kept n p upset (h.other ho).1)).trans (h.other ho).2
  · obtain ⟨hb, _, hp⟩ := h.own ho
    exact ⟨by rw [hl]; exact hb, hu.comb.trans (by rw [hp])⟩

section
variable {upset : List (BitVec 11)} (hp : s.heldP n = some p) (hst : (s.que n q).st = .draining) (ha : (s.que n q).acc = []) (hc : (s.que n q).chain = none)
  (hd : (s.que n q).drainA < s.aclk)
include hp hst ha hc hd

theorem exec_queueDrainComplete : exec (.queueDrainComplete n ⟨q, upset⟩) s = .next (
    if s.phys[p].st == .draining then s.bedUpset ((s.disable n q).modQ n q fun v => { v with enp := (s.que n q).enp, enDg := (s.que n q).enDg }) n p upset
    else if (s.que n q).enp then s.modQ n q fun u => u.activate u.enDg
    else s.bedUpset (s.disable n q) n p upset) := by
  refine congrArg Host.Outcome.next ?_
  dsimp only
  rw [hp]
  dsimp only
  rw [hst, ha, hc, decide_eq_true hd]
  rfl

end

theorem State.heldP_servP (h : s.heldP n = some p) : s.servP n = some p := (Option.filter_eq_some_iff.mp h).1

/-! ## The end of a channel's drain -/

/-- An update of every queue of `n`. -/
theorem State.foldQ_que (f : Que → Que) (l : List Qn) (hl : l.Nodup) (s : State) (q : Qn) :
    (l.foldl (fun s q => s.modQ n q f) s).que n q = if q ∈ l then f (s.que n q) else s.que n q := by
  induction l generalizing s with
  | nil => rfl
  | cons r l ih =>
    obtain ⟨hr, hl⟩ := List.nodup_cons.mp hl
    rw [List.foldl_cons, ih hl]
    by_cases h : q = r
    · subst h
      rw [if_neg hr, if_pos List.mem_cons_self, State.modQ_que]
    · rw [State.modQ_que_ne _ _ (Ne.symm h)]
      simp only [List.mem_cons, h, false_or]

/-- The queue of a channel that is back in ACTIVE under ENABLE_PENDING (R145). -/
def Que.backOn (u : Que) : Que := if u.cfg.valid && (u.wasOn || u.enp) then ({ u with wasOn := false, enp := false, enDg := 0 } : Que).activate u.enDg else { u with wasOn := false, enp := false, enDg := 0 }

theorem Que.backOn_st {u : Que} (h : u.st = .disabled) : u.backOn.st = if u.cfg.valid && (u.wasOn || u.enp) then .active else .disabled := by
  unfold Que.backOn
  split
  · exact Que.activate_st _ _
  · exact h

/-- The end of a terrace's command is that terrace's. -/
theorem State.svcEnd_eq (s : State) (x : Ter) (ok : Bool) (k : Nat) : s.svcEnd x ok k = { s with ters := (s.svcEnd x ok k).ters } := rfl

theorem State.svcDone_eq (s : State) (op : Nat) (n : Log) : s.svcDone op n = { s with ters := (s.svcDone op n).ters } := by
  unfold State.svcDone
  split
  · split
    · dsimp only
      split <;> rfl
    · rfl
  · rfl

/-- The channel that returns to ACTIVE, with the queues that it had (R145). -/
def State.channelBack (s : State) (n : Log) (p : Phys) : State :=
  ((s.modP p fun c => { c with st := .active, chEnp := false }).modL n fun l => { l with drain := false, outReq := none }).over (fins 4) fun s q => s.modQ n q Que.backOn

/-- The channel that goes OFF, its logical channel out of service (R643, R679). -/
def State.channelOut (s : State) (n : Log) (p : Phys) : State :=
  let t := (s.newPage p).modP p fun c => { c with st := .off, scrub := false, scrubbed := true, quiet := 0 }
  t.modL n fun l => { l with oos := true, reloaded := false, drain := false, outReq := none, qs := mapV l.qs fun _ u => u.emptied }

section
variable (hon : s.on = true) (hn : s.logOf p = some n) (hst : s.phys[p].st = .draining) (hq : ∀ q : Qn, (s.que n q).st = .disabled)
include hon hn hst hq

omit hn in
theorem channelDrain_drained : (s.phys[p].st ≠ .draining || !((fins 4).all fun q => (s.que n q).st == .disabled) || !s.hrstN || !s.vddCore) = false := by
  obtain ⟨h1, h2⟩ := Bool.and_eq_true_iff.mp hon
  have h3 : ((fins 4).all fun q => (s.que n q).st == .disabled) = true := List.all_eq_true.mpr fun q _ => beq_iff_eq.mpr (hq q)
  rw [hst, h1, h2, h3]
  rfl

theorem exec_channelDrain_back (he : s.phys[p].chEnp = true) : ∃ ters, exec (.channelDrainComplete p) s = .next { s.channelBack n p with ters } := by
  have hd := channelDrain_drained hon hst hq
  have h : exec (.channelDrainComplete p) s = .next (if (s.channelBack n p).ters[terL n].cmd.any fun c => c.op == 1 && c.logs.contains n.val
      then (s.channelBack n p).svcEnd (terL n) false 10 else s.channelBack n p) := by
    show execChannelDrainComplete p s = _
    unfold execChannelDrainComplete
    dsimp only
    rw [hn]
    dsimp only
    rw [hd, if_neg Bool.false_ne_true, he, if_pos rfl]
    rfl
  rw [h]
  split
  · exact ⟨_, rfl⟩
  · exact ⟨_, rfl⟩

theorem exec_channelDrain_out (he : s.phys[p].chEnp = false) (h1 : s.quietHost p = true) (h2 : s.lch[n].noEvents = true) (h3 : s.lch[n].msg = none) :
    ∃ ters ldg, exec (.channelDrainComplete p) s = .next { s.channelOut n p with ters, ldg } := by
  have hd := channelDrain_drained hon hst hq
  let o := s.lch[n].outReq.getD (s.aclk, false)
  have h : exec (.channelDrainComplete p) s = .next (((s.channelOut n p).post 0x30 2 n
      (leBytes 1 p ++ leBytes 1 (b2n o.2) ++ leBytes 2 0 ++ leBytes 4 ((s.aclk - o.1) / 100))).svcDone 1 n) := by
    show execChannelDrainComplete p s = _
    unfold execChannelDrainComplete
    dsimp only
    rw [hn]
    dsimp only
    rw [hd, if_neg Bool.false_ne_true, he, if_neg Bool.false_ne_true, h1, h2, h3]
    rfl
  rw [h, State.svcDone_eq, State.post_frame]
  exact ⟨_, _, rfl⟩

end

/-- What the return to ACTIVE leaves (R145). -/
theorem State.channelBack_parts (s : State) (n : Log) (p : Phys) : let t := s.channelBack n p
    AtChan n p s t ∧ t.phys[p] = { s.phys[p] with st := .active, chEnp := false } ∧ t.lch[n].drain = false ∧ ∀ q, t.que n q = (s.que n q).backOn := by
  let t0 := (s.modP p fun c => { c with st := .active, chEnp := false }).modL n fun l => { l with drain := false, outReq := none }
  have hf : AtLog n t0 (s.channelBack n p) := .foldl _ (fun t q => .modQ n q t _) _ t0
  have h0 : AtChan n p s t0 := (AtChan.modP n p s _).trans ((AtLog.modL n _ _).atChan p)
  have hd : (s.channelBack n p).lch[n].drain = t0.lch[n].drain :=
    foldl_kept (fun t (q : Qn) => t.modQ n q Que.backOn) (fun t : State => t.lch[n].drain) (fins 4)
      (fun t q _ => by
        rw [State.modQ, State.modL_lch, if_pos rfl]
        rfl) t0
  have hq : ∀ q, t0.que n q = s.que n q := State.modL_que_kept (s.modP p fun c => { c with st := .active, chEnp := false }) n (fun l => { l with drain := false, outReq := none }) (fun _ => rfl) n
  refine ⟨h0.trans (hf.atChan p), ?_, hd.trans ?_, fun q => ?_⟩
  · rw [hf.phys]
    have h := s.modP_phys p p fun c => { c with st := .active, chEnp := false }
    rw [if_pos rfl] at h
    exact h
  · unfold t0
    rw [State.modL_lch, if_pos rfl]
  · refine (State.foldQ_que Que.backOn _ (fins_nodup 4) t0 q).trans ?_
    rw [if_pos (mem_fins q), hq]

/-- What a channel that goes OFF leaves (R643, R679). -/
theorem State.channelOut_parts (s : State) (n : Log) (p : Phys) : let t := s.channelOut n p
    AtChan n p s t ∧ t.phys[p] = { s.phys[p] with c := {}, st := .off, scrub := false, scrubbed := true, quiet := 0 } ∧ t.edge.phys[p] = {}
      ∧ t.lch[n].oos = true ∧ t.lch[n].drain = false ∧ ∀ q, t.que n q = (s.que n q).emptied := by
  have hl : (s.channelOut n p).lch[n] = { s.lch[n] with oos := true, reloaded := false, drain := false, outReq := none, qs := mapV s.lch[n].qs fun _ u => u.emptied } :=
    (State.modL_lch ..).trans (if_pos rfl)
  have hp : AtChan n p s ((s.newPage p).modP p fun c => { c with st := .off, scrub := false, scrubbed := true, quiet := 0 }) := (AtChan.newPage n p s).trans (.modP n p _ _)
  have hm : AtLog n ((s.newPage p).modP p fun c => { c with st := .off, scrub := false, scrubbed := true, quiet := 0 }) (s.channelOut n p) := .modL n _ fun l =>
    { l with oos := true, reloaded := false, drain := false, outReq := none, qs := mapV l.qs fun _ u => u.emptied }
  refine ⟨hp.trans (hm.atChan p), ?_, ?_, by rw [hl], by rw [hl], fun q => ?_⟩
  · rw [hm.phys, State.modP_phys, if_pos rfl]
    show ({ (s.modP p fun c => { c with c := {} }).phys[p] with st := .off, scrub := false, scrubbed := true, quiet := 0 } : PCh) = _
    rw [State.modP_phys, if_pos rfl]
  · show (s.edge.phys.set p {})[p] = {}
    exact Vector.getElem_set_self p.isLt
  · unfold State.que
    rw [hl]
    exact mapV_get s.lch[n].qs (fun _ u => Que.emptied u) q

end Sys2Proof.Machine
end

section
namespace Sys2Proof.Machine

/-- Settles O45: a drained queue is DISABLED by `Disabled.disable`, whose scrub `Disabled.upset` verifies; a drained channel by `State.channelBack_parts` or `State.channelOut_parts`. -/
theorem drainsComplete : Obligations.DrainsComplete := by
  unfold Obligations.DrainsComplete
  intro s n p upset
  refine ⟨fun q hp hst ha hc hd => ?_, fun hon hn hst hq => ⟨fun he => ?_, fun he h1 h2 h3 => ?_⟩⟩
  · have hdis := Disabled.disable (State.heldP_servP hp) q
    have hx := exec_queueDrainComplete (upset := upset) hp hst ha hc hd
    by_cases hdr : s.phys[p].st = .draining
    · rw [if_pos (beq_iff_eq.mpr hdr)] at hx
      obtain ⟨hq, hsent, hnil, hother, hown, hon⟩ := (hdis.modQ fun v => { v with enp := (s.que n q).enp, enDg := (s.que n q).enDg }).upset upset
      refine ⟨_, hx, fun h => absurd hdr h, fun h => absurd hdr h, fun _ => ?_, ?_, ?_, hsent, hnil, fun h => hother (h.resolve_left ?_), fun _ => hown, hon.frame⟩
      · rw [hq]; exact ⟨rfl, rfl, rfl⟩
      · rw [hq]; exact ha
      · rw [hq]; rfl
      · rw [hq]; exact nofun
    · rw [if_neg fun h => hdr (beq_iff_eq.mp h)] at hx
      by_cases hen : (s.que n q).enp = true
      · rw [if_pos hen] at hx
        obtain ⟨prd, hact⟩ := (s.que n q).activate_eq (s.que n q).enDg
        have hq := (s.modQ_que n q fun u => u.activate u.enDg).trans hact
        refine ⟨_, hx, fun _ _ => ?_, fun _ h => absurd (hen.symm.trans h) nofun, fun h => absurd h hdr, ?_, ?_, rfl, fun _ => rfl, fun _ => rfl, fun h => ?_,
          (OnQueue.modQ n q p s _).frame⟩
        · rw [hq]; exact ⟨rfl, rfl, rfl⟩
        · rw [hq]; exact ha
        · rw [hq]
        · rw [hq] at h; cases h
      · rw [if_neg hen] at hx
        obtain ⟨hq, hsent, hnil, hother, hown, hon⟩ := hdis.upset upset
        refine ⟨_, hx, fun _ h => absurd h hen, fun _ _ => ?_, fun h => absurd h hdr, ?_, ?_, hsent, hnil, fun h => hother (h.resolve_left ?_), fun _ => hown, hon.frame⟩
        · rw [hq]; exact ⟨rfl, rfl⟩
        · rw [hq]; exact ha
        · rw [hq]; rfl
        · rw [hq]; exact nofun
  · obtain ⟨ters, hx⟩ := exec_channelDrain_back hon hn hst hq he
    obtain ⟨hat, hphys, hdrain, hque⟩ := s.channelBack_parts n p
    refine ⟨_, hx, hphys, hdrain, fun q => ?_, hat.map, hat.fence, hat.others, hat.chans⟩
    show ((s.channelBack n p).que n q).st = _
    rw [hque, Que.backOn_st (hq q)]
  · obtain ⟨ters, ldg, hx⟩ := exec_channelDrain_out hon hn hst hq he h1 h2 h3
    obtain ⟨hat, hphys, hedge, hoos, hdrain, hque⟩ := s.channelOut_parts n p
    refine ⟨_, hx, ?_, ?_, ?_, hoos, hdrain, hque, ?_, hedge, hat.map, hat.fence, hat.others, hat.chans⟩
    all_goals
      dsimp only
      rw [hphys]

end Sys2Proof.Machine
end

section
/-! SUPPORT. A task input takes the contributions of one aclk (R437 to R442): what it becomes, the activation that applies, and which input applies first (R135). -/

namespace Sys2Proof.Machine

variable {n : Log} {s t : State} {x y : Fin 4}

/-! ## The state of an input -/

theorem State.modI_tin (s : State) (n : Log) (x : Fin 4) (f : TIn → TIn) : (s.modI n x f).tin n x = f (s.tin n x) := by
  unfold State.tin State.modI
  rw [State.modL_lch, if_pos rfl]
  exact LCh.modI_same _ x f

theorem State.modI_tin_ne (s : State) (n : Log) (h : x ≠ y) (f : TIn → TIn) : (s.modI n x f).tin n y = s.tin n y := by
  unfold State.tin State.modI
  rw [State.modL_lch, if_pos rfl]
  exact LCh.modI_ne _ h f

theorem State.modI_que (s : State) (n m : Log) (x : Fin 4) (f : TIn → TIn) (q : Qn) : (s.modI n x f).que m q = s.que m q :=
  s.modL_que_kept n _ (fun l => l.modI_qs x f) m q

theorem State.modI_modI (s : State) (n : Log) (x : Fin 4) (f g : TIn → TIn) : (s.modI n x f).modI n x g = s.modI n x fun i => g (f i) := by
  unfold State.modI
  rw [State.modL_modL]
  congr 1
  funext l
  unfold LCh.modI
  simp

/-! ## What is due -/

/-- Contributions of one aclk of the past are due together (R439). -/
theorem TIn.due_one {i : TIn} {a0 now : Nat} {l : List (Nat × Nat)} (h : a0 < now) (hc : i.contrib = l.map fun e => (a0, e.1, e.2)) : i.due now = l ∧ i.later now = [] := by
  unfold TIn.due TIn.later
  rw [hc]
  cases l with
  | nil => exact ⟨rfl, rfl⟩
  | cons e l =>
    rw [List.map_cons, List.find?_cons_of_pos (p := fun c : Nat × Nat × Nat => decide (c.1 < now)) (decide_eq_true h)]
    dsimp only
    have hall : ∀ c ∈ (a0, e.1, e.2) :: l.map fun e => (a0, e.1, e.2), c.1 = a0 := fun c hc => by
      rcases List.mem_cons.mp hc with rfl | hc
      · rfl
      · obtain ⟨_, _, rfl⟩ := List.mem_map.mp hc
        rfl
    rw [List.filter_eq_self.mpr fun c hc => beq_iff_eq.mpr (hall c hc), List.filter_eq_nil_iff.mpr fun c hc => by simp [hall c hc]]
    refine ⟨?_, rfl⟩
    rw [List.map_cons, List.map_map]
    exact congrArg (e :: ·) (List.map_id l)

/-! ## What an input becomes -/

/-- The contributions that count (R440). -/
def countingOf (l : List (Nat × Nat)) : List (Nat × Nat) := l.filter fun e => e.2 < 7

/-- The contributions of generation 7, which do not (R440). -/
def loopingOf (l : List (Nat × Nat)) : List (Nat × Nat) := l.filter fun e => e.2 ≥ 7

theorem loopingOf_length (l : List (Nat × Nat)) : (loopingOf l).length = l.length - (countingOf l).length := by
  have h := List.length_eq_length_filter_add (l := l) fun e : Nat × Nat => decide (e.2 < 7)
  have hb : loopingOf l = l.filter fun e => !decide (e.2 < 7) := List.filter_congr fun e _ => by
    rw [← decide_not]
    exact decide_eq_decide.mpr Nat.not_lt.symm
  rw [hb]
  unfold countingOf
  omega

theorem loopingOf_eq_nil {l : List (Nat × Nat)} : loopingOf l = [] ↔ ¬ (countingOf l).length < l.length := by
  rw [← List.length_eq_zero_iff, loopingOf_length]
  omega

/-- The input that has taken the contributions `l` of one aclk, those of generation 7 dropped (R439, R440). -/
def TIn.emptied (i : TIn) (now : Nat) (l : List (Nat × Nat)) : TIn :=
  { i with
    contrib := [], doneA := if l.isEmpty && i.heldGen.isNone then i.doneA else some now
    loops := if (loopingOf l).isEmpty then i.loops else satAdd 255 i.loops (loopingOf l).length, loop := i.loop || !(loopingOf l).isEmpty }

/-- The event of the contributions that count (R439). -/
def eventOf (l : List (Nat × Nat)) : Option Nat := if (countingOf l).isEmpty then none else some (((countingOf l).map Prod.snd).foldl max 0)

/-- The input behind RATE, with the generation of the activation that applies (R441, R442). -/
def TIn.took (i : TIn) (now : Nat) (l : List (Nat × Nat)) : TIn × Option Nat := (i.emptied now l).rated now (countingOf l).length (eventOf l)

/-- RATE holds an event of `now` back (R442). -/
def TIn.waits (i : TIn) (now : Nat) : Bool := i.lastAct.any fun a => now < a + i.rate

/-- The generation of an event with the held one (R442). -/
def TIn.joined (i : TIn) (g : Option Nat) : Option Nat := match g, i.heldGen with
  | some a, some b => some (max a b)
  | some a, none => some a
  | none, o => o

/-- Step 3 of R439 (R441). -/
def TIn.counted (i : TIn) (k : Nat) (g : Option Nat) : TIn := if k ≥ 2 || (g.isSome && i.heldGen.isSome) then { i with merged := satAdd 255 i.merged 1 } else i

section
variable {i : TIn} {now k : Nat} {g : Option Nat}

theorem TIn.rated_waits (h : i.waits now = true) : i.rated now k g = ({ i.counted k g with heldGen := i.joined g }, none) := by
  have h' : (i.lastAct.any fun a => now < a + i.rate) = true := h
  unfold TIn.rated TIn.counted TIn.joined
  dsimp only
  refine (if_pos h').trans ?_
  cases g <;> cases i.heldGen <;> split <;> rfl

theorem TIn.rated_applies (h : i.waits now = false) {a : Nat} (ha : i.joined g = some a) :
    i.rated now k g = ({ i.counted k g with heldGen := none, lastAct := some now, lastGen := a, acts := satAdd 0xFFFFFFFF i.acts 1 }, some a) := by
  have h' : (i.lastAct.any fun a => now < a + i.rate) = false := h
  unfold TIn.rated TIn.counted
  unfold TIn.joined at ha
  dsimp only
  rw [h', if_neg Bool.false_ne_true]
  cases g <;> cases hh : i.heldGen <;> rw [hh] at ha <;> cases ha <;> dsimp only <;> split <;> rfl

theorem TIn.rated_nothing (h : i.waits now = false) (ha : i.joined g = none) : i.rated now k g = (i.counted k g, none) := by
  have h' : (i.lastAct.any fun a => now < a + i.rate) = false := h
  unfold TIn.rated TIn.counted
  unfold TIn.joined at ha
  dsimp only
  rw [h', if_neg Bool.false_ne_true]
  cases g <;> cases hh : i.heldGen <;> rw [hh] at ha <;> cases ha

theorem TIn.joined_none : i.joined g = none ↔ g = none ∧ i.heldGen = none := by
  unfold TIn.joined
  cases g <;> cases i.heldGen <;> simp

end

/-! ## What it comes to -/

/-- The generation that applies, or that is held: the highest of the contributions and of the held one (R439, R442). -/
theorem TIn.joined_event (i : TIn) {l : List (Nat × Nat)} (h : countingOf l ≠ []) : i.joined (eventOf l) = some (((countingOf l).map Prod.snd).foldl max (i.heldGen.getD 0)) := by
  have hmax : ∀ b, max (((countingOf l).map Prod.snd).foldl max 0) b = ((countingOf l).map Prod.snd).foldl max b := fun b => by
    rw [max_comm, ← List.foldl_assoc (op := (max : Nat → Nat → Nat)), Nat.max_zero]
  unfold eventOf TIn.joined
  rw [if_neg (by simpa using h)]
  cases i.heldGen with
  | none => rfl
  | some b => exact congrArg some (hmax b)

theorem TIn.joined_held (i : TIn) {l : List (Nat × Nat)} (h : countingOf l = []) : i.joined (eventOf l) = i.heldGen := by
  unfold eventOf TIn.joined
  rw [h]
  rfl

theorem TIn.counted_eq (i : TIn) (l : List (Nat × Nat)) : i.counted (countingOf l).length (eventOf l)
    = { i with merged := if 2 ≤ (countingOf l).length ∨ countingOf l ≠ [] ∧ i.heldGen.isSome = true then min 255 (i.merged + 1) else i.merged } := by
  have hs : (eventOf l).isSome = true ↔ countingOf l ≠ [] := by
    unfold eventOf
    by_cases h : countingOf l = [] <;> simp [h]
  unfold TIn.counted
  by_cases h : 2 ≤ (countingOf l).length ∨ countingOf l ≠ [] ∧ i.heldGen.isSome = true
  · rw [if_pos h, if_pos (by simpa [← hs] using h)]
    rfl
  · rw [if_neg h, if_neg (by simpa [← hs] using h)]

/-- What an input becomes that takes `l`, and what applies (R439 to R442). -/
structure TIn.Taken (i : TIn) (now : Nat) (l : List (Nat × Nat)) (r : TIn × Option Nat) : Prop where
  contrib : r.1.contrib = []
  loops : r.1.loops = if (countingOf l).length < l.length then min 255 (i.loops + (l.length - (countingOf l).length)) else i.loops
  loop : r.1.loop = (i.loop || decide ((countingOf l).length < l.length))
  merged : r.1.merged = if 2 ≤ (countingOf l).length ∨ countingOf l ≠ [] ∧ i.heldGen.isSome = true then min 255 (i.merged + 1) else i.merged
  applies : i.waits now = false → countingOf l ≠ [] ∨ i.heldGen.isSome = true → ∃ g, r.2 = some g ∧ g = ((countingOf l).map Prod.snd).foldl max (i.heldGen.getD 0)
    ∧ r.1.lastAct = some now ∧ r.1.heldGen = none ∧ r.1.lastGen = g ∧ r.1.acts = min 0xFFFFFFFF (i.acts + 1) ∧ r.1.doneA = some now
  holds : i.waits now = true → countingOf l ≠ [] → r.1.heldGen = some (((countingOf l).map Prod.snd).foldl max (i.heldGen.getD 0))
  rests : i.waits now = true ∨ countingOf l = [] ∧ i.heldGen = none → r.2 = none ∧ r.1.lastAct = i.lastAct ∧ r.1.lastGen = i.lastGen ∧ r.1.acts = i.acts
  settings : r.1.queue = i.queue ∧ r.1.mode = i.mode ∧ r.1.haltAct = i.haltAct ∧ r.1.drainMask = i.drainMask ∧ r.1.overrun = i.overrun

theorem TIn.emptied_loops (i : TIn) (now : Nat) (l : List (Nat × Nat)) :
    (i.emptied now l).loops = (if (countingOf l).length < l.length then min 255 (i.loops + (l.length - (countingOf l).length)) else i.loops)
      ∧ (i.emptied now l).loop = (i.loop || decide ((countingOf l).length < l.length)) := by
  have hb : (loopingOf l).isEmpty = !decide ((countingOf l).length < l.length) := by
    rw [← decide_not, Bool.eq_iff_iff, List.isEmpty_iff, decide_eq_true_eq]
    exact loopingOf_eq_nil
  unfold TIn.emptied
  rw [hb, Bool.not_not, loopingOf_length]
  by_cases h : (countingOf l).length < l.length
  · rw [decide_eq_true h, if_pos h, Bool.not_true, if_neg Bool.false_ne_true]
    exact ⟨rfl, rfl⟩
  · rw [decide_eq_false h, if_neg h]
    exact ⟨rfl, rfl⟩

theorem TIn.took_taken (i : TIn) (now : Nat) (l : List (Nat × Nat)) : i.Taken now l (i.took now l) := by
  let j := i.emptied now l
  obtain ⟨hloops, hloop⟩ := i.emptied_loops now l
  have hcount := j.counted_eq l
  have hw : j.waits now = i.waits now := rfl
  by_cases hwait : i.waits now = true
  · have e : i.took now l = _ := TIn.rated_waits (hw.trans hwait)
    rw [e, hcount]
    refine ⟨rfl, hloops, hloop, rfl, fun h => absurd (hwait.symm.trans h) nofun, fun _ h => ?_, fun _ => ⟨rfl, rfl, rfl, rfl⟩, ⟨rfl, rfl, rfl, rfl, rfl⟩⟩
    exact j.joined_event h
  · have hwait : i.waits now = false := Bool.eq_false_of_not_eq_true hwait
    by_cases hnone : countingOf l = [] ∧ i.heldGen = none
    · have e : i.took now l = _ := TIn.rated_nothing (hw.trans hwait) (TIn.joined_none.mpr ⟨by unfold eventOf; rw [hnone.1]; rfl, hnone.2⟩)
      rw [e, hcount]
      refine ⟨rfl, hloops, hloop, rfl, fun _ h => ?_, fun h => absurd (hwait.symm.trans h) nofun, fun _ => ⟨rfl, rfl, rfl, rfl⟩, ⟨rfl, rfl, rfl, rfl, rfl⟩⟩
      rw [hnone.1, hnone.2] at h
      exact absurd h (by simp)
    · have hg : j.joined (eventOf l) = some (((countingOf l).map Prod.snd).foldl max (i.heldGen.getD 0)) := by
        by_cases h : countingOf l = []
        · rw [j.joined_held h, h]
          obtain ⟨b, hb⟩ := Option.ne_none_iff_exists'.mp fun k => hnone ⟨h, k⟩
          rw [hb]
          exact hb
        · exact j.joined_event h
      have e : i.took now l = _ := TIn.rated_applies (hw.trans hwait) hg
      rw [e, hcount]
      refine ⟨rfl, hloops, hloop, rfl, fun _ h => ⟨_, rfl, rfl, rfl, rfl, rfl, rfl, ?_⟩, fun h => absurd (hwait.symm.trans h) nofun,
        fun h => absurd (h.resolve_left (by rw [hwait]; exact nofun)) hnone, ⟨rfl, rfl, rfl, rfl, rfl⟩⟩
      show (if l.isEmpty && i.heldGen.isNone then i.doneA else some now) = some now
      rw [if_neg]
      intro k
      obtain ⟨k1, k2⟩ := Bool.and_eq_true_iff.mp k
      exact hnone ⟨by rw [List.isEmpty_iff.mp k1]; rfl, Option.isNone_iff_eq_none.mp k2⟩

/-! ## The state -/

theorem State.modI_id {f : TIn → TIn} (h : f (s.tin n x) = s.tin n x) : s.modI n x f = s := by
  refine s.modL_self n ?_
  unfold State.tin at h
  unfold LCh.modI
  rw [h]
  simp

/-- Contributions of generation 7 are counted, and posted when the flag was not set (R440). -/
theorem State.dropLoops_eq (s : State) (n : Log) (x : Fin 4) (bad : List (Nat × Nat)) : ∃ ldg, (bad = [] → ldg = s.ldg) ∧ s.dropLoops n x bad
    = { s.modI n x fun i => { i with loops := if bad.isEmpty then i.loops else satAdd 255 i.loops bad.length, loop := i.loop || !bad.isEmpty } with ldg } := by
  cases bad with
  | nil =>
    refine ⟨s.ldg, fun _ => rfl, ?_⟩
    rw [State.modI_id]
    · rfl
    · show { s.tin n x with loops := (s.tin n x).loops, loop := (s.tin n x).loop || false } = s.tin n x
      rw [Bool.or_false]
  | cons b l =>
    have e : ∀ i : TIn, (i.loop || !(b :: l).isEmpty) = true := fun i => Bool.or_true _
    simp only [e]
    unfold State.dropLoops lowest
    rw [List.map_cons]
    dsimp only
    split
    · exact ⟨_, nofun, rfl⟩
    · rw [State.post_frame]
      exact ⟨_, nofun, rfl⟩

/-- The activation that applies at an input, once it is `r.1` (R439). -/
def State.applied (s : State) (n : Log) (x : Fin 4) (r : TIn × Option Nat) : State :=
  let s := s.modI n x fun _ => r.1
  match r.2 with
  | some g => s.activation n x g
  | none => s

theorem State.applied_none {r : TIn × Option Nat} (h : r.2 = none) : s.applied n x r = s.modI n x fun _ => r.1 := by
  unfold State.applied
  rw [h]

theorem State.applied_some {r : TIn × Option Nat} {g : Nat} (h : r.2 = some g) : s.applied n x r = (s.modI n x fun _ => r.1).activation n x g := by
  unfold State.applied
  rw [h]

/-- An input that takes what is due in a served channel after lock (R439). -/
theorem State.taskInput_taken {a0 : Nat} {l : List (Nat × Nat)} (hg : s.gate.locked = true) (ha : s.gate.lockA < s.aclk) (hm : s.map[n].isSome = true)
    (hd : (s.tin n x).doneA ≠ some s.aclk) (h0 : a0 < s.aclk) (hc : (s.tin n x).contrib = l.map fun e => (a0, e.1, e.2)) :
    ∃ ldg r, (loopingOf l = [] → ldg = s.ldg) ∧ (s.tin n x).Taken s.aclk l r
      ∧ (r.2 = none → s.taskInput n x = { s.modI n x fun _ => r.1 with ldg })
      ∧ ∀ g, r.2 = some g → s.taskInput n x = ({ s.modI n x fun _ => r.1 with ldg } : State).activation n x g := by
  obtain ⟨hdue, hlater⟩ := TIn.due_one h0 hc
  let f : TIn → TIn := fun i => { i with contrib := i.later s.aclk, doneA := if l.isEmpty && i.heldGen.isNone then i.doneA else some s.aclk }
  obtain ⟨ldg, hldg, hdrop⟩ := (s.modI n x f).dropLoops_eq n x (loopingOf l)
  rw [State.modI_modI] at hdrop
  let w : State := (s.modI n x f).dropLoops n x (loopingOf l)
  have hw : w = { s.modI n x fun i => { f i with loops := if (loopingOf l).isEmpty then (f i).loops else satAdd 255 (f i).loops (loopingOf l).length, loop := (f i).loop || !(loopingOf l).isEmpty } with ldg } := hdrop
  have htin : w.tin n x = (s.tin n x).emptied s.aclk l := by
    rw [hw]
    refine (s.modI_tin n x _).trans ?_
    unfold f TIn.emptied
    rw [hlater]
  have hclk : w.aclk = s.aclk := by
    rw [hw]
    rfl
  have hput : ∀ j : TIn, w.modI n x (fun _ => j) = { s.modI n x fun _ => j with ldg } := fun j => by
    rw [hw]
    exact congrArg (fun z : State => { z with ldg }) (s.modI_modI n x _ fun _ => j)
  refine ⟨ldg, (s.tin n x).took s.aclk l, fun h => hldg h, (s.tin n x).took_taken s.aclk l, ?_⟩
  have hn : s.map[n].isNone = false := by rw [← Option.not_isSome, hm]; rfl
  have e : s.taskInput n x = w.applied n x ((s.tin n x).took s.aclk l) := by
    unfold State.taskInput TIn.took
    dsimp only
    rw [if_neg (by simpa using hd), if_neg (by rw [hg, hn, decide_eq_false (Nat.not_le.mpr ha)]; exact Bool.false_ne_true), hdue, ← htin]
    conv_rhs => rw [← hclk]
    rfl
  rw [e]
  exact ⟨fun h => (State.applied_none h).trans (hput _), fun g h => (State.applied_some h).trans (congrArg (State.activation · n x g) (hput _))⟩

/-- Nothing is due at the inputs that apply before (R135). -/
theorem State.taskInputs_undue (h : ∀ y ∈ inputsBefore x, (s.tin n y).doneA = some s.aclk ∨ (s.tin n y).dueNow s.aclk = false) : s.taskInputs n x [] = s.taskInput n x := by
  unfold State.taskInputs
  rw [show s.extIn n [] = s from rfl]
  congr 1
  generalize inputsBefore x = l at h
  induction l with
  | nil => rfl
  | cons y l ih =>
    rw [List.foldl_cons, if_neg]
    · exact ih fun z hz => h z (List.mem_cons_of_mem y hz)
    · rcases h y List.mem_cons_self with h | h <;> simp [h]

end Sys2Proof.Machine
end

section
/-! SUPPORT. What an activation does to its logical channel: WAITs and latches (R468, R469), R134's table on the bound queue, and the wake demand (R445). -/

namespace Sys2Proof.Machine

variable {n : Log} {s t u : State} {x y : Fin 4} {q : Qn}

/-! ## The frame -/

/-- An input but for its latch and OVERRUN, which is not cleared. -/
def sameInput (i j : TIn) : Prop := j = { i with latch := j.latch, spent := j.spent, overrun := j.overrun } ∧ (i.overrun = true → j.overrun = true)

theorem sameInput.refl (i : TIn) : sameInput i i := ⟨rfl, id⟩

theorem sameInput.trans {i j k : TIn} (h : sameInput i j) (h' : sameInput j k) : sameInput i k := ⟨by rw [h'.1, h.1], fun e => h'.2 (h.2 e)⟩

/-- What an activation at `n` may change. -/
structure Activated (n : Log) (s t : State) : Prop where
  state : t = { s with lch := t.lch, phys := t.phys, ters := t.ters, nextId := t.nextId }
  others : sameOthers n s t
  chan : t.lch[n] = { s.lch[n] with qs := t.lch[n].qs, ins := t.lch[n].ins }
  inputs : ∀ x, sameInput (s.tin n x) (t.tin n x)

namespace Activated

theorem refl (n : Log) (s : State) : Activated n s s := ⟨rfl, fun _ _ => rfl, rfl, fun _ => .refl _⟩

theorem trans (h : Activated n s t) (k : Activated n t u) : Activated n s u where
  state := by rw [k.state, h.state]
  others m hm := (k.others m hm).trans (h.others m hm)
  chan := by rw [k.chan, h.chan]
  inputs x := (h.inputs x).trans (k.inputs x)

theorem foldl {α : Type} {f : State → α → State} (hf : ∀ s a, Activated n s (f s a)) (l : List α) (s : State) : Activated n s (l.foldl f s) := by
  induction l generalizing s with
  | nil => exact .refl n s
  | cons a l ih => exact (hf s a).trans (ih _)

/-- An update of the queues of `n`. -/
theorem modL (s : State) {f : LCh → LCh} (hf : ∀ l, ∃ qs, f l = { l with qs }) : Activated n s (s.modL n f) := by
  obtain ⟨qs, h⟩ := hf s.lch[n]
  have hl : (s.modL n f).lch[n] = { s.lch[n] with qs } := by rw [State.modL_lch, if_pos rfl, h]
  refine ⟨rfl, (AtLog.modL n s f).others, by rw [hl], fun x => ?_⟩
  unfold State.tin
  rw [hl]
  exact .refl _

theorem modQ (s : State) (q : Qn) (f : Que → Que) : Activated n s (s.modQ n q f) := .modL s fun _ => ⟨_, rfl⟩

theorem modI (s : State) (x : Fin 4) {f : TIn → TIn} (hf : ∀ i, sameInput i (f i)) : Activated n s (s.modI n x f) := by
  refine ⟨rfl, (AtLog.modL n s _).others, ?_, fun y => ?_⟩
  · rw [State.modI, State.modL_lch, if_pos rfl]
    rfl
  · by_cases h : x = y
    · rw [← h, State.modI_tin]
      exact hf _
    · rw [State.modI_tin_ne _ _ h]
      exact .refl _

theorem nextId (s : State) (k : Nat) : Activated n s { s with nextId := k } := ⟨rfl, fun _ _ => rfl, rfl, fun _ => .refl _⟩

theorem drainReq (s : State) (q : Qn) : Activated n s (s.drainReq n q) := by
  obtain ⟨k, h⟩ := s.drainReq_eq n q
  rw [h]
  exact (Activated.modQ s q _).trans (.nextId _ k)

theorem release (s : State) (q : Qn) (run : Bool) (dg pdg : Nat) : Activated n s (s.release n q run dg pdg) := by
  unfold State.release
  split
  · exact (Activated.modQ s q _).trans (.nextId _ _)
  · exact .modQ s q _

theorem overrun (s : State) (x : Fin 4) : Activated n s (s.overrun n x) := .modI s x fun _ => ⟨rfl, fun _ => rfl⟩

/-- A demand moves no channel's state of `n` (R625). -/
theorem wake (s : State) : Activated n s (s.wake n) := by
  unfold State.wake
  split
  · next p _ =>
    have hl := s.demand_lch p
    exact ⟨by rw [State.demand_frame], fun m _ => by rw [hl], by rw [hl], fun x => by unfold State.tin; rw [hl]; exact .refl _⟩
  · exact .refl n s

end Activated

/-! ## WAITs and latches -/

/-- What an activation does to the WAITs of `n` and its inputs' latches. -/
structure Latched (n : Log) (s t : State) : Prop where
  on : Activated n s t
  state : t = { s with lch := t.lch }
  ques : ∀ q, ∃ acc, t.que n q = { s.que n q with acc }

namespace Latched

theorem refl (n : Log) (s : State) : Latched n s s := ⟨.refl n s, rfl, fun _ => ⟨_, rfl⟩⟩

theorem trans (h : Latched n s t) (k : Latched n t u) : Latched n s u := by
  refine ⟨h.on.trans k.on, by rw [k.state, h.state], fun q => ?_⟩
  obtain ⟨_, h1⟩ := h.ques q
  obtain ⟨acc, h2⟩ := k.ques q
  exact ⟨acc, by rw [h2, h1]⟩

theorem foldl {α : Type} {f : State → α → State} (hf : ∀ s a, Latched n s (f s a)) (l : List α) (s : State) : Latched n s (l.foldl f s) := by
  induction l generalizing s with
  | nil => exact .refl n s
  | cons a l ih => exact (hf s a).trans (ih _)

theorem satisfy (s : State) (q : Qn) (id g : Nat) : Latched n s (s.satisfy n q id g) := by
  refine ⟨.modQ s q _, rfl, fun r => ?_⟩
  by_cases h : q = r
  · rw [← h]
    exact ⟨_, s.modA_que n q id _⟩
  · exact ⟨_, s.modQ_que_ne n h _⟩

theorem modI (s : State) (x : Fin 4) {f : TIn → TIn} (hf : ∀ i, sameInput i (f i)) : Latched n s (s.modI n x f) :=
  ⟨.modI s x hf, rfl, fun q => ⟨_, s.modI_que n n x f q⟩⟩

/-- An update of the entries of every queue. -/
theorem accs (s : State) (g : Acc → Acc) {f : LCh → LCh} (hf : ∀ l, f l = { l with qs := (f l).qs }) (hg : (f s.lch[n]).qs = mapV s.lch[n].qs fun _ u => { u with acc := u.acc.map g }) :
    Latched n s (s.modL n f) := by
  refine ⟨.modL s fun l => ⟨_, hf l⟩, rfl, fun q => ⟨(s.que n q).acc.map g, ?_⟩⟩
  unfold State.que
  rw [State.modL_lch, if_pos rfl, hg, Fin.getElem_fin, mapV_get]
  rfl

/-- The activation satisfies WAITs or sets the latch (R468, R469). -/
theorem latchWait (s : State) (x : Fin 4) (g : Nat) : Latched n s (s.latchWait n x g) := by
  have hit : ∀ l : List (Qn × Acc), Latched n s (l.foldl (fun t w => t.satisfy n w.1 w.2.id g) s) := fun l => .foldl (fun s w => .satisfy s w.1 w.2.id g) l s
  unfold State.latchWait
  dsimp only
  split
  · exact (hit _).trans (.modI _ x fun _ => ⟨rfl, id⟩)
  · split
    · refine Latched.trans ?_ (.modI _ x fun _ => ⟨rfl, id⟩)
      exact .accs s (fun a => a.joinSpent x s.aclk g) (fun _ => rfl) rfl
    · split
      · exact .modI s x fun _ => ⟨rfl, id⟩
      · exact (hit _).trans (.modI _ x fun _ => ⟨rfl, id⟩)

end Latched

/-! ## R134's table -/

/-- A kick is counted up to 15, and beyond sets OVERRUN (R131). -/
theorem State.countKick_full (f : State → State) (h : 15 ≤ (s.que n q).kicks) : s.countKick n x q f = s.overrun n x := if_pos h

theorem State.countKick_counts (f : State → State) (h : ¬ 15 ≤ (s.que n q).kicks) : s.countKick n x q f = f (s.modQ n q fun u => { u with kicks := u.kicks + 1 }) := if_neg h

/-- What a KICK in mode `m`, HALT_ACTION `ha`, leaves of its queue `u`, which is `v` afterwards: `ovr` is the input's OVERRUN, `serves` that the channel is in service (R131, R134, R137). -/
structure Kicked (m ha : Nat) (serves : Prop) (u v : Que) (ovr : Prop) : Prop where
  kicks : v.kicks = if (m = 1 && (u.st = .active || u.st = .draining || (u.st = .halted && ha ≠ 1 && ha ≠ 2))) && !decide (15 ≤ u.kicks) then u.kicks + 1 else u.kicks
  full : (m = 1 && (u.st = .active || u.st = .draining || (u.st = .halted && ha ≠ 1 && ha ≠ 2))) = true → 15 ≤ u.kicks → ovr
  disabled : u.st = .disabled → m ≠ 2 → v.st = .disabled ∧ v.enp = u.enp
  enabled : u.st = .disabled → m = 2 → u.cfg.valid = true → serves → v.st = .active
  active : u.st = .active → v.st = .active ∧ (u.cfg.ring = true → m ≠ 1 ∨ ¬ 15 ≤ u.kicks → v.prd.out = true)
  draining : u.st = .draining → v.st = .draining ∧ v.enp = (u.enp || m = 2)
  halted : u.st = .halted → v.st = if ha = 1 ∨ ha = 2 then .active else .halted

theorem Que.trigger_kept (u : Que) (dg : Nat) : (u.trigger dg).kicks = u.kicks ∧ (u.trigger dg).st = u.st ∧ (u.cfg.ring = true → (u.trigger dg).prd.out = true) := by
  obtain ⟨prd, h⟩ := u.trigger_eq dg
  exact ⟨by rw [h], by rw [h], u.trigger_out dg⟩

theorem Que.activate_kicks (u : Que) (dg : Nat) : (u.activate dg).kicks = u.kicks := by
  obtain ⟨prd, h⟩ := u.activate_eq dg
  rw [h]

theorem State.release_kicks (s : State) (n : Log) (q : Qn) (run : Bool) (dg pdg : Nat) :
    ((s.release n q run dg pdg).que n q).st = .active ∧ ((s.release n q run dg pdg).que n q).kicks = (s.que n q).kicks := by
  unfold State.release
  cases (s.que n q).halt with
  | none =>
    dsimp only
    rw [State.modQ_que]
    exact ⟨Que.activate_st _ _, Que.activate_kicks _ _⟩
  | some h =>
    dsimp only
    obtain ⟨linkR, owed, hf⟩ := (s.que n q).freedTo_eq { s.que n q with
      acc := insertRetry (h.acc s.nextId (run && !h.noRetry) (max h.dg dg)) (s.que n q).acc, halt := some { h with released := true, held := none } }
    have hq : ∀ k, ({ (s.modQ n q fun u => ((u.freedTo { u with
        acc := insertRetry (h.acc s.nextId (run && !h.noRetry) (max h.dg dg)) u.acc, halt := some { h with released := true, held := none } }).reanchor).activate pdg) with
        nextId := k } : State).que n q = _ := fun k => s.modQ_que n q _
    rw [hq, hf]
    exact ⟨Que.activate_st _ _, Que.activate_kicks _ _⟩

theorem State.release_que_ne (s : State) (n : Log) {q r : Qn} (h : q ≠ r) (run : Bool) (dg pdg : Nat) : (s.release n q run dg pdg).que n r = s.que n r := by
  unfold State.release
  split
  · exact s.modQ_que_ne n h _
  · exact s.modQ_que_ne n h _

section
variable {m ha : Nat} {serves ovr : Prop} {v w : Que}

/-- A queue at which mode 1 counts one kick, and no other mode does (R131). -/
structure OneKick (m : Nat) (w v : Que) (ovr : Prop) : Prop where
  full : m = 1 → 15 ≤ w.kicks → v.kicks = w.kicks ∧ ovr
  room : m = 1 → ¬ 15 ≤ w.kicks → v.kicks = w.kicks + 1
  other : m ≠ 1 → v.kicks = w.kicks

theorem OneKick.counts (h : OneKick m w v ovr) {c : Bool} (hc : c = decide (m = 1)) :
    (v.kicks = if c && !decide (15 ≤ w.kicks) then w.kicks + 1 else w.kicks) ∧ (c = true → 15 ≤ w.kicks → ovr) := by
  by_cases hm : m = 1
  · rw [hc, decide_eq_true hm, Bool.true_and]
    refine ⟨?_, fun _ hf => (h.full hm hf).2⟩
    by_cases hf : 15 ≤ w.kicks
    · rw [decide_eq_true hf, Bool.not_true, if_neg Bool.false_ne_true, (h.full hm hf).1]
    · rw [decide_eq_false hf, Bool.not_false, if_pos rfl, h.room hm hf]
  · rw [hc, decide_eq_false hm, Bool.false_and, if_neg Bool.false_ne_true]
    exact ⟨h.other hm, nofun⟩

theorem Kicked.of_disabled (h : w.st = .disabled) (hk : v.kicks = w.kicks) (hd : m ≠ 2 → v.st = .disabled ∧ v.enp = w.enp)
    (he : m = 2 → w.cfg.valid = true → serves → v.st = .active) : Kicked m ha serves w v ovr := by
  refine ⟨?_, ?_, fun _ => hd, fun _ => he, ?_, ?_, ?_⟩
  all_goals rw [h]
  · rw [hk]; simp
  · simp
  all_goals exact nofun

theorem Kicked.of_active (h : w.st = .active) (hst : v.st = .active) (hone : OneKick m w v ovr)
    (hp : w.cfg.ring = true → m ≠ 1 ∨ ¬ 15 ≤ w.kicks → v.prd.out = true) : Kicked m ha serves w v ovr := by
  obtain ⟨hk, ho⟩ := hone.counts (c := m = 1 && (w.st = .active || w.st = .draining || (w.st = .halted && ha ≠ 1 && ha ≠ 2))) (by rw [h]; simp)
  refine ⟨hk, ho, ?_, ?_, fun _ => ⟨hst, hp⟩, ?_, ?_⟩
  all_goals rw [h]; exact nofun

theorem Kicked.of_draining (h : w.st = .draining) (hst : v.st = .draining ∧ v.enp = (w.enp || m = 2)) (hone : OneKick m w v ovr) : Kicked m ha serves w v ovr := by
  obtain ⟨hk, ho⟩ := hone.counts (c := m = 1 && (w.st = .active || w.st = .draining || (w.st = .halted && ha ≠ 1 && ha ≠ 2))) (by rw [h]; simp)
  refine ⟨hk, ho, ?_, ?_, ?_, fun _ => hst, ?_⟩
  all_goals rw [h]; exact nofun

theorem Kicked.of_halted (h : w.st = .halted) (ha' : ¬ (ha = 1 ∨ ha = 2)) (hst : v.st = .halted) (hone : OneKick m w v ovr) : Kicked m ha serves w v ovr := by
  obtain ⟨h1, h2⟩ := not_or.mp ha'
  obtain ⟨hk, ho⟩ := hone.counts (c := m = 1 && (w.st = .active || w.st = .draining || (w.st = .halted && ha ≠ 1 && ha ≠ 2))) (by rw [h]; simp [h1, h2])
  refine ⟨hk, ho, ?_, ?_, ?_, ?_, fun _ => by rw [hst, if_neg ha']⟩
  all_goals rw [h]; exact nofun

theorem Kicked.of_released (h : w.st = .halted) (ha' : ha = 1 ∨ ha = 2) (hst : v.st = .active) (hk : v.kicks = w.kicks) : Kicked m ha serves w v ovr := by
  have hc : (m = 1 && (w.st = .active || w.st = .draining || (w.st = .halted && ha ≠ 1 && ha ≠ 2)) : Bool) = false := by
    rw [h]
    rcases ha' with e | e <;> simp [e]
  refine ⟨by rw [hc, hk]; rfl, fun k => absurd (hc.symm.trans k) nofun, ?_, ?_, ?_, ?_, fun _ => by rw [hst, if_pos ha']⟩
  all_goals rw [h]; exact nofun

end

/-- What is counted at a queue whose further update `g` leaves its kicks alone (R131). -/
theorem State.countKick_que (s : State) (n : Log) (x : Fin 4) (q : Qn) (g : Que → Que) :
    (15 ≤ (s.que n q).kicks → (s.countKick n x q (State.modQ · n q g)).que n q = s.que n q ∧ ((s.countKick n x q (State.modQ · n q g)).tin n x).overrun = true)
      ∧ (¬ 15 ≤ (s.que n q).kicks → (s.countKick n x q (State.modQ · n q g)).que n q = g { s.que n q with kicks := (s.que n q).kicks + 1 }) := by
  refine ⟨fun h => ?_, fun h => ?_⟩
  · rw [State.countKick_full _ h]
    exact ⟨s.modI_que n n x _ q, congrArg TIn.overrun (s.modI_tin n x _)⟩
  · rw [State.countKick_counts _ h]
    refine (State.modQ_que _ n q g).trans ?_
    rw [State.modQ_que]

theorem Que.enable_kicks (u : Que) (dg : Nat) : (u.enable dg).kicks = u.kicks := by
  unfold Que.enable
  split
  · split
    · exact Que.activate_kicks _ _
    · rfl
  · rfl
  · rfl
  · rfl

/-- An enable event, in a channel that leaves service or not (R137, R642). -/
theorem State.enableQ_que (s : State) (n : Log) (q : Qn) (dg : Nat) : ∃ leaving : Bool, (s.enableQ n q dg).que n q = if leaving && (s.que n q).st == .disabled
    then if (s.que n q).cfg.valid then { s.que n q with enp := true, enDg := max (s.que n q).enDg dg } else s.que n q else (s.que n q).enable dg :=
  ⟨_, s.modQ_que n q _⟩

/-- An enable event counts no kick (R131, R137). -/
theorem State.enableQ_kicks (s : State) (n : Log) (q : Qn) (dg : Nat) : ((s.enableQ n q dg).que n q).kicks = (s.que n q).kicks := by
  obtain ⟨leaving, h⟩ := s.enableQ_que n q dg
  rw [h]
  split
  · split <;> rfl
  · exact Que.enable_kicks _ _

/-- The channel of `n` takes enable events as they come (R642). -/
def State.inService (s : State) (n : Log) : Prop := s.lch[n].oos = false ∧ ∀ p, s.servP n = some p → s.phys[p].st ≠ .draining ∧ s.phys[p].toDrain = false

/-- A kick that is counted at a queue, whose further update leaves its kicks alone (R131). -/
theorem OneKick.countKick {m : Nat} (hm : m = 1) (s : State) (n : Log) (x : Fin 4) (q : Qn) {g : Que → Que} (hg : ∀ u, (g u).kicks = u.kicks) :
    OneKick m (s.que n q) ((s.countKick n x q (State.modQ · n q g)).que n q) (((s.countKick n x q (State.modQ · n q g)).tin n x).overrun = true) := by
  obtain ⟨hfull, hroom⟩ := s.countKick_que n x q g
  exact ⟨fun _ h => ⟨congrArg Que.kicks (hfull h).1, (hfull h).2⟩, fun _ h => by rw [hroom h, hg], fun h => absurd hm h⟩

theorem OneKick.of_other {m : Nat} {w v : Que} {ovr : Prop} (hm : m ≠ 1) (h : v.kicks = w.kicks) : OneKick m w v ovr := ⟨fun k => absurd k hm, fun k => absurd k hm, fun _ => h⟩

/-- A kick that is only counted (R131). -/
theorem State.countKick_id (s : State) (n : Log) (x : Fin 4) (q : Qn) : s.countKick n x q id = s.countKick n x q (State.modQ · n q fun u => u) := by
  unfold State.countKick
  split
  · rfl
  · exact (State.modQ_id _ n q rfl).symm

theorem OneKick.countOnly {m : Nat} (hm : m = 1) (s : State) (n : Log) (x : Fin 4) (q : Qn) :
    OneKick m (s.que n q) ((s.countKick n x q id).que n q) (((s.countKick n x q id).tin n x).overrun = true) := by
  rw [State.countKick_id]
  exact .countKick hm s n x q fun _ => rfl

theorem State.countKick_only (s : State) (n : Log) (x : Fin 4) (q : Qn) : ∃ kicks, (s.countKick n x q id).que n q = { s.que n q with kicks } := by
  rw [State.countKick_id]
  obtain ⟨hfull, hroom⟩ := s.countKick_que n x q fun u => u
  by_cases h : 15 ≤ (s.que n q).kicks
  · exact ⟨_, (hfull h).1⟩
  · exact ⟨_, hroom h⟩

/-- A kick of a queue that is ACTIVE, which triggers its PIDX read when it is counted (R114, R131). -/
theorem State.countKick_trigger {s : State} (hst : (s.que n q).st = .active) (x : Fin 4) (dg : Nat) : let t := s.countKick n x q (State.modQ · n q fun u => u.trigger dg)
    (t.que n q).st = .active ∧ ((s.que n q).cfg.ring = true → ¬ 15 ≤ (s.que n q).kicks → (t.que n q).prd.out = true) := by
  obtain ⟨hfull, hroom⟩ := s.countKick_que n x q fun u => u.trigger dg
  by_cases h : 15 ≤ (s.que n q).kicks
  · exact ⟨by rw [(hfull h).1, hst], fun _ k => absurd h k⟩
  · obtain ⟨-, hst', hout⟩ := Que.trigger_kept { s.que n q with kicks := (s.que n q).kicks + 1 } dg
    exact ⟨by rw [hroom h, hst', hst], fun hr _ => by rw [hroom h]; exact hout hr⟩

/-- HALT_ACTION (R134, R492). -/
theorem State.haltAction_releases {ha : Nat} (h : (s.tin n x).haltAct = ha) (h12 : ha = 1 ∨ ha = 2) (q : Qn) (g : Nat) (f : State → State) :
    ∃ run, s.haltAction n x q g f = s.release n q run (g + 1) (g + 1) := by
  unfold State.haltAction
  rw [h]
  rcases h12 with e | e <;> rw [e] <;> exact ⟨_, rfl⟩

theorem State.haltAction_none {ha : Nat} (h : (s.tin n x).haltAct = ha) (h12 : ¬ (ha = 1 ∨ ha = 2)) (q : Qn) (g : Nat) (f : State → State) : s.haltAction n x q g f = f s := by
  unfold State.haltAction
  rw [h]
  split
  · exact absurd (.inl rfl) h12
  · exact absurd (.inr rfl) h12
  · rfl

/-- R134's table. -/
theorem State.kick_kicked (s : State) (n : Log) (x : Fin 4) (g : Nat) :
    let i := s.tin n x
    Kicked i.mode i.haltAct (s.inService n) (s.que n i.queue) ((s.kick n x g).que n i.queue) (((s.kick n x g).tin n x).overrun = true) := by
  unfold State.kick
  dsimp only
  generalize hi : s.tin n x = i
  split
  · next hst hm =>
    refine .of_disabled hst (s.enableQ_kicks n _ _) (fun h => absurd hm h) fun _ hv hs => ?_
    rw [s.enableQ_inService n _ _ hs.1 hs.2, State.modQ_que]
    unfold Que.enable
    rw [hst]
    dsimp only
    rw [if_pos hv]
    exact Que.activate_st _ _
  · next hst hm => exact .of_disabled hst rfl (fun _ => ⟨hst, rfl⟩) fun h => absurd h hm
  · next hst hm =>
    obtain ⟨ha, hp⟩ := State.countKick_trigger hst x (g + 1)
    exact .of_active hst ha (.countKick hm s n x _ fun u => (u.trigger_kept _).1) fun hr h => hp hr (h.resolve_left fun k => k hm)
  · next hst hm =>
    rw [State.modQ_que]
    obtain ⟨hk, hst', hout⟩ := (s.que n i.queue).trigger_kept (g + 1)
    exact .of_active hst (hst'.trans hst) (.of_other hm hk) fun hr _ => hout hr
  · next hst hm =>
    obtain ⟨kicks, hq⟩ := s.countKick_only n x i.queue
    refine .of_draining hst ?_ (.countOnly hm s n x _)
    rw [hq, hm]
    exact ⟨hst, (Bool.or_false _).symm⟩
  · next hst hm =>
    refine .of_draining hst ?_ (.of_other (by rw [hm]; exact nofun) (s.enableQ_kicks n _ _))
    rw [s.enableQ_enabled n _ _ (by rw [hst]; exact nofun), State.modQ_que, hm]
    unfold Que.enable
    rw [hst]
    dsimp only
    exact ⟨rfl, (Bool.or_true _).symm⟩
  · next hst h1 h2 =>
    refine .of_draining hst ⟨hst, ?_⟩ (.of_other h1 rfl)
    rw [decide_eq_false h2, Bool.or_false]
  · next hst hm =>
    by_cases h12 : i.haltAct = 1 ∨ i.haltAct = 2
    · obtain ⟨run, h⟩ := State.haltAction_releases (congrArg TIn.haltAct hi) h12 i.queue g fun s => s.countKick n x i.queue id
      rw [h]
      obtain ⟨hst', hk⟩ := s.release_kicks n i.queue run (g + 1) (g + 1)
      exact .of_released hst h12 hst' hk
    · rw [State.haltAction_none (congrArg TIn.haltAct hi) h12]
      obtain ⟨kicks, hq⟩ := s.countKick_only n x i.queue
      exact .of_halted hst h12 (by rw [hq]; exact hst) (.countOnly hm s n x _)
  · next hst hm =>
    by_cases h12 : i.haltAct = 1 ∨ i.haltAct = 2
    · obtain ⟨run, h⟩ := State.haltAction_releases (congrArg TIn.haltAct hi) h12 i.queue g id
      rw [h]
      obtain ⟨hst', hk⟩ := s.release_kicks n i.queue run (g + 1) (g + 1)
      exact .of_released hst h12 hst' hk
    · rw [State.haltAction_none (congrArg TIn.haltAct hi) h12]
      exact .of_halted hst h12 hst (.of_other hm rfl)

/-- What a KICK leaves alone. -/
theorem State.kick_frame (s : State) (n : Log) (x : Fin 4) (g : Nat) : Activated n s (s.kick n x g) ∧ ∀ r : Qn, r ≠ (s.tin n x).queue → (s.kick n x g).que n r = s.que n r := by
  let q := (s.tin n x).queue
  have hmod : ∀ (z : State) (f : Que → Que) (r : Qn), r ≠ q → (z.modQ n q f).que n r = z.que n r := fun z f r h => z.modQ_que_ne n (Ne.symm h) f
  have hcount : ∀ f : State → State, (∀ z, Activated n z (f z) ∧ ∀ r : Qn, r ≠ q → (f z).que n r = z.que n r) →
      Activated n s (s.countKick n x q f) ∧ ∀ r : Qn, r ≠ q → (s.countKick n x q f).que n r = s.que n r := fun f hf => by
    unfold State.countKick
    split
    · exact ⟨.overrun s x, fun r _ => s.modI_que n n x _ r⟩
    · exact ⟨(Activated.modQ s q _).trans (hf _).1, fun r hr => ((hf _).2 r hr).trans (hmod s _ r hr)⟩
  have hid : ∀ z : State, Activated n z (id z) ∧ ∀ r : Qn, r ≠ q → (id z).que n r = z.que n r := fun z => ⟨.refl n z, fun _ _ => rfl⟩
  have hhalt : ∀ f : State → State, (Activated n s (f s) ∧ ∀ r : Qn, r ≠ q → (f s).que n r = s.que n r) →
      Activated n s (s.haltAction n x q g f) ∧ ∀ r : Qn, r ≠ q → (s.haltAction n x q g f).que n r = s.que n r := fun f hf => by
    unfold State.haltAction
    split
    · exact ⟨.release s q _ _ _, fun r hr => s.release_que_ne n (Ne.symm hr) _ _ _⟩
    · exact ⟨.release s q _ _ _, fun r hr => s.release_que_ne n (Ne.symm hr) _ _ _⟩
    · exact hf
  have hpidx : ∀ z : State, Activated n z (z.modQ n q fun u => u.trigger (g + 1)) ∧ ∀ r : Qn, r ≠ q → (z.modQ n q fun u => u.trigger (g + 1)).que n r = z.que n r :=
    fun z => ⟨.modQ z q _, hmod z _⟩
  unfold State.kick
  dsimp only
  split
  · exact ⟨.modQ s q _, hmod s _⟩
  · exact hid s
  · exact hcount _ hpidx
  · exact hpidx s
  · exact hcount _ hid
  · exact ⟨.modQ s q _, hmod s _⟩
  · exact hid s
  · exact hhalt _ (hcount _ hid)
  · exact hhalt _ (hid s)

/-! ## DRAIN -/

/-- What a DRAIN activation does at queue `q` (R134). -/
def State.drainAt (n : Log) (s : State) (q : Qn) : State :=
  if !bit (s.tin n 2).drainMask q then s
  else if (s.que n q).st == .draining then s.overrun n 2
  else s.drainReq n q

theorem State.drainAct_eq (s : State) (n : Log) : s.drainAct n = (fins 4).foldl (State.drainAt n) s := rfl

theorem Activated.drainAt (s : State) (q : Qn) : Activated n s (State.drainAt n s q) := by
  unfold State.drainAt
  split
  · exact .refl n s
  · split
    · exact .overrun s 2
    · exact .drainReq s q

theorem State.drainAt_que_ne (s : State) (n : Log) {q r : Qn} (h : q ≠ r) : (State.drainAt n s q).que n r = s.que n r := by
  unfold State.drainAt
  split
  · rfl
  · split
    · exact s.modI_que n n 2 _ r
    · exact s.drainReq_que_ne n h

/-- A queue that DRAIN_MASK names drains unless it is DISABLED, and sets OVERRUN when it did (R134). -/
theorem State.drainAt_que (s : State) (n : Log) (q : Qn) :
    (bit (s.tin n 2).drainMask q = false → (State.drainAt n s q).que n q = s.que n q)
      ∧ (bit (s.tin n 2).drainMask q = true → ((State.drainAt n s q).que n q).st = (if (s.que n q).st = .disabled then .disabled else .draining)
          ∧ ((s.que n q).st = .draining → ((State.drainAt n s q).tin n 2).overrun = true)) := by
  unfold State.drainAt
  refine ⟨fun h => by rw [h]; rfl, fun h => ?_⟩
  rw [h, Bool.not_true, if_neg Bool.false_ne_true]
  by_cases hd : (s.que n q).st = .draining
  · rw [if_pos (beq_iff_eq.mpr hd)]
    refine ⟨?_, fun _ => congrArg TIn.overrun (s.modI_tin n 2 _)⟩
    unfold State.overrun
    rw [State.modI_que, hd]
    rfl
  · rw [if_neg fun k => hd (beq_iff_eq.mp k), State.drainReq_que, Que.drainAsked_st]
    exact ⟨rfl, fun k => absurd k hd⟩

theorem State.drains_que (l : List Qn) (hl : l.Nodup) (s : State) (q : Qn) : let t := l.foldl (State.drainAt n) s
    (q ∉ l ∨ bit (s.tin n 2).drainMask q = false → t.que n q = s.que n q)
      ∧ (q ∈ l → bit (s.tin n 2).drainMask q = true → (t.que n q).st = (if (s.que n q).st = .disabled then .disabled else .draining)
          ∧ ((s.que n q).st = .draining → (t.tin n 2).overrun = true)) := by
  induction l generalizing s with
  | nil => exact ⟨fun _ => rfl, nofun⟩
  | cons r l ih =>
    obtain ⟨hr, hl⟩ := List.nodup_cons.mp hl
    have hmask : ((State.drainAt n s r).tin n 2).drainMask = (s.tin n 2).drainMask := by rw [((Activated.drainAt s r).inputs 2).1]
    obtain ⟨ih1, ih2⟩ := ih hl (State.drainAt n s r)
    rw [hmask] at ih1 ih2
    rw [List.foldl_cons]
    by_cases h : r = q
    · subst h
      obtain ⟨h1, h2⟩ := s.drainAt_que n r
      have hrest := ih1 (.inl hr)
      refine ⟨fun k => hrest.trans (h1 (k.resolve_left fun k => k List.mem_cons_self)), fun _ k => ⟨(congrArg Que.st hrest).trans (h2 k).1, fun hd => ?_⟩⟩
      exact ((Activated.foldl (fun s q => .drainAt s q) l _).inputs 2).2 ((h2 k).2 hd)
    · have hne := s.drainAt_que_ne n h
      rw [hne] at ih1 ih2
      refine ⟨fun k => ih1 (k.imp_left fun k hm => k (List.mem_cons_of_mem r hm)), fun hm k => ih2 ((List.mem_cons.mp hm).resolve_left (Ne.symm h)) k⟩

/-! ## Activations -/

/-- What an activation does behind the latch: DRAIN, nothing but the wake demand, or a KICK (R134, R445). -/
def State.acts (s : State) (n : Log) (x : Fin 4) (g : Nat) : State := if x = 2 then s.drainAct n else if x = 3 then s else s.kick n x g

theorem State.activation_eq (s : State) (n : Log) (x : Fin 4) (g : Nat) : s.activation n x g = ((s.latchWait n x g).acts n x g).wake n := rfl

theorem Activated.acts (s : State) (x : Fin 4) (g : Nat) : Activated n s (s.acts n x g) := by
  unfold State.acts
  split
  · exact .foldl (fun s q => .drainAt s q) _ s
  · split
    · exact .refl n s
    · exact (s.kick_frame n x g).1

theorem Activated.activation (s : State) (x : Fin 4) (g : Nat) : Activated n s (s.activation n x g) :=
  ((Latched.latchWait s x g).on.trans (.acts _ x g)).trans (.wake _)

end Sys2Proof.Machine
end

section
/-! SUPPORT. The commands of a task input (R134, R135, R438, R442): what is due applies, and what came with it. -/

namespace Sys2Proof.Machine

variable {n : Log} {s t z : State} {x : Fin 4} {g : Nat}

/-- A command of an input runs on the external events and that input (R135). -/
theorem exec_inputCmd {ext : List Ext} {c : Instr} (h : inputCmd s n x ext c) : exec c s = .next (s.taskInputs n x ext) := by
  rcases h with ⟨rfl, rfl⟩ | ⟨rfl, rfl⟩ | ⟨b, rfl, hm, rfl⟩
  · rfl
  · rfl
  · have hm' : (s.tin n (kickIn b)).mode = 0 ∨ (s.tin n (kickIn b)).mode = 1 ∨ (s.tin n (kickIn b)).mode = 2 := by omega
    rcases hm' with h | h | h
    · rw [h]
      exact congrArg Host.Outcome.next (if_pos (decide_eq_true h))
    · rw [h]
      exact congrArg Host.Outcome.next (if_pos (decide_eq_true h))
    · rw [h]
      exact congrArg Host.Outcome.next (if_pos (decide_eq_true h))

theorem exec_kick {b : Fin 2} {m : Nat} (hm : m < 3) (h : (s.tin n (kickIn b)).mode = m) : exec (kickOf n b m) s = .next (s.taskInputs n (kickIn b) []) :=
  exec_inputCmd (.inr (.inr ⟨b, rfl, by rw [h]; exact hm, by rw [h]⟩))

theorem sameInput.mode {i j : TIn} (h : sameInput i j) : j.mode = i.mode := by rw [h.1]

/-- An activation behind the input's own update (R439). -/
theorem Activated.frame {f : TIn → TIn} (h : Activated n (s.modI n x f) t) : activationFrame n s t := by
  have hp : (s.modI n x f).lch[n].port = s.lch[n].port := by
    rw [State.modI, State.modL_lch, if_pos rfl]
    exact LCh.modI_port _ x f
  exact ⟨by rw [h.state]; rfl, fun m hm => (h.others m hm).trans ((AtLog.modL n s _).others m hm), by rw [h.chan]; exact hp⟩

/-- What an input is once its activation of generation `g` has applied (R442, R457). -/
structure TIn.Applied (i j : TIn) (now g : Nat) : Prop where
  contrib : j.contrib = []
  lastAct : j.lastAct = some now
  lastGen : j.lastGen = g
  heldGen : j.heldGen = none
  doneA : j.doneA = some now
  acts : j.acts = min 0xFFFFFFFF (i.acts + 1)
  settings : j.queue = i.queue ∧ j.mode = i.mode ∧ j.haltAct = i.haltAct ∧ j.drainMask = i.drainMask

theorem TIn.Applied.same {i j k : TIn} {now : Nat} (h : i.Applied j now g) (hk : sameInput j k) : i.Applied k now g := by
  obtain ⟨h1, h2, h3, h4, h5, h6, h7⟩ := h
  rw [hk.1]
  exact ⟨h1, h2, h3, h4, h5, h6, h7⟩

theorem TIn.not_waits {i : TIn} {now : Nat} (hr : ∀ a, i.lastAct = some a → a + i.rate ≤ now) : i.waits now = false := by
  unfold TIn.waits
  cases h : i.lastAct with
  | none => rfl
  | some a => exact decide_eq_false (Nat.not_lt.mpr (hr a h))

section
variable (hg : s.gate.locked = true) (ha : s.gate.lockA < s.aclk) (hm : s.map[n].isSome = true) (hd : (s.tin n x).doneA ≠ some s.aclk)
  (hb : ∀ y ∈ inputsBefore x, (s.tin n y).doneA = some s.aclk ∨ (s.tin n y).dueNow s.aclk = false)
  (hr : ∀ a, (s.tin n x).lastAct = some a → a + (s.tin n x).rate ≤ s.aclk)
include hg ha hm hd hb

include hr

/-- One contribution, or a held activation, applies (R439, R442). -/
theorem State.taskInputs_applies {l : List (Nat × Nat)} {a0 : Nat} (h0 : a0 < s.aclk) (hc : (s.tin n x).contrib = l.map fun e => (a0, e.1, e.2)) (hl : ∀ e ∈ l, e.2 < 7)
    (hsome : l ≠ [] ∨ (s.tin n x).heldGen.isSome = true) : ∃ j, (s.tin n x).Applied j s.aclk ((l.map Prod.snd).foldl max ((s.tin n x).heldGen.getD 0))
      ∧ j.merged = (if 2 ≤ l.length ∨ l ≠ [] ∧ (s.tin n x).heldGen.isSome = true then min 255 ((s.tin n x).merged + 1) else (s.tin n x).merged)
      ∧ s.taskInputs n x [] = (s.modI n x fun _ => j).activation n x ((l.map Prod.snd).foldl max ((s.tin n x).heldGen.getD 0)) := by
  have hgood : countingOf l = l := List.filter_eq_self.mpr fun e he => decide_eq_true (hl e he)
  obtain ⟨ldg, r, hldg, ht, -, happ⟩ := State.taskInput_taken hg ha hm hd h0 hc
  obtain ⟨k, hk, hkg, h1, h2, h3, h4, h5⟩ := ht.applies (TIn.not_waits hr) (by rw [hgood]; exact hsome)
  obtain ⟨s1, s2, s3, s4, -⟩ := ht.settings
  rw [hgood] at hkg
  subst hkg
  have hz : ({ s.modI n x fun _ => r.1 with ldg } : State) = s.modI n x fun _ => r.1 := by rw [hldg (loopingOf_eq_nil.mpr (by rw [hgood]; exact Nat.lt_irrefl _))]; rfl
  have e := happ _ hk
  rw [hz] at e
  refine ⟨r.1, ⟨ht.contrib, h1, h3, h2, h5, h4, s1, s2, s3, s4⟩, ?_, (State.taskInputs_undue hb).trans e⟩
  rw [ht.merged, hgood]

end

/-- A contribution that is due applies. -/
theorem kickDue_applies (h : kickDue s n x g) : ∃ j, (s.tin n x).Applied j s.aclk g ∧ s.taskInputs n x [] = (s.modI n x fun _ => j).activation n x g := by
  obtain ⟨hg, ha, hm, hd, hh, h7, ⟨a0, b, h0, hc⟩, hr, hb⟩ := h
  obtain ⟨j, hj, -, e⟩ := State.taskInputs_applies hg ha hm hd hb hr (l := [(b, g)]) h0 hc (by simpa using h7) (.inl nofun)
  have hgen : ([(b, g)].map Prod.snd).foldl max ((s.tin n x).heldGen.getD 0) = g := by
    rw [hh]
    exact Nat.zero_max g
  rw [hgen] at hj e
  exact ⟨j, hj, e⟩

/-- What a wake demand leaves of the channel's inputs and queues. -/
theorem State.wake_kept (s : State) (n : Log) : (∀ q, (s.wake n).que n q = s.que n q) ∧ ∀ x, (s.wake n).tin n x = s.tin n x := by
  have hl := s.wake_lch n
  exact ⟨State.que_congr hl n, fun x => by unfold State.tin; rw [hl]⟩

/-! ## The three kinds of activation -/

theorem Kicked.of_acc {m ha : Nat} {S S' ovr : Prop} {u v : Que} {acc : List Acc} (h : Kicked m ha S { u with acc } v ovr) (hs : S' → S) : Kicked m ha S' u v ovr := by
  obtain ⟨h1, h2, h3, h4, h5, h6, h7⟩ := h
  exact ⟨h1, h2, h3, fun a1 a2 a3 a4 => h4 a1 a2 a3 (hs a4), h5, h6, h7⟩

theorem kickIn_ne (b : Fin 2) : kickIn b ≠ 2 ∧ kickIn b ≠ 3 := by
  revert b
  decide

/-- An activation at a KICK input (R134). -/
theorem State.activation_kick (z : State) (n : Log) (b : Fin 2) (g : Nat) : let x := kickIn b
    let t := z.activation n x g
    let i := z.tin n x
    Kicked i.mode i.haltAct (z.inService n) (z.que n i.queue) (t.que n i.queue) ((t.tin n x).overrun = true)
      ∧ ∀ r : Qn, r ≠ i.queue → (t.que n r).st = (z.que n r).st ∧ (t.que n r).kicks = (z.que n r).kicks := by
  intro x t i
  let w := z.latchWait n x g
  have hL : Latched n z w := .latchWait z x g
  obtain ⟨hq, hi⟩ := (w.kick n x g).wake_kept n
  obtain ⟨hn2, hn3⟩ := kickIn_ne b
  have ht : t = (w.kick n x g).wake n := by
    unfold t
    rw [State.activation_eq, State.acts, if_neg hn2, if_neg hn3]
  have hin := (hL.on.inputs x).1
  have hmode : (w.tin n x).mode = i.mode := (hL.on.inputs x).mode
  have hact : (w.tin n x).haltAct = i.haltAct := by rw [hin]
  have hqueue : (w.tin n x).queue = i.queue := by rw [hin]
  have hK := w.kick_kicked n x g
  have hserv : z.inService n → w.inService n := fun ⟨h1, h2⟩ => ⟨by rw [hL.on.chan]; exact h1, fun p hp => by rw [hL.state] at hp ⊢; exact h2 p hp⟩
  obtain ⟨acc, hacc⟩ := hL.ques i.queue
  dsimp only at hK
  rw [hmode, hact, hqueue, hacc] at hK
  rw [ht, hq, hi]
  refine ⟨?_, fun r hr => ?_⟩
  · exact hK.of_acc hserv
  · obtain ⟨acc', hacc'⟩ := hL.ques r
    rw [hq, (w.kick_frame n x g).2 r (by rw [hqueue]; exact hr), hacc']
    exact ⟨rfl, rfl⟩

/-- An activation at the DRAIN input (R134). -/
theorem State.activation_drain (z : State) (n : Log) (g : Nat) (q : Qn) : let t := z.activation n 2 g
    (bit (z.tin n 2).drainMask q = false → (t.que n q).st = (z.que n q).st)
      ∧ (bit (z.tin n 2).drainMask q = true → (t.que n q).st = (if (z.que n q).st = .disabled then .disabled else .draining)
          ∧ ((z.que n q).st = .draining → (t.tin n 2).overrun = true)) := by
  intro t
  let w := z.latchWait n 2 g
  have hL : Latched n z w := .latchWait z 2 g
  obtain ⟨hq, hi⟩ := (w.drainAct n).wake_kept n
  have ht : t = (w.drainAct n).wake n := by
    unfold t
    rw [State.activation_eq, State.acts, if_pos rfl]
  obtain ⟨h1, h2⟩ := State.drains_que (n := n) (fins 4) (fins_nodup 4) w q
  rw [← State.drainAct_eq] at h1 h2
  have hmask : (w.tin n 2).drainMask = (z.tin n 2).drainMask := by rw [(hL.on.inputs 2).1]
  obtain ⟨acc, hacc⟩ := hL.ques q
  rw [hmask] at h1 h2
  rw [hacc] at h2
  rw [ht, hq, hi]
  exact ⟨fun h => by rw [h1 (.inr h), hacc], fun h => h2 (mem_fins q) h⟩

/-- An activation at the WAKE input is a wake demand only (R134, R445). -/
theorem State.activation_wake (z : State) (n : Log) (g : Nat) : let t := z.activation n 3 g
    (∀ q, (t.que n q).st = (z.que n q).st ∧ (t.que n q).kicks = (z.que n q).kicks)
      ∧ ∀ p : Phys, z.map[n] = some p → z.phys[p].st = .dormant → t.phys[p].st = .waking := by
  intro t
  let w := z.latchWait n 3 g
  have hL : Latched n z w := .latchWait z 3 g
  obtain ⟨hq, -⟩ := w.wake_kept n
  have ht : t = w.wake n := rfl
  rw [ht]
  refine ⟨fun q => ?_, fun p hm hp => ?_⟩
  · obtain ⟨acc, hacc⟩ := hL.ques q
    rw [hq, hacc]
    exact ⟨rfl, rfl⟩
  · have hwp : w.phys[p].st = .dormant := by rw [hL.state]; exact hp
    have hs : w.servP n = some p := by
      have h : w.servP n = z.servP n := by rw [hL.state]; rfl
      rw [h, State.servP, hm, Option.filter_some, hp]
      rfl
    rw [State.wake_serves hs]
    exact (w.demand_dormant p hwp).1

/-! ## What comes first -/

/-- A DRAIN that is due in the aclk of a KICK applies before it (R135). -/
theorem State.taskInputs_drain_first (b : Fin 2) (hd : (s.tin n 2).doneA ≠ some s.aclk) (hdue : (s.tin n 2).dueNow s.aclk = true)
    (ht : ((s.taskInput n 2).tin n 2).doneA = some (s.taskInput n 2).aclk) : s.taskInputs n (kickIn b) [] = (s.taskInput n 2).taskInputs n (kickIn b) [] := by
  obtain ⟨l, hl⟩ : ∃ l, inputsBefore (kickIn b) = 2 :: l := by
    obtain rfl | rfl : b = 0 ∨ b = 1 := by omega
    · exact ⟨[], rfl⟩
    · exact ⟨[0], rfl⟩
  unfold State.taskInputs
  rw [show s.extIn n [] = s from rfl, show (s.taskInput n 2).extIn n [] = s.taskInput n 2 from rfl, hl, List.foldl_cons, List.foldl_cons, if_pos, if_neg]
  · rw [ht]
    simp
  · rw [hdue, decide_eq_true hd]
    rfl

/-- External events join the contributions of every input that enables their line (R438, R444). -/
theorem State.extIn_parts (ext : List Ext) (hg : s.gate.locked = true) (ha : s.gate.lockA < s.aclk) (hm : s.map[n].isSome = true) (ht : s.tap.drives = false) :
    let z := s.extIn n ext
    z = { s with lch := z.lch } ∧ sameOthers n s z ∧ (∀ q : Qn, z.que n q = s.que n q)
      ∧ ∀ i : Fin 4, z.tin n i = { s.tin n i with contrib := (s.tin n i).contrib
          ++ ((ext.filter fun e => (s.tin n i).mask.getLsbD (45 + e.line.val)).map fun e => (s.aclk - 1, 45 + e.line.val, e.gen.val)) } := by
  intro z
  cases ext with
  | nil =>
    refine ⟨rfl, fun _ _ => rfl, fun _ => rfl, fun i => ?_⟩
    show s.tin n i = { s.tin n i with contrib := (s.tin n i).contrib ++ [] }
    rw [List.append_nil]
  | cons e ext =>
    have hn : s.map[n].isNone = false := by rw [← Option.not_isSome, hm]; rfl
    have hz : z = s.modL n fun l => { l with ins := mapV l.ins fun _ i =>
        { i with contrib := i.contrib ++ ((e :: ext).filter fun x => i.mask.getLsbD (45 + x.line)).map fun x => (s.aclk - 1, 45 + x.line.val, x.gen.val) } } := by
      unfold z State.extIn
      rw [if_neg]
      rw [ht, hg, hn, decide_eq_false (Nat.not_le.mpr ha)]
      exact nofun
    rw [hz]
    refine ⟨rfl, (AtLog.modL n s _).others, fun q => ?_, fun i => ?_⟩
    · refine s.modL_que_kept n _ ?_ n q
      exact fun _ => rfl
    · unfold State.tin
      rw [State.modL_lch, if_pos rfl]
      dsimp only
      rw [Fin.getElem_fin, mapV_get]
      rfl

/-- The command runs alike once its external events have arrived (R135, R438). -/
theorem exec_inputCmd_ext {ext : List Ext} {c d : Instr} (hc : inputCmd s n x ext c) (hd : inputCmd s n x [] d) (hmode : ((s.extIn n ext).tin n x).mode = (s.tin n x).mode) :
    exec c s = exec d (s.extIn n ext) := by
  have hd' : inputCmd (s.extIn n ext) n x [] d := by
    unfold inputCmd at hd ⊢
    rw [hmode]
    exact hd
  rw [exec_inputCmd hc, exec_inputCmd hd']
  rfl

end Sys2Proof.Machine
end

section
namespace Sys2Proof.Machine

/-- Settles O48: what is due applies by `State.taskInput_taken`, behind a latch that moves no queue's state (`Latched`); a KICK has the effect of `State.kick_kicked`. -/
theorem activationsFollowTheTable : Obligations.ActivationsFollowTheTable := by
  unfold Obligations.ActivationsFollowTheTable
  refine ⟨fun s n b m g hm hmode hdue => ?_, fun s n g hdue => ?_, fun s n g hdue => ?_, ?_, ?_, ?_, ?_⟩
  · obtain ⟨j, hj, e⟩ := kickDue_applies hdue
    obtain ⟨hqueue, hmode', hact', -⟩ := hj.settings
    let z := s.modI n (kickIn b) fun _ => j
    have hz : ∀ q, z.que n q = s.que n q := s.modI_que n n _ _
    have hzj : z.tin n (kickIn b) = j := s.modI_tin n _ _
    have hact : Activated n z (z.activation n (kickIn b) g) := .activation z _ g
    have hin := hact.inputs (kickIn b)
    obtain ⟨hK, hrest⟩ := z.activation_kick n b g
    rw [hzj] at hin
    rw [hzj, hqueue] at hK hrest
    rw [hmode', hact', hz, hmode] at hK
    have hj' := hj.same hin
    refine ⟨_, (exec_kick hm hmode).trans (congrArg Host.Outcome.next e), hact.frame, fun r hr => ?_, hj'.lastAct, hj'.lastGen, hj'.contrib, hK.kicks,
      fun hc hf => hK.full hc (of_decide_eq_true hf), hK.disabled, fun hu hm2 hv ho hp => hK.enabled hu hm2 hv ⟨?_, fun p hs => ?_⟩,
      fun hu => ⟨(hK.active hu).1, fun hr h => (hK.active hu).2 hr (h.imp (fun hc k => ?_) of_decide_eq_false)⟩, hK.draining, hK.halted⟩
    · rw [← hz]
      exact hrest r hr
    · unfold z
      rw [State.modI, State.modL_lch, if_pos rfl]
      exact ho
    · obtain ⟨h1, h2⟩ := hp p hs
      exact ⟨fun k => absurd (h1.symm.trans k) nofun, h2⟩
    · rw [hu, k] at hc
      exact absurd hc (by simp)
  · obtain ⟨j, hj, e⟩ := kickDue_applies hdue
    let z := s.modI n 2 fun _ => j
    have hz : ∀ q, z.que n q = s.que n q := s.modI_que n n 2 _
    have hact : Activated n z (z.activation n 2 g) := .activation z 2 g
    have hmask : (z.tin n 2).drainMask = (s.tin n 2).drainMask := by
      obtain ⟨-, -, -, hdm⟩ := hj.settings
      rw [← hdm]
      exact congrArg TIn.drainMask (s.modI_tin n 2 _)
    refine ⟨_, (exec_inputCmd (.inl ⟨rfl, rfl⟩)).trans (congrArg Host.Outcome.next e), hact.frame, fun q h => ?_, fun q h => ?_⟩
    · rw [← hz]
      exact (z.activation_drain n g q).1 (hmask ▸ h)
    · rw [← hz]
      exact (z.activation_drain n g q).2 (hmask ▸ h)
  · obtain ⟨j, hj, e⟩ := kickDue_applies hdue
    let z := s.modI n 3 fun _ => j
    have hz : ∀ q, z.que n q = s.que n q := s.modI_que n n 3 _
    have hact : Activated n z (z.activation n 3 g) := .activation z 3 g
    obtain ⟨hq, hp⟩ := z.activation_wake n g
    have hin : sameInput j ((z.activation n 3 g).tin n 3) := by
      have h := hact.inputs 3
      rw [show z.tin n 3 = j from s.modI_tin n 3 _] at h
      exact h
    refine ⟨_, (exec_inputCmd (.inr (.inl ⟨rfl, rfl⟩))).trans (congrArg Host.Outcome.next e), hact.frame, fun q => ?_, (hj.same hin).lastAct, hp⟩
    rw [← hz]
    exact hq q
  · intro s n x g hg ha hm hd hb hheld hc hr
    have hw : (s.tin n x).waits s.aclk = false := TIn.not_waits hr
    obtain ⟨j, hj, hmerged, e⟩ := State.taskInputs_applies hg ha hm hd hb hr (l := []) (Nat.zero_lt_of_lt ha) hc nofun (.inr (by rw [hheld]; rfl))
    have hgen : (([] : List (Nat × Nat)).map Prod.snd).foldl max ((s.tin n x).heldGen.getD 0) = g := by
      rw [hheld]
      rfl
    rw [hgen] at hj e
    have hact : Activated n (s.modI n x fun _ => j) _ := .activation _ x g
    have hin := hact.inputs x
    rw [s.modI_tin n x] at hin
    have hj' := hj.same hin
    have hx : exec (.rateHeldApply n x []) s = .next (s.taskInputs n x []) := by
      refine congrArg Host.Outcome.next (if_pos ?_)
      show ((s.tin n x).heldGen.isSome && !(s.tin n x).waits s.aclk) = true
      rw [hheld, hw]
      rfl
    refine ⟨_, hx.trans (congrArg Host.Outcome.next e), hact.frame, hj'.heldGen, hj'.lastAct, hj'.lastGen, hj'.acts, ?_⟩
    rw [hin.1]
    exact hmerged.trans (if_neg (by simp))
  · intro s n b m g hm hmode hdue
    obtain ⟨-, -, -, hd, -, h7, ⟨a0, k, h0, hc⟩, -, hb⟩ := id hdue
    obtain ⟨j, hj, e⟩ := kickDue_applies hdue
    have ht := (State.taskInputs_undue hb).symm.trans e
    have hact : Activated n (s.modI n 2 fun _ => j) (s.taskInput n 2) := by rw [ht]; exact .activation _ 2 g
    have hin := hact.inputs 2
    rw [s.modI_tin n 2] at hin
    have hclk : (s.taskInput n 2).aclk = s.aclk := by rw [hact.state]; rfl
    have hdone := (hj.same hin).doneA
    have hmode' : ((s.taskInput n 2).tin n (kickIn b)).mode = m := by
      rw [(hact.inputs (kickIn b)).mode, s.modI_tin_ne n (Ne.symm (kickIn_ne b).1), hmode]
    refine ⟨_, (exec_inputCmd (.inl ⟨rfl, rfl⟩)).trans (congrArg Host.Outcome.next (State.taskInputs_undue hb)), hdone, ?_⟩
    rw [exec_kick hm hmode, exec_kick hm hmode', s.taskInputs_drain_first b hd ?_ (by rw [hclk]; exact hdone)]
    unfold TIn.dueNow
    rw [hc, List.any_cons, decide_eq_true h0, decide_eq_true h7]
    rfl
  · intro s n x c a0 l hg ha hm hd hb hcmd h0 hc
    obtain ⟨ldg, r, -, ht, hnone, hsome⟩ := State.taskInput_taken hg ha hm hd h0 hc
    have hx : exec c s = .next (s.taskInput n x) := (exec_inputCmd hcmd).trans (congrArg Host.Outcome.next (State.taskInputs_undue hb))
    have hport : (s.modI n x fun _ => r.1).lch[n].port = s.lch[n].port := by
      rw [State.modI, State.modL_lch, if_pos rfl]
      exact LCh.modI_port _ x _
    have hoth : sameOthers n s (s.modI n x fun _ => r.1) := (AtLog.modL n s _).others
    by_cases hrest : (s.tin n x).waits s.aclk = true ∨ countingOf l = [] ∧ (s.tin n x).heldGen = none
    · obtain ⟨h2, hla, hlg, hac⟩ := ht.rests hrest
      have htin : ({ s.modI n x fun _ => r.1 with ldg } : State).tin n x = r.1 := s.modI_tin n x _
      rw [hnone h2] at hx
      refine ⟨_, hx, rfl, hoth, hport, ?_, ?_, ?_, ?_, fun hw h => ?_, fun hw h => ?_, fun _ => ⟨?_, ?_, ?_, s.modI_que n n x _, rfl, rfl⟩⟩
      all_goals dsimp only
      all_goals rw [htin]
      · exact ht.contrib
      · exact ht.loops
      · exact ht.loop
      · exact ht.merged
      · obtain ⟨g, hg2, -⟩ := ht.applies hw h
        exact absurd (h2.symm.trans hg2) nofun
      · exact ht.holds hw h
      · exact hla
      · exact hlg
      · exact hac
    · obtain ⟨hw, hne⟩ := not_or.mp hrest
      have hwait : (s.tin n x).waits s.aclk = false := Bool.eq_false_of_not_eq_true hw
      have hor : countingOf l ≠ [] ∨ (s.tin n x).heldGen.isSome = true := by
        by_cases h : countingOf l = []
        · exact .inr (Option.isSome_iff_ne_none.mpr fun k => hne ⟨h, k⟩)
        · exact .inl h
      obtain ⟨g, h2, hgen, hla, hhe, hlg, hac, -⟩ := ht.applies hwait hor
      have hact : Activated n { s.modI n x fun _ => r.1 with ldg } _ := .activation _ x g
      have hin := hact.inputs x
      rw [show ({ s.modI n x fun _ => r.1 with ldg } : State).tin n x = r.1 from s.modI_tin n x _] at hin
      rw [hsome g h2] at hx
      refine ⟨_, hx, by rw [hact.state]; rfl, fun m h => (hact.others m h).trans (hoth m h), by rw [hact.chan]; exact hport, ?_, ?_, ?_, ?_, fun _ _ => ?_,
        fun k => absurd k hw, fun k => absurd k hrest⟩
      all_goals rw [hin.1]
      · exact ht.contrib
      · exact ht.loops
      · exact ht.loop
      · exact ht.merged
      · exact ⟨hla, hhe, hlg.trans hgen, hac⟩
  · intro s n x ext c d hg ha hm ht hc hd
    obtain ⟨hz, ho, hq, hi⟩ := State.extIn_parts (s := s) (n := n) ext hg ha hm ht
    exact ⟨_, exec_inputCmd_ext hc hd (by rw [hi]), hz, ho, hq, hi⟩

end Sys2Proof.Machine
end

section
/-! SUPPORT. WRITE_RESPONSE (R335, R350, R352, R354, R355): the write that it answers, and what that does for a descriptor's write, a LOCK_WRITE and a completion record. -/

namespace Sys2Proof.Machine

variable {n : Log} {q : Qn} {s t z : State} {sl : SliceN} {w : Txn} {h : Nat} {err : Bool}

/-! ## The answered write -/

/-- The write `w` is no longer outstanding, and what it blocked is ready (R335, R372). -/
def State.writeAnswered (s : State) (sl : SliceN) (h : Nat) (w : Txn) : State :=
  (({ s with hclk := h } : State).modS sl fun x => { x with lastB := some h }).modS sl fun x => x.unblock { x with out := dropFirst (fun y => y.isEntry w) x.out } h

/-- An error response is counted (R352). -/
def State.errNoted (s : State) (err : Bool) : State := if err then { s with hpt := { s.hpt with herr := satAdd 0xFFFFFFFF s.hpt.herr 1 } } else s

/-- What a response that reaches its write has moved before its owner sees it. -/
structure Answered (sl : SliceN) (h : Nat) (w : Txn) (err : Bool) (s z : State) : Prop where
  state : z = { s with hclk := h, slices := z.slices, hpt := z.hpt }
  out : z.slices[sl].out = dropFirst (fun y => y.isEntry w) s.slices[sl].out
  lock : z.slices[sl].lock = s.slices[sl].lock
  hpt : z.hpt = if err then { s.hpt with herr := min 0xFFFFFFFF (s.hpt.herr + 1) } else s.hpt

theorem State.writeAnswered_slice (s : State) (sl : SliceN) (h : Nat) (w : Txn) :
    (s.writeAnswered sl h w).slices[sl].out = dropFirst (fun y => y.isEntry w) s.slices[sl].out ∧ (s.writeAnswered sl h w).slices[sl].lock = s.slices[sl].lock := by
  unfold State.writeAnswered
  rw [State.modS_slices, if_pos rfl, State.modS_slices, if_pos rfl]
  exact ⟨rfl, rfl⟩

theorem Answered.noted (s : State) (sl : SliceN) (h : Nat) (w : Txn) (err : Bool) : Answered sl h w err s ((s.writeAnswered sl h w).errNoted err) := by
  obtain ⟨h1, h2⟩ := s.writeAnswered_slice sl h w
  cases err with
  | false => exact ⟨rfl, h1, h2, rfl⟩
  | true => exact ⟨rfl, h1, h2, rfl⟩

namespace Answered
variable (k : Answered sl h w err s z)
include k

theorem lch : z.lch = s.lch := by rw [k.state]
theorem phys : z.phys = s.phys := by rw [k.state]
theorem linkOut : z.linkOut = s.linkOut := by rw [k.state]
theorem aclk : z.aclk = s.aclk := by rw [k.state]
theorem tap : z.tap = s.tap := by rw [k.state]
theorem que (n : Log) (q : Qn) : z.que n q = s.que n q := State.que_congr k.lch n q
theorem herr : z.hpt.herr = if err then min 0xFFFFFFFF (s.hpt.herr + 1) else s.hpt.herr := by
  rw [k.hpt]
  split <;> rfl

/-- An update of one queue behind the response is one of what stood before. -/
theorem parts {f : Que → Que} (ht : t.lch = (z.modQ n q f).lch) : t.que n q = f (s.que n q) ∧ sameOthers n s t ∧ sameSiblings n q s t := by
  refine State.parts_of_modQ (ht.trans ?_)
  unfold State.modQ State.modL
  rw [k.lch]

end Answered

section
variable {tag : BitVec 20} {resp : BitVec 2} {o : Option Txn} (hp : s.pinsAt h = true) (hb : s.slices[sl].lastB ≠ some h)

/-- The write that a response names (R337). -/
theorem named_write (hn : named s sl true tag = o) : s.slices[sl].out.find? (fun t => t.kind.isWrite && t.hpTag == tag.toNat) = o := by
  rw [← hn]
  unfold named
  congr 1
  funext t
  rw [beq_true]

include hp hb

/-- A response that no outstanding write awaits (R355). -/
theorem exec_writeResponse_stray (hn : named s sl true tag = none) : exec (.writeResponse sl tag resp h) s =
    .next { (s.modS sl fun x => { x with lastB := some h }) with hclk := h, hpt := { s.hpt with stray := min 0xFFFFFFFF (s.hpt.stray + 1) } } := by
  refine congrArg Host.Outcome.next ((s.atPins_on h _ hp).trans ?_)
  dsimp only
  rw [if_neg (by simpa using hb), State.modS_slices, if_pos rfl]
  dsimp only
  rw [named_write hn]
  rfl

theorem exec_writeResponse_stale (hn : named s sl true tag = some w) (hi : s.inc w.log ≠ w.inc) : exec (.writeResponse sl tag resp h) s =
    .next (((s.writeAnswered sl h w).fenced w).drainStep w.log) := by
  refine congrArg Host.Outcome.next ((s.atPins_on h _ hp).trans ?_)
  dsimp only
  rw [if_neg (by simpa using hb), State.modS_slices, if_pos rfl]
  dsimp only
  rw [named_write hn]
  exact if_pos hi

theorem exec_writeResponse (hn : named s sl true tag = some w) (hi : s.inc w.log = w.inc) : exec (.writeResponse sl tag resp h) s =
    .next (((s.writeAnswered sl h w).errNoted (decide (resp ≠ 0))).writeDone sl w (decide (resp ≠ 0))) := by
  refine congrArg Host.Outcome.next ((s.atPins_on h _ hp).trans ?_)
  dsimp only
  rw [if_neg (by simpa using hb), State.modS_slices, if_pos rfl]
  dsimp only
  rw [named_write hn]
  refine (if_neg (not_not_intro hi)).trans ?_
  unfold State.errNoted
  simp only [decide_eq_true_eq]
  rfl

end

/-! ## A stale response -/

theorem State.modL_qs (s : State) (n : Log) {f : LCh → LCh} (hf : ∀ l, (f l).qs = l.qs) (m : Log) : (s.modL n f).lch[m].qs = s.lch[m].qs := by
  rw [State.modL_lch]
  split
  · next e => rw [hf, e]
  · rfl

/-- What a discarded response leaves (R354, R356). -/
theorem State.drainStep_parts (s : State) (n : Log) : (∀ m : Log, (s.drainStep n).lch[m].qs = s.lch[m].qs)
    ∧ s.drainStep n = { s with lch := (s.drainStep n).lch, ldg := (s.drainStep n).ldg } := by
  unfold State.drainStep
  split
  · obtain ⟨ldg, he⟩ := s.endDrain_eq n
    rw [he]
    refine ⟨?_, rfl⟩
    exact s.modL_qs n (f := fun l => { l with fdrain := [], fleft := 0 }) fun _ => rfl
  · refine ⟨?_, rfl⟩
    exact s.modL_qs n (f := fun l => { l with fleft := l.fleft - 1 }) fun _ => rfl

/-! ## A write of a descriptor -/

theorem updAt_getElem? {α : Type} (f : α → α) (l : List α) (k : Nat) : (updAt k f l)[k]? = l[k]?.map f := by
  induction l generalizing k with
  | nil => rw [updAt, List.getElem?_nil, Option.map_none]
  | cons a l ih => cases k with
    | zero => rfl
    | succ k => exact ih k

theorem Flt.min_isSome (o : Option Flt) (f : Flt) : (Flt.min o f).isSome = true := by
  cases o with
  | none => rfl
  | some g =>
    unfold Flt.min
    dsimp only
    split <;> rfl

/-- The descriptor's note of a response that comes late (R422). -/
def Acc.noteLate (a : Acc) (late : Bool) : Acc := { a with hostLate := a.hostLate || late }

/-- The entry whose write `k` has its outcome (R350). -/
def Acc.settleWrite (a : Acc) (k : Nat) (err psn : Bool) : Acc :=
  { a with x := { a.x with writes := updAt k (fun w => { w with st := if err then .err else .ok }) a.x.writes, psnSeen := a.x.psnSeen || psn } }

/-- An error of a write is its descriptor's fault, a vector group's aside (R352). -/
def Acc.wrote (a : Acc) (k : Nat) (err psn : Bool) (bed : Option Bed) : Acc :=
  let a := a.settleWrite k err psn
  if !err || a.d.isVec then a
  else match a.x.writes[k]? with
    | some w => a.outFault bed ⟨w.lo, 2, 0⟩
    | none => a

section
variable {a : Acc} {k : Nat} {x : WTx} (ha : a.x.writes[k]? = some x) (err psn : Bool) (bed : Option Bed)
include ha

theorem Acc.settleWrite_get : (a.settleWrite k err psn).x.writes[k]? = some { x with st := if err then .err else .ok } := by
  refine (updAt_getElem? _ _ _).trans ?_
  rw [ha]
  rfl

theorem Acc.wrote_facts : let b := a.wrote k err psn bed
    b.id = a.id ∧ b.x.writes[k]? = some { x with st := if err then .err else .ok } ∧ (err = true → a.d.isVec = false → b.x.flt.isSome = true)
      ∧ (err = false → b.x.flt = a.x.flt) := by
  have hx := a.settleWrite_get ha err psn
  by_cases hc : (!err || (a.settleWrite k err psn).d.isVec) = true
  · have e : a.wrote k err psn bed = a.settleWrite k err psn := if_pos hc
    rw [e]
    refine ⟨rfl, hx, fun he hv => ?_, fun _ => rfl⟩
    rw [show (a.settleWrite k err psn).d.isVec = false from hv, he] at hc
    cases hc
  · have e : a.wrote k err psn bed = (a.settleWrite k err psn).outFault bed ⟨x.lo, 2, 0⟩ := (if_neg hc).trans (by rw [hx])
    rw [e]
    refine ⟨rfl, hx, fun _ _ => Flt.min_isSome _ _, fun he => ?_⟩
    rw [he] at hc
    exact absurd rfl hc

end

section
variable {id k : Nat} {a : Acc} (hown : w.own = .wr id k)
include hown

theorem State.writeDone_write (hkind : w.kind = .write) (z : State) : z.writeDone sl w err =
    ((z.modQ w.log w.q fun u => (u.modA id fun a => a.noteLate (z.late w)).modA id fun a =>
      a.wrote k err (w.cells.any Cell.psn) z.lch[w.log].bed)).flow w.log w.q := by
  have hbed : (z.modA w.log w.q id fun a => a.noteLate (z.late w)).lch[w.log].bed = z.lch[w.log].bed := by
    rw [State.modA, State.modQ, State.modL_lch, if_pos rfl]
    rfl
  have e : z.writeDone sl w err = ((z.modA w.log w.q id fun a => a.noteLate (z.late w)).modA w.log w.q id fun a =>
      a.wrote k err (w.cells.any Cell.psn) (z.modA w.log w.q id fun a => a.noteLate (z.late w)).lch[w.log].bed).flow w.log w.q := by
    unfold State.writeDone
    dsimp only
    rw [hown, hkind]
    dsimp only
    rw [if_neg (by decide)]
    exact congrArg (State.flow · w.log w.q) rfl
  rw [e, hbed]
  exact congrArg (State.flow · w.log w.q) (State.modQ_modQ ..)

/-- The descriptor's note of a late response, and the slice's lock that its LOCK_WRITE gives back (R359, R422). -/
def State.unlocked (z : State) (sl : SliceN) (w : Txn) (id : Nat) : State :=
  let s := z.modA w.log w.q id fun a => a.noteLate (z.late w)
  if s.slices[sl].lock.ownedBy w then s.lockFree sl else s

omit hown in
theorem State.unlocked_acc (ha : z.acc w.log w.q id = some a) (sl : SliceN) : (z.unlocked sl w id).acc w.log w.q id = some (a.noteLate (z.late w)) := by
  have h : (z.modA w.log w.q id fun a => a.noteLate (z.late w)).acc w.log w.q id = some (a.noteLate (z.late w)) := by
    refine (z.modA_acc w.log w.q id (fun a => a.noteLate (z.late w)) fun _ h => h).trans ?_
    rw [ha]
    rfl
  unfold State.unlocked
  dsimp only
  split
  · exact h
  · exact h

theorem State.writeDone_lockWrite (hkind : w.kind = .lockWrite) (z : State) : z.writeDone sl w err = (z.unlocked sl w id).lockEnd w (if err then .err else .ok) := by
  unfold State.writeDone State.unlocked
  dsimp only
  rw [hown, hkind]
  rfl

/-- The LOCK_WRITE of a LOCKED (R462). -/
theorem State.lockEnd_locked (ha : s.acc w.log w.q id = some a) (hop : a.d.op ≠ 0x28) (r : LwRsp) :
    s.lockEnd w r = (s.lockedWritten w.log w.phys w.q id r).flow w.log w.q := by
  unfold State.lockEnd
  rw [hown]
  dsimp only
  rw [ha, Option.any_some, if_neg (by simpa using hop)]

/-- The LOCK_WRITE of a take (R269). -/
theorem State.lockEnd_take (ha : s.acc w.log w.q id = some a) (hop : a.d.op = 0x28) (r : LwRsp) :
    s.lockEnd w r = (s.takeWritten w.log w.phys w.q id r).flow w.log w.q := by
  unfold State.lockEnd
  rw [hown]
  dsimp only
  rw [ha, Option.any_some, if_pos (by simpa using hop)]

end

/-! ## A LOCK_WRITE -/

theorem State.unlocked_frame (z : State) (sl : SliceN) (w : Txn) (id : Nat) : z.unlocked sl w id =
    { z.modA w.log w.q id (fun a => a.noteLate (z.late w)) with slices := (z.unlocked sl w id).slices } := by
  unfold State.unlocked
  dsimp only
  split <;> rfl

theorem State.unlocked_lch (z : State) (sl : SliceN) (w : Txn) (id : Nat) : (z.unlocked sl w id).lch =
    (z.modQ w.log w.q fun u => u.modA id fun a => a.noteLate (z.late w)).lch := by
  rw [State.unlocked_frame]
  rfl

/-- The lock that the response's owner holds is free (R359). -/
theorem State.unlocked_slice (z : State) (sl : SliceN) (w : Txn) (id : Nat) (h : z.slices[sl].lock.ownedBy w = true) : (z.unlocked sl w id).slices[sl].lock.held = false := by
  refine (congrArg (fun s : State => s.slices[sl].lock.held) (if_pos h)).trans ?_
  unfold State.lockFree
  rw [State.modS_slices, if_pos rfl]

section
variable {p : Phys} {id : Nat} {a : Acc} {b : Bed} {x : Take} {k : TkOut} {r : LwRsp}

/-- The word before a LOCKED (R462). -/
def Acc.oldWord (a : Acc) : Nat := match a.x.lockWord with
  | some w => lockedOld a w
  | none => 0

/-- The outcome of a LOCKED whose word was `old` (R462). -/
def LwRsp.settled (r : LwRsp) (old : Nat) : Lk := match r with
  | .ok => .written old
  | .lost => .lost old
  | .err => .errWrite old

/-- The LOCKED has its outcome, and its channel no longer holds a lock (R462). -/
theorem State.lockedWritten_eq (s : State) (n : Log) (p : Phys) (q : Qn) (id : Nat) (r : LwRsp) : s.lockedWritten n p q id r =
    (s.modP p fun c => { c with locked := none }).modA n q id fun a => { a with lk := r.settled a.oldWord } := rfl

theorem State.lockedWritten_acc (ha : s.acc n q id = some a) (r : LwRsp) : (s.lockedWritten n p q id r).acc n q id = some { a with lk := r.settled a.oldWord } := by
  rw [State.lockedWritten_eq]
  refine (State.modA_acc _ n q id (fun a => { a with lk := r.settled a.oldWord }) fun _ h => h).trans ?_
  rw [show (s.modP p fun c => { c with locked := none }).acc n q id = some a from ha]
  rfl

/-- The newest take of the bed set `b` has outcome `k`; of the logical channels only `n` has changed, and of its queues `q`. -/
structure TakeEnded (n : Log) (q : Qn) (b : Bed) (k : TkOut) (s t : State) : Prop where
  state : t = { s with lch := t.lch, ldg := t.ldg }
  others : sameOthers n s t
  siblings : sameSiblings n q s t
  bed : t.lch[n].bed = some (b.lastTake k)

theorem TakeEnded.settle (hb : s.lch[n].bed = some b) (k : TkOut) (f : Acc → Acc) : TakeEnded n q b k s ((s.modBed n fun b => b.lastTake k).modA n q id f) := by
  have hs : sameSiblings n q s (s.modBed n fun b => b.lastTake k) := by
    unfold State.modBed
    refine ⟨fun r _ => s.modL_que_kept n (fun l => { l with bed := l.bed.map fun b => b.lastTake k }) (fun _ => rfl) n r, ?_, ?_⟩
    · rw [State.modL_lch, if_pos rfl]
    · rw [State.modL_lch, if_pos rfl]
  refine ⟨rfl, ((AtLog.modL n s _).trans (.modQ n q _ _)).others, hs.modQ _, ?_⟩
  unfold State.modA State.modQ State.modBed
  rw [State.modL_lch, if_pos rfl, State.modL_lch, if_pos rfl]
  exact congrArg (Option.map fun b : Bed => b.lastTake k) hb

/-- A take whose chunks are lost is posted and ends unknown (R288, R297). -/
theorem TakeEnded.leak (hb : s.lch[n].bed = some b) (x : Take) (f : Acc → Acc) :
    TakeEnded n q b .unknown s (((s.leak n x).modBed n fun b => b.lastTake .unknown).modA n q id f) := by
  obtain ⟨l, hl⟩ : ∃ l, s.leak n x = { s with ldg := l } := ⟨_, State.postCont_frame ..⟩
  rw [hl]
  obtain ⟨h1, h2, h3, h4⟩ := TakeEnded.settle (q := q) (id := id) (s := { s with ldg := l }) hb .unknown f
  exact ⟨by rw [h1], h2, h3, h4⟩

/-- What the response of a take's LOCK_WRITE makes of the take (R269, R288). -/
theorem State.takeWritten_ended (hb : s.lch[n].bed = some b) (hx : b.takes.getLast? = some x) (err : Bool) :
    TakeEnded n q b (if err = true ∨ (x.ids.any fun i => i ≥ b.pchunks || i ≥ 2 ^ 23) = true then .unknown else .taken) (s.modP p fun c => { c with locked := none })
      (s.takeWritten n p q id (if err then .err else .ok)) := by
  have hb : (s.modP p fun c => { c with locked := none }).lch[n].bed = some b := hb
  unfold State.takeWritten
  generalize (s.modP p fun c => { c with locked := none }) = u at hb ⊢
  have hbed : u.bedOf n = b := by
    unfold State.bedOf
    rw [hb]
    rfl
  dsimp only
  rw [hbed, hx]
  dsimp only
  cases err with
  | true =>
    rw [if_pos (Or.inl rfl)]
    exact .leak hb x _
  | false =>
    by_cases hi : (x.ids.any fun i => i ≥ b.pchunks || i ≥ 2 ^ 23) = true
    · rw [if_pos (Or.inr hi)]
      exact (congrArg (TakeEnded n q b .unknown _) (if_pos hi)).mpr (.leak hb x _)
    · rw [if_neg (by simpa using hi)]
      exact (congrArg (TakeEnded n q b .taken _) (if_neg hi)).mpr (.settle hb .taken _)

theorem Bed.lastTake_takes (hx : b.takes.getLast? = some x) (k : TkOut) : (b.lastTake k).takes = b.takes.dropLast ++ [{ x with out := k }] := by
  obtain ⟨l, hl⟩ := List.getLast?_eq_some_iff.mp hx
  unfold Bed.lastTake
  dsimp only
  rw [hl, List.reverse_concat, List.dropLast_concat]
  dsimp only
  rw [List.reverse_cons, List.reverse_reverse]

end

end Sys2Proof.Machine
end

section
/-! SUPPORT. Completion records that are visible (R69, R136, R246, R431, R485): what the oldest raises, and where the queue of records stops. -/

namespace Sys2Proof.Machine

variable {n : Log} {q : Qn} {p : Phys} {s t z : State} {r : Rec} {rs : List Rec} {k : Nat}

/-- The record `r` leaves with what it owes (R136, R431). -/
def State.raised (s : State) (n : Log) (q : Qn) (r : Rec) (rs : List Rec) : State :=
  s.modL n fun l =>
    let put (b : Bool) (e : Fin 4) (o : Vector (List Evt) 4) : Vector (List Evt) 4 := if b then o.set e (insertEvt ⟨r.dg, s.aclk, r.ord⟩ o[e]) else o
    { (l.modQ q fun u => { u with recs := rs }) with outs := put r.done 0 (put r.fault 1 (put r.group 2 l.outs)) }

/-- The record `r` leaves, and is acknowledged (R69). -/
def State.raisedAcked (s : State) (n : Log) (q : Qn) (r : Rec) (rs : List Rec) : State :=
  if r.ack then (s.raised n q r rs).send n (.ack q r.seq 1) else s.raised n q r rs

/-! ## Where the queue of records stops -/

/-- The oldest record is not visible, or has no room for what it owes (R136, R431). -/
def State.recsWait (s : State) (n : Log) (q : Qn) : Prop := ∀ r ∈ (s.que n q).recs.head?, r.seen = false ∨ s.lch[n].roomFor r = false

theorem seenRecs_waits (h : s.recsWait n q) (k : Nat) : seenRecs n q k s = s := by
  cases k with
  | zero => rfl
  | succ k =>
    unfold seenRecs
    unfold State.recsWait at h
    split
    · next r rs hr =>
      refine if_pos ?_
      rcases h r (by rw [hr]; rfl) with h | h
      · rw [h]
        rfl
      · rw [h, Bool.not_false, Bool.or_true]
    · rfl

theorem seenRecs_raises (hr : (s.que n q).recs = r :: rs) (hs : r.seen = true) (hroom : s.lch[n].roomFor r = true) (k : Nat) :
    seenRecs n q (k + 1) s = seenRecs n q k (s.raisedAcked n q r rs) := by
  rw [seenRecs, hr]
  dsimp only
  rw [hs, hroom, if_neg (by decide)]
  rfl

theorem State.raised_que (s : State) (n : Log) (q : Qn) (r : Rec) (rs : List Rec) : (s.raised n q r rs).que n q = { s.que n q with recs := rs } := by
  unfold State.raised State.que
  rw [State.modL_lch, if_pos rfl]
  exact Vector.getElem_set_self _

theorem State.raisedAcked_lch (s : State) (n : Log) (q : Qn) (r : Rec) (rs : List Rec) : (s.raisedAcked n q r rs).lch = (s.raised n q r rs).lch := by
  unfold State.raisedAcked
  split
  · rw [State.send_lch]
  · rfl

/-- The oldest record is visible and those behind it are not: it alone raises what it owes. -/
theorem State.seeRecs_head (hr : (s.que n q).recs = r :: rs) (hs : r.seen = true) (hroom : s.lch[n].roomFor r = true) (hrs : ∀ y ∈ rs, y.seen = false) :
    s.seeRecs n q = s.raisedAcked n q r rs := by
  unfold State.seeRecs
  rw [hr]
  refine (seenRecs_raises hr hs hroom _).trans (seenRecs_waits ?_ _)
  intro y hy
  rw [State.que_congr (s.raisedAcked_lch n q r rs), State.raised_que] at hy
  exact .inl (hrs y (List.mem_of_mem_head? hy))

/-! ## What a record raises -/

theorem State.raised_outs (s : State) (n : Log) (q : Qn) (r : Rec) (rs : List Rec) : let put (b : Bool) (l : List Evt) : List Evt := if b then insertEvt ⟨r.dg, s.aclk, r.ord⟩ l else l
    (s.raised n q r rs).lch[n].outs[0] = put r.done s.lch[n].outs[0] ∧ (s.raised n q r rs).lch[n].outs[1] = put r.fault s.lch[n].outs[1]
      ∧ (s.raised n q r rs).lch[n].outs[2] = put r.group s.lch[n].outs[2] := by
  unfold State.raised
  rw [State.modL_lch, if_pos rfl]
  cases r.done <;> cases r.fault <;> cases r.group <;> simp

/-- What a record that has left leaves as it was. -/
structure RecsOnly (n : Log) (q : Qn) (s t : State) : Prop where
  state : t = { s with lch := t.lch, linkOut := t.linkOut }
  others : sameOthers n s t
  siblings : sameSiblings n q s t

theorem State.raised_only (s : State) (n : Log) (q : Qn) (r : Rec) (rs : List Rec) : RecsOnly n q s (s.raised n q r rs) := by
  refine ⟨rfl, (AtLog.modL n s _).others, fun x hx => ?_, ?_, ?_⟩
  · unfold State.raised State.que
    rw [State.modL_lch, if_pos rfl]
    exact Vector.getElem_set_ne q.isLt x.isLt fun h => hx (Fin.ext h).symm
  · unfold State.raised
    rw [State.modL_lch, if_pos rfl]
    rfl
  · unfold State.raised
    rw [State.modL_lch, if_pos rfl]
    rfl

theorem State.raisedAcked_only (s : State) (n : Log) (q : Qn) (r : Rec) (rs : List Rec) : RecsOnly n q s (s.raisedAcked n q r rs) := by
  obtain ⟨h1, h2, h3⟩ := s.raised_only n q r rs
  have hl := s.raisedAcked_lch n q r rs
  refine ⟨?_, fun m hm => by rw [hl]; exact h2 m hm, fun x hx => (State.que_congr hl n x).trans (h3.1 x hx), by rw [hl]; exact h3.2.1, by rw [hl]; exact h3.2.2⟩
  unfold State.raisedAcked
  split
  · unfold State.send
    split <;> rfl
  · rfl

theorem State.raisedAcked_linkOut (hd : s.tap.drives = false) (n : Log) (q : Qn) (r : Rec) (rs : List Rec) :
    (s.raisedAcked n q r rs).linkOut = if r.ack then s.linkOut ++ [(n, .ack q r.seq 1)] else s.linkOut := by
  unfold State.raisedAcked
  split
  · exact State.send_pins _ n _ hd
  · rfl

/-! ## The records behind a response -/

/-- The queue's records are `l`; nothing else of the logical channels has moved, nor what a raise reads or the link's output. -/
structure RecsAre (n : Log) (q : Qn) (l : List Rec) (s z : State) : Prop where
  lch : z.lch = (s.modQ n q fun u => { u with recs := l }).lch
  aclk : z.aclk = s.aclk
  tap : z.tap = s.tap
  linkOut : z.linkOut = s.linkOut

namespace RecsAre
variable {l : List Rec} (hk : RecsAre n q l s z)
include hk

theorem recs : (z.que n q).recs = l := by rw [(State.parts_of_modQ hk.lch).1]

theorem outs : z.lch[n].outs = s.lch[n].outs := by
  rw [hk.lch, State.modQ, State.modL_lch, if_pos rfl]
  rfl

theorem roomFor (r : Rec) : z.lch[n].roomFor r = s.lch[n].roomFor r := by
  unfold LCh.roomFor
  rw [hk.outs]

/-- Nothing is raised while the oldest record is not visible or has no room (R136, R431). -/
theorem waits (h : ∀ r ∈ l.head?, r.seen = false ∨ s.lch[n].roomFor r = false) : z.seeRecs n q = z := by
  refine seenRecs_waits (fun r hr => ?_) _
  rw [hk.recs] at hr
  rw [hk.roomFor]
  exact h r hr

end RecsAre

section
variable (hk : RecsAre n q (r :: rs) s z) (hs : r.seen = true) (hroom : s.lch[n].roomFor r = true) (hrs : ∀ y ∈ rs, y.seen = false)
include hk hs hroom hrs

theorem RecsAre.seeRecs : z.seeRecs n q = z.raisedAcked n q r rs := State.seeRecs_head hk.recs hs (by rw [hk.roomFor, hroom]) hrs

/-- The oldest record is visible and raises what it owes (R69, R136, R431). -/
theorem RecsAre.raises (hd : s.tap.drives = false) :
    let put (b : Bool) (l : List Evt) : List Evt := if b then insertEvt ⟨r.dg, s.aclk, r.ord⟩ l else l
    let t := z.seeRecs n q
    (t.que n q).recs = rs ∧ t.lch[n].outs[0] = put r.done s.lch[n].outs[0] ∧ t.lch[n].outs[1] = put r.fault s.lch[n].outs[1]
      ∧ t.lch[n].outs[2] = put r.group s.lch[n].outs[2] ∧ t.linkOut = (if r.ack then s.linkOut ++ [(n, .ack q r.seq 1)] else s.linkOut)
      ∧ t = { z with lch := t.lch, linkOut := t.linkOut } ∧ sameOthers n s t ∧ sameSiblings n q s t := by
  obtain ⟨-, ho, hq⟩ := State.parts_of_modQ hk.lch
  obtain ⟨hst, ho', hq'⟩ := z.raisedAcked_only n q r rs
  obtain ⟨h0, h1, h2⟩ := z.raised_outs n q r rs
  have hl := z.raisedAcked_lch n q r rs
  have hlink := State.raisedAcked_linkOut (s := z) (by rw [hk.tap, hd]) n q r rs
  rw [hk.seeRecs hs hroom hrs]
  rw [hk.outs, hk.aclk, ← hl] at h0 h1 h2
  rw [hk.linkOut] at hlink
  refine ⟨?_, h0, h1, h2, hlink, hst, fun m hm => (ho' m hm).trans (ho m hm), hq.trans hq'⟩
  rw [State.que_congr hl, State.raised_que]

end

/-! ## The response of a record's write -/

theorem updFirst_split {α : Type} (p : α → Bool) (f : α → α) {l : List α} (h : ∀ x ∈ l, p x = false) (y : α) (hy : p y = true) (m : List α) :
    updFirst p f (l ++ y :: m) = l ++ f y :: m := by
  induction l with
  | nil => exact if_pos hy
  | cons x l ih =>
    refine (if_neg (by rw [h x (List.mem_cons_self ..)]; exact Bool.false_ne_true)).trans ?_
    exact congrArg (x :: ·) (ih fun z hz => h z (List.mem_cons_of_mem _ hz))

/-- The record numbered `k` is visible (R350). -/
def Que.sees (u : Que) (k : Nat) : Que := { u with recs := updFirst (fun r => r.n == k) (fun r => { r with seen := true }) u.recs }

/-- A record whose write failed counts as visible, and owes FAULT in place of DONE (R485). -/
def Rec.failed (r : Rec) : Rec := { r with posted := true, seen := true, done := false, fault := true }

section
variable {sl : SliceN} {w : Txn} (hown : w.own = .rcd k)
include hown

theorem State.writeDone_seen (z : State) : z.writeDone sl w false = (z.modQ w.log w.q fun u => u.sees k).seeRecs w.log w.q := by
  unfold State.writeDone
  dsimp only
  rw [hown]
  rfl

theorem State.writeDone_failed (z : State) : z.writeDone sl w true = (z.cringFail w.log w.phys w.q k).seeRecs w.log w.q := by
  unfold State.writeDone
  dsimp only
  rw [hown]
  rfl

end

theorem State.sees_recs {l : List Rec} (s : State) (h : updFirst (fun r => r.n == k) (fun r => { r with seen := true }) (s.que n q).recs = l) :
    RecsAre n q l s (s.modQ n q fun u => u.sees k) := by
  refine ⟨congrArg State.lch (s.modQ_eq n q ?_), rfl, rfl, rfl⟩
  unfold Que.sees
  rw [h]

/-- The failed write of the oldest record is counted and posted (R485). -/
theorem State.cringFail_head (hr : (s.que n q).recs = r :: rs) (p : Phys) : RecsAre n q (r.failed :: rs) s (s.cringFail n p q r.n)
    ∧ s.cringFail n p q r.n = { s.modC p (fun c => { c with cringFails := min 0xFFFF (c.cringFails + 1) }) with
        lch := (s.cringFail n p q r.n).lch, ldg := (s.cringFail n p q r.n).ldg } := by
  have hf : (s.que n q).recs.find? (fun x => x.n == r.n) = some r := by
    rw [hr]
    exact List.find?_cons_of_pos (beq_self_eq_true _)
  have hu : s.modQ n q (fun u => { u with recs := updFirst (fun x => x.n == r.n) (fun r => { r with posted := true, seen := true, done := false, fault := true }) u.recs })
      = s.modQ n q fun u => { u with recs := r.failed :: rs } := by
    refine s.modQ_eq n q ?_
    rw [hr, updFirst, if_pos (beq_self_eq_true _)]
    rfl
  unfold State.cringFail
  rw [hf]
  dsimp only
  rw [hu, State.post_frame]
  exact ⟨⟨rfl, rfl, rfl, rfl⟩, rfl⟩

end Sys2Proof.Machine
end

section
/-! SUPPORT. What a response that reaches its write settles (R269, R350, R352, R359, R462, R485): a descriptor's write, the LOCK_WRITE of a LOCKED or of a take, and a completion record. -/

namespace Sys2Proof.Machine

variable {s t z : State} {sl : SliceN} {w : Txn} {h : Nat} {err : Bool}

theorem Acc.wrote_id (a : Acc) (k : Nat) (err psn : Bool) (bed : Option Bed) : (a.wrote k err psn bed).id = a.id := by
  unfold Acc.wrote
  dsimp only
  split
  · rfl
  · split <;> rfl

namespace Answered
variable (k : Answered sl h w err s z)
include k

theorem acc (n : Log) (q : Qn) (id : Nat) : z.acc n q id = s.acc n q id := by
  unfold State.acc
  rw [k.que]

theorem bed (n : Log) : z.lch[n].bed = s.lch[n].bed := by rw [k.lch]

/-- Channels that differ at `p` from those behind the response differ there alone from those before it. -/
theorem samePhys {p : Phys} {f : PCh → PCh} (ht : t.phys = (z.modP p f).phys) : samePhys p s t ∧ t.phys[p] = f s.phys[p] := by
  refine ⟨fun r hr => ?_, ?_⟩
  · rw [ht, State.modP_phys, if_neg (Ne.symm hr), k.phys]
  · rw [ht, State.modP_phys, if_pos rfl, k.phys]

/-- A write of a descriptor has its outcome, and an error is the descriptor's fault (R350, R352). -/
theorem write {id j : Nat} {a : Acc} {x : WTx} (hown : w.own = .wr id j) (hkind : w.kind = .write) (ha : s.acc w.log w.q id = some a) (hx : a.x.writes[j]? = some x) :
    ∃ v, z.writeDone sl w err = v.flow w.log w.q ∧ v.slices[sl].out = dropFirst (fun y => y.isEntry w) s.slices[sl].out
      ∧ (∃ b, v.acc w.log w.q id = some b ∧ b.x.writes[j]? = some { x with st := if err then .err else .ok }
          ∧ (err = true → a.d.isVec = false → b.x.flt.isSome = true) ∧ (err = false → b.x.flt = a.x.flt))
      ∧ v.hpt.herr = (if err then min 0xFFFFFFFF (s.hpt.herr + 1) else s.hpt.herr) ∧ v.phys = s.phys ∧ sameOthers w.log s v ∧ sameSiblings w.log w.q s v := by
  refine ⟨_, State.writeDone_write hown hkind z, k.out, ?_, k.herr, k.phys, (k.parts rfl).2⟩
  obtain ⟨-, hw, he, hk⟩ := Acc.wrote_facts (a := a.noteLate (z.late w)) hx err (w.cells.any Cell.psn) z.lch[w.log].bed
  refine ⟨_, ?_, hw, he, hk⟩
  refine (congrArg (fun s : State => s.acc w.log w.q id) (z.modQ_modQ w.log w.q (fun u => u.modA id fun a => a.noteLate (z.late w))
    fun u => u.modA id fun a => a.wrote j err (w.cells.any Cell.psn) z.lch[w.log].bed).symm).trans ?_
  refine (State.modA_acc (z.modA w.log w.q id fun a => a.noteLate (z.late w)) w.log w.q id
    (fun a => a.wrote j err (w.cells.any Cell.psn) z.lch[w.log].bed) fun a ha => (a.wrote_id ..).trans ha).trans ?_
  rw [z.modA_acc w.log w.q id (fun a => a.noteLate (z.late w)) fun _ h => h, k.acc, ha]
  rfl

section
variable {id j : Nat} {a : Acc} (hown : w.own = .wr id j) (hkind : w.kind = .lockWrite) (ha : s.acc w.log w.q id = some a)
include hown hkind ha

/-- The LOCK_WRITE of a LOCKED frees the slice's lock and gives the descriptor its outcome (R359, R462). -/
theorem locked (hop : a.d.op ≠ 0x28) (hlock : s.slices[sl].lock.ownedBy w = true) :
    ∃ v, z.writeDone sl w err = v.flow w.log w.q ∧ v.slices[sl].lock.held = false ∧ v.phys[w.phys].locked = none
      ∧ (∃ b o, v.acc w.log w.q id = some b ∧ b.lk = (if err then .errWrite o else .written o))
      ∧ v.hpt.herr = (if err then min 0xFFFFFFFF (s.hpt.herr + 1) else s.hpt.herr) ∧ Machine.samePhys w.phys s v ∧ sameOthers w.log s v ∧ sameSiblings w.log w.q s v := by
  have hu := State.unlocked_acc ((k.acc ..).trans ha) sl
  refine ⟨_, (State.writeDone_lockWrite hown hkind z).trans (State.lockEnd_locked hown hu hop _), ?_⟩
  have hfr := z.unlocked_frame sl w id
  have hl := z.unlocked_lch sl w id
  have hs := z.unlocked_slice sl w id (by rw [k.lock, hlock])
  generalize z.unlocked sl w id = u at hu hfr hl hs ⊢
  obtain ⟨hp, hpl⟩ := k.samePhys (p := w.phys) (t := u.lockedWritten w.log w.phys w.q id (if err then .err else .ok)) (f := fun c => { c with locked := none }) (by rw [hfr]; rfl)
  have hh : u.hpt = z.hpt := by rw [hfr]; rfl
  refine ⟨hs, by rw [hpl], ⟨_, (a.noteLate (z.late w)).oldWord, State.lockedWritten_acc hu _, ?_⟩, (congrArg Hpt.herr hh).trans k.herr, hp, ?_⟩
  · cases err <;> rfl
  · obtain ⟨-, ho, hq⟩ := k.parts hl
    rw [State.lockedWritten_eq]
    exact ⟨sameOthers.modQ (v := u.modP w.phys fun c => { c with locked := none }) ho _, sameSiblings.modQ (v := u.modP w.phys fun c => { c with locked := none }) hq _⟩

/-- The LOCK_WRITE of a take frees the slice's lock and gives the newest take its outcome (R269, R288, R359). -/
theorem take {b : Bed} {x : Take} (hop : a.d.op = 0x28) (hb : s.lch[w.log].bed = some b) (hx : b.takes.getLast? = some x) :
    ∃ v, z.writeDone sl w err = v.flow w.log w.q ∧ v.phys[w.phys].locked = none ∧ (s.slices[sl].lock.ownedBy w = true → v.slices[sl].lock.held = false)
      ∧ v.lch[w.log].bed.map Bed.takes = some (b.takes.dropLast ++ [{ x with out :=
          if err = true ∨ (x.ids.any fun i => i ≥ b.pchunks || i ≥ 2 ^ 23) = true then .unknown else .taken }])
      ∧ v.hpt.herr = (if err then min 0xFFFFFFFF (s.hpt.herr + 1) else s.hpt.herr) ∧ Machine.samePhys w.phys s v ∧ sameOthers w.log s v ∧ sameSiblings w.log w.q s v := by
  have hu := State.unlocked_acc ((k.acc ..).trans ha) sl
  refine ⟨_, (State.writeDone_lockWrite hown hkind z).trans (State.lockEnd_take hown hu hop _), ?_⟩
  have hfr := z.unlocked_frame sl w id
  have hl := z.unlocked_lch sl w id
  have hs : s.slices[sl].lock.ownedBy w = true → (z.unlocked sl w id).slices[sl].lock.held = false := fun hlock => z.unlocked_slice sl w id (by rw [k.lock, hlock])
  generalize z.unlocked sl w id = u at hu hfr hl hs ⊢
  obtain ⟨-, ho, hq⟩ := k.parts hl
  have hbu : u.lch[w.log].bed = some b := by
    rw [hl, State.modQ, State.modL_lch, if_pos rfl]
    exact (k.bed w.log).trans hb
  obtain ⟨hst, ho', hq', hbed⟩ := State.takeWritten_ended (p := w.phys) (q := w.q) (id := id) hbu hx err
  generalize u.takeWritten w.log w.phys w.q id (if err then .err else .ok) = v at hst ho' hq' hbed ⊢
  obtain ⟨hp, hpl⟩ := k.samePhys (p := w.phys) (t := v) (f := fun c => { c with locked := none }) (by rw [hst, hfr]; rfl)
  have hh : v.hpt = z.hpt := by rw [hst, hfr]; rfl
  have hsl : v.slices = u.slices := by rw [hst]; rfl
  refine ⟨by rw [hpl], fun hlock => by rw [hsl]; exact hs hlock, ?_, (congrArg Hpt.herr hh).trans k.herr, hp, fun m hm => (ho' m hm).trans (ho m hm), hq.trans hq'⟩
  rw [hbed, Option.map_some, Bed.lastTake_takes hx]

end

/-- The records behind the response are what an update of those before it makes of them. -/
theorem recsAre {n : Log} {q : Qn} {l : List Rec} (ht : RecsAre n q l z t) : RecsAre n q l s t := by
  refine ⟨ht.lch.trans ?_, ht.aclk.trans k.aclk, ht.tap.trans (by rw [k.tap]), ht.linkOut.trans k.linkOut⟩
  unfold State.modQ State.modL
  rw [k.lch]

end Answered

end Sys2Proof.Machine
end

section
/-! SUPPORT. A completion record whose write has its response, and the response as the obligation reads it (R136, R350, R431, R485). -/

namespace Sys2Proof.Machine

variable {s z : State} {sl : SliceN} {w : Txn} {h : Nat} {err : Bool}

/-! ## Completion records -/

namespace Answered
variable {r : Rec} {ls rs : List Rec} (hown : w.own = .rcd r.n)
include hown

/-- A record whose write is answered and that stays: none before it is visible, or the backlogs have no room (R136, R431). -/
theorem recordWaits (k : Answered sl h w false s z) (hr : (s.que w.log w.q).recs = ls ++ r :: rs) (hls : ∀ y ∈ ls, y.n ≠ r.n ∧ y.seen = false)
    (hw : ls ≠ [] ∨ s.lch[w.log].roomFor r = false) :
    ∃ t, z.writeDone sl w false = t ∧ (t.que w.log w.q).recs = ls ++ { r with seen := true } :: rs
      ∧ t.lch[w.log].outs = s.lch[w.log].outs ∧ t.linkOut = s.linkOut ∧ t.hpt = s.hpt ∧ t.phys = s.phys ∧ sameOthers w.log s t ∧ sameSiblings w.log w.q s t := by
  have hup : updFirst (fun x => x.n == r.n) (fun x : Rec => { x with seen := true }) (z.que w.log w.q).recs = ls ++ { r with seen := true } :: rs := by
    rw [k.que, hr]
    exact updFirst_split _ _ (fun x hx => beq_eq_false_iff_ne.mpr (hls x hx).1) _ (beq_self_eq_true _) _
  have hk := k.recsAre (State.sees_recs z hup)
  have hh : z.hpt = s.hpt := k.hpt
  refine ⟨_, (State.writeDone_seen hown z).trans (hk.waits fun y hy => ?_), hk.recs, hk.outs, hk.linkOut, hh, k.phys, (State.parts_of_modQ hk.lch).2⟩
  cases ls with
  | nil =>
    obtain rfl : { r with seen := true } = y := Option.some.inj hy
    exact .inr (hw.resolve_left fun c => c rfl)
  | cons x ls =>
    obtain rfl : x = y := Option.some.inj hy
    exact .inl (hls x (List.mem_cons_self ..)).2

/-- The oldest record is visible: it raises what it owes (R69, R136, R431). -/
theorem recordRaises (k : Answered sl h w false s z) (hr : (s.que w.log w.q).recs = r :: rs) (hrs : ∀ y ∈ rs, y.seen = false) (hroom : s.lch[w.log].roomFor r = true)
    (hd : s.tap.drives = false) :
    let put (b : Bool) (l : List Evt) : List Evt := if b then insertEvt ⟨r.dg, s.aclk, r.ord⟩ l else l
    ∃ t, z.writeDone sl w false = t ∧ t.slices[sl].out = dropFirst (fun y => y.isEntry w) s.slices[sl].out
      ∧ (t.que w.log w.q).recs = rs ∧ t.lch[w.log].outs[0] = put r.done s.lch[w.log].outs[0]
      ∧ t.lch[w.log].outs[1] = put r.fault s.lch[w.log].outs[1] ∧ t.lch[w.log].outs[2] = put r.group s.lch[w.log].outs[2]
      ∧ t.linkOut = (if r.ack then s.linkOut ++ [(w.log, .ack w.q r.seq 1)] else s.linkOut)
      ∧ t.hpt = s.hpt ∧ t.phys = s.phys ∧ sameOthers w.log s t ∧ sameSiblings w.log w.q s t := by
  have hup : updFirst (fun x => x.n == r.n) (fun x : Rec => { x with seen := true }) (z.que w.log w.q).recs = { r with seen := true } :: rs := by
    rw [k.que, hr, updFirst, if_pos (beq_self_eq_true _)]
  have hk := k.recsAre (State.sees_recs z hup)
  obtain ⟨h1, h2, h3, h4, h5, hst, ho, hq⟩ := hk.raises rfl hroom hrs hd
  have hh : z.hpt = s.hpt := k.hpt
  rw [← State.writeDone_seen (sl := sl) hown z] at h1 h2 h3 h4 h5 hst ho hq
  exact ⟨_, rfl, by rw [hst]; exact k.out, h1, h2, h3, h4, h5, by rw [hst]; exact hh, by rw [hst]; exact k.phys, ho, hq⟩

/-- The failed write of the oldest record is counted, and it owes FAULT in place of DONE (R485). -/
theorem recordFails (k : Answered sl h w true s z) (hr : (s.que w.log w.q).recs = r :: rs) (hrs : ∀ y ∈ rs, y.seen = false)
    (hroom : s.lch[w.log].roomFor { r with done := false, fault := true } = true) (hd : s.tap.drives = false) :
    let put (b : Bool) (l : List Evt) : List Evt := if b then insertEvt ⟨r.dg, s.aclk, r.ord⟩ l else l
    ∃ t, z.writeDone sl w true = t ∧ t.slices[sl].out = dropFirst (fun y => y.isEntry w) s.slices[sl].out
      ∧ (t.que w.log w.q).recs = rs ∧ t.lch[w.log].outs[0] = s.lch[w.log].outs[0]
      ∧ t.lch[w.log].outs[1] = put true s.lch[w.log].outs[1] ∧ t.lch[w.log].outs[2] = put r.group s.lch[w.log].outs[2]
      ∧ t.linkOut = (if r.ack then s.linkOut ++ [(w.log, .ack w.q r.seq 1)] else s.linkOut)
      ∧ t.phys[w.phys].c = { s.phys[w.phys].c with cringFails := min 0xFFFF (s.phys[w.phys].c.cringFails + 1) }
      ∧ t.hpt.herr = min 0xFFFFFFFF (s.hpt.herr + 1) ∧ Machine.samePhys w.phys s t ∧ sameOthers w.log s t ∧ sameSiblings w.log w.q s t := by
  obtain ⟨hk, hc⟩ := State.cringFail_head ((congrArg Que.recs (k.que ..)).trans hr) w.phys
  obtain ⟨h1, h2, h3, h4, h5, hst, ho, hq⟩ := (k.recsAre hk).raises rfl hroom hrs hd
  rw [← State.writeDone_failed (sl := sl) hown z] at h1 h2 h3 h4 h5 hst ho hq
  generalize z.cringFail w.log w.phys w.q r.n = y at hc hst
  obtain ⟨hp, hpl⟩ := k.samePhys (p := w.phys) (t := z.writeDone sl w true) (f := fun c => { c with c := { c.c with cringFails := min 0xFFFF (c.c.cringFails + 1) } }) (by rw [hst, hc]; rfl)
  have hs : (z.writeDone sl w true).slices = z.slices := by rw [hst, hc]; rfl
  have hh : (z.writeDone sl w true).hpt = z.hpt := by rw [hst, hc]; rfl
  exact ⟨_, rfl, by rw [hs]; exact k.out, h1, h2, h3, h4, h5, by rw [hpl], by rw [hh]; exact k.herr, hp, ho, hq⟩

end Answered

/-! ## The command -/

theorem State.pinsAt_drives (hp : s.pinsAt h = true) : s.tap.drives = false := by
  unfold State.pinsAt at hp
  simp only [Bool.and_eq_true, Bool.not_eq_true'] at hp
  exact hp.2

/-- A discarded response leaves the queues, and counts (R355, R356). -/
theorem State.staleAnswer_facts (s : State) (sl : SliceN) (h : Nat) (w : Txn) : let t := ((s.writeAnswered sl h w).fenced w).drainStep w.log
    t.slices[sl].out = dropFirst (fun y => y.isEntry w) s.slices[sl].out ∧ t.hpt = { s.hpt with fenced := min 0xFFFFFFFF (s.hpt.fenced + 1) }
      ∧ (∀ m : Log, t.lch[m].qs = s.lch[m].qs) ∧ t.phys = s.phys ∧ t.hclk = h := by
  obtain ⟨hq, hf⟩ := ((s.writeAnswered sl h w).fenced w).drainStep_parts w.log
  refine ⟨by rw [hf]; exact (s.writeAnswered_slice sl h w).1, by rw [hf]; rfl, fun m => (hq m).trans ?_, by rw [hf]; rfl, by rw [hf]; rfl⟩
  exact State.modL_qs _ w.log (f := fun l => { l with fdrain := l.fdrain.map fun (o, c) => if o = w.inc then (o, c + 1) else (o, c) }) (fun _ => rfl) m

/-- A response that reaches its write (R350, R352). -/
theorem exec_writeResponse_answered {tag : BitVec 20} {resp : BitVec 2} (hp : s.pinsAt h = true) (hb : s.slices[sl].lastB ≠ some h) (hn : named s sl true tag = some w)
    (hi : s.inc w.log = w.inc) : ∃ z, Answered sl h w (decide (resp ≠ 0)) s z ∧ exec (.writeResponse sl tag resp h) s = .next (z.writeDone sl w (decide (resp ≠ 0))) :=
  ⟨_, .noted s sl h w _, exec_writeResponse hp hb hn hi⟩

end Sys2Proof.Machine
end

section
namespace Sys2Proof.Machine

/-- Settles O54: the write that is answered is no longer outstanding, and what its owner makes of the response. -/
theorem writeResponsesSettleTheirWrite : Obligations.WriteResponsesSettleTheirWrite := by
  unfold Obligations.WriteResponsesSettleTheirWrite
  intro s sl tag resp h hp hb
  refine ⟨fun hn => exec_writeResponse_stray hp hb hn, fun w hn => ?_⟩
  have hd := State.pinsAt_drives hp
  refine ⟨fun hi => ⟨_, exec_writeResponse_stale hp hb hn hi, s.staleAnswer_facts sl h w⟩, ?_⟩
  have answered := fun hi => exec_writeResponse_answered (resp := resp) hp hb hn hi
  have ok : resp = 0 → decide (resp ≠ 0) = false := fun e => by rw [e]; rfl
  refine ⟨fun id j a x hi hown hkind ha hx => ?_, fun id j a hi hown hkind hl ha hop => ?_, fun r rs hi hown hr he hrs hroom => ?_,
    fun id j a b x hi hown hkind ha hop hbed hx => ?_, fun r rs hi hown hr he hrs hroom => ?_, fun r ls rs hi hown hr hls hns he => ?_, fun r rs hi hown hr he hroom => ?_⟩
    <;> obtain ⟨z, k, hz⟩ := answered hi <;> rw [hz]
  · obtain ⟨v, hv, ho, ⟨b, hba, hbw, hbe, hbk⟩, hf⟩ := k.write hown hkind ha hx
    simp only [decide_eq_true_eq] at hbw hf
    exact ⟨v, by rw [hv], ho, ⟨b, hba, hbw, fun e => hbe (decide_eq_true e), fun e => hbk (ok e)⟩, hf⟩
  · obtain ⟨v, hv, ho, hlk, ⟨b, o, hba, hbl⟩, hf⟩ := k.locked hown hkind ha hop hl
    simp only [decide_eq_true_eq] at hbl hf
    exact ⟨v, by rw [hv], ho, hlk, ⟨b, o, hba, hbl⟩, hf⟩
  · rw [ok he] at k ⊢
    obtain ⟨t, ht, ho, h1, h2, h3, h4, h5, hf⟩ := k.recordRaises hown hr hrs hroom hd
    exact ⟨t, by rw [ht], ho, h1, h2, h3, h4, fun _ => h5, hf⟩
  · obtain ⟨v, hv, hf⟩ := k.take hown hkind ha hop hbed hx
    simp only [decide_eq_true_eq] at hf
    exact ⟨v, by rw [hv], hf⟩
  · rw [decide_eq_true he] at k ⊢
    rw [if_pos he]
    obtain ⟨t, ht, hf⟩ := k.recordFails hown hr hrs hroom hd
    exact ⟨t, by rw [ht], hf⟩
  · rw [ok he] at k ⊢
    obtain ⟨t, ht, hf⟩ := k.recordWaits hown hr hns (.inl hls)
    exact ⟨t, by rw [ht], hf⟩
  · rw [ok he] at k ⊢
    obtain ⟨t, ht, hf⟩ := k.recordWaits (ls := []) hown hr (fun _ hy => nomatch hy) (.inr hroom)
    exact ⟨t, by rw [ht], hf⟩

end Sys2Proof.Machine
end
